-- ==== Sys2Proof/Word.lean ====
section
/-! DEFINITION. The word types of the Budric B6 and their plainest arithmetic: bytes, 32- and 64-bit words,
sets of the 96 lanes of a train (R5, R7), and list access by index with a default. -/
namespace Sys2Proof

/-- One byte of memory. -/
abbrev Byte := BitVec 8
/-- One 32-bit register or instruction word. -/
abbrev Word := BitVec 32
/-- A 64-bit operand, address or counter (R31). -/
abbrev DWord := BitVec 64
/-- A set of the lanes 0-95 of a train, bit i standing for lane i (R7). -/
abbrev LaneSet := BitVec 96

/-- The lane numbers 0-95 in ascending order (R10). -/
def laneIds : List Nat := List.range 96

/-- Whether lane `l` is in the set. -/
def LaneSet.has (m : LaneSet) (l : Nat) : Bool := m.getLsbD l

/-- The set holding one lane. -/
def LaneSet.single (l : Nat) : LaneSet := BitVec.ofNat 96 (2 ^ l)

/-- The set of the lanes below 96 that satisfy a test. -/
def LaneSet.ofPred (p : Nat → Bool) : LaneSet :=
  BitVec.ofNat 96 (laneIds.foldl (fun acc l => if p l then acc + 2 ^ l else acc) 0)

/-- The lanes of a set, ascending. -/
def LaneSet.toList (m : LaneSet) : List Nat := laneIds.filter (fun l => m.getLsbD l)

/-- The lowest lane of a set, when there is one. -/
def LaneSet.lowest (m : LaneSet) : Option Nat := laneIds.find? (fun l => m.getLsbD l)

/-- Lane set difference. -/
def LaneSet.diff (a b : LaneSet) : LaneSet := a &&& ~~~b

/-- The number of lanes of a set. -/
def LaneSet.card (m : LaneSet) : Nat := m.toList.length

/-- List read with a default for an index outside the list. -/
def nth {α : Type} (dflt : α) (l : List α) (i : Nat) : α := l.getD i dflt

/-- Change of one list element; an index outside the list changes nothing. -/
def updAt {α : Type} (l : List α) (i : Nat) (f : α → α) : List α :=
  match l, i with
  | [], _ => []
  | x :: xs, 0 => f x :: xs
  | x :: xs, i + 1 => x :: updAt xs i f

/-- The distinct elements of a list, in the order of their first occurrences. -/
def uniq {α : Type} [DecidableEq α] (l : List α) : List α :=
  l.foldl (fun acc x => if acc.contains x then acc else acc ++ [x]) []

/-- An element put before the first that it may precede. -/
def insertBy {α : Type} (le : α → α → Bool) (x : α) : List α → List α
  | [] => [x]
  | y :: l => if le x y then x :: y :: l else y :: insertBy le x l

/-- A list in ascending order, equals in the order they had. -/
def sortBy {α : Type} (le : α → α → Bool) (l : List α) : List α := l.foldr (insertBy le) []

/-- The 32-bit half of a 64-bit value: the low one for `false`. -/
def DWord.half (w : DWord) (hi : Bool) : Word :=
  if hi then (w >>> 32).setWidth 32 else w.setWidth 32

/-- A 64-bit value from its low and high words (R31). -/
def DWord.ofHalves (lo hi : Word) : DWord := (hi.setWidth 64 <<< 32) ||| lo.setWidth 64

/-- Bits [hi:lo] of a number, as a number (R5). -/
def bitsOf (x hi lo : Nat) : Nat := (x >>> lo) % 2 ^ (hi + 1 - lo)

/-- Two's-complement reading of the low `w` bits of `x`. -/
def signedOf (w x : Nat) : Int :=
  let y := x % 2 ^ w
  if y < 2 ^ (w - 1) then (y : Int) else (y : Int) - (2 ^ w : Nat)

/-- The low `w` bits of an integer, as a number. -/
def wrapTo (w : Nat) (x : Int) : Nat := (x % ((2 ^ w : Nat) : Int)).toNat

/-- Sign extension of the low `w` bits of `x` to 64 bits. -/
def sext64 (w x : Nat) : DWord := BitVec.ofInt 64 (signedOf w x)

/-- Whether bits [63:56] are copies of bit 55 (R67, R222). -/
def canonical (a : DWord) : Bool :=
  let t := bitsOf a.toNat 63 55
  t == 0 || t == 511

end Sys2Proof
end

