-- ==== Sys2Proof/Syntax.lean ====
section
/-! DEFINITION. The instructions and steps of the Budric B6: the fields of an instruction word (R70, R73, R75,
R76), and `Instr`, one constructor for each row of spec/opcode_table.json. The first 184 rows are instructions a
path issues; the other 102 rows are the steps of the agents beside an issuing path (scheduler, engines, service
trains, die, package, host and fabric), which have no encoding and carry what the step is told as arguments. -/
namespace Sys2Proof

/-- The KIND-0 register extension (R73). -/
structure Ext0 where
  c   : BitVec 6
  gp  : BitVec 6
  go  : Bool
  gn  : Bool
  sc  : BitVec 3
  od  : BitVec 2
  sat : Bool
  tov : Bool
  ty  : BitVec 4
  sub : BitVec 6
  deriving DecidableEq, Repr

/-- The KIND-0 extension whose fields are all zero. -/
def Ext0.zero : Ext0 := ⟨0, 0, false, false, 0, 0, false, false, 0, 0⟩

/-- What follows the first word: nothing (form S), a register extension (form L, KIND 0), an immediate
extension (form L, KIND 1), or a register extension and a literal (form W) (R66, R73, R75, R76). -/
inductive Ext where
  | s
  | l0 (e : Ext0)
  | l1 (imm : BitVec 16) (sub : BitVec 6)
  | w  (e : Ext0) (lit : Word)
  deriving DecidableEq, Repr

/-- The fields of one instruction, opcode apart (R70). -/
structure Fields where
  d   : BitVec 6
  a   : BitVec 6
  b   : BitVec 6
  x   : BitVec 4
  ext : Ext
  deriving DecidableEq, Repr

/-- The access width of a memory opcode's width code (R81). -/
inductive Width where
  | w8 | w16 | w32 | w64 | w128
  deriving DecidableEq, Repr

/-- Access size in bytes. -/
def Width.bytes : Width → Nat
  | .w8 => 1 | .w16 => 2 | .w32 => 4 | .w64 => 8 | .w128 => 16

/-- The low three opcode bits of a width (R81). -/
def Width.code : Width → Nat
  | .w8 => 0 | .w16 => 1 | .w32 => 2 | .w64 => 3 | .w128 => 4

/-- The width of a three-bit code, codes 5-7 being unassigned (R81). -/
def Width.ofCode : Nat → Option Width
  | 0 => some .w8 | 1 => some .w16 | 2 => some .w32 | 3 => some .w64 | 4 => some .w128 | _ => none

/-- The sixteen element types (R36, Table MODE register, ETYPE). -/
inductive ETy where
  | i32 | n32 | i64 | n64 | i16 | n16 | i8 | n8 | fp64 | fp32 | fp16 | bf16 | e5m2 | e4m3 | e2m1 | fx64
  deriving DecidableEq, Repr

/-- The type of an ETYPE or TY code (R36). -/
def ETy.ofCode : Nat → ETy
  | 0 => .i32 | 1 => .n32 | 2 => .i64 | 3 => .n64 | 4 => .i16 | 5 => .n16 | 6 => .i8 | 7 => .n8
  | 8 => .fp64 | 9 => .fp32 | 10 => .fp16 | 11 => .bf16 | 12 => .e5m2 | 13 => .e4m3 | 14 => .e2m1 | _ => .fx64

/-- The ETYPE code of a type (R36). -/
def ETy.code : ETy → Nat
  | .i32 => 0 | .n32 => 1 | .i64 => 2 | .n64 => 3 | .i16 => 4 | .n16 => 5 | .i8 => 6 | .n8 => 7
  | .fp64 => 8 | .fp32 => 9 | .fp16 => 10 | .bf16 => 11 | .e5m2 => 12 | .e4m3 => 13 | .e2m1 => 14 | .fx64 => 15

/-- Which path of which resident train: the core of the package (0-287), the slot, the entry of the path table,
or of the handler's table while a handler or the debug agent runs (R16, R177). -/
structure PathRef where
  core    : Nat
  slot    : Nat
  entry   : Nat
  handler : Bool
  deriving DecidableEq, Repr

/-- A crew of a launch: the launch's number in this model and the crew's linear index (R343). -/
structure CrewRef where
  launch : Nat
  crew   : Nat
  deriving DecidableEq, Repr

/-- The outcome that a home reports for a remote request (Table Outcomes of remote requests, R404). -/
inductive RemoteOutcome where
  | performed | refused | refusedWs | poisoned | uncorrectable | lost
  deriving DecidableEq, Repr

/-- What one rank sends to the root depot for a COLL (R428, R430, R433): its M and parameters, its bytes, and whether the
contribution is poisoned. -/
structure CollSend where
  m     : Nat
  kind  : Nat
  red   : Nat
  ty    : Nat
  count : Nat
  root  : Nat
  data  : List Byte
  poisoned : Bool
  deriving DecidableEq, Repr

/-- What bring-up finds: which image slots verify, the package's index, its routes and group routes, the tier's
capacity, the image's placements and the fused interface version (R392, R393, R395, R397). -/
structure BootInfo where
  slotA   : Bool
  slotB   : Bool
  pkgId   : Nat
  routes  : List (Nat × Word)
  groups  : List (Nat × Word)
  tier    : List Nat
  wcAge   : Nat
  inSize  : Nat
  outSize : Nat
  ctxBase : Nat
  iface   : Word
  deriving DecidableEq, Repr

/-- An atomic request that arrives from a peer package (R402): who asks and with which tag, the physical address, the
operation with its width and type, its operands, rounding, FTZ and draw, whether the instruction returns nothing, and its
ASID, whose status area takes a failure's bits (R299). -/
structure RemoteAtomic where
  src   : Nat
  tag   : Nat
  addr  : Nat
  op    : Nat
  bytes : Nat
  ty    : Nat
  b     : BitVec 64
  c     : BitVec 64
  rmode : Nat
  ftz   : Bool
  draw  : BitVec 24
  noReply : Bool
  asid  : Nat
  deriving DecidableEq, Repr

/-- One instruction or one step of the Budric B6. -/
inductive Instr where
  /-- ILL (R80): opcode 0x00 in any form, with the other bits of its words. -/
  | ill (len : BitVec 2) (hi : BitVec 22) (w1 w2 : Word)
  /-- NOP (R81). -/
  | nop (f : Fields)
  /-- SETMODE (R117). -/
  | setmode (f : Fields)
  /-- GETSP (R118). -/
  | getsp (f : Fields)
  /-- SETSP (R118). -/
  | setsp (f : Fields)
  /-- WINSTACK_WRITE (R156). -/
  | winstackWrite (f : Fields)
  /-- WINDEPTH_WRITE (R169). -/
  | windepthWrite (f : Fields)
  /-- RAMPSET_WRITE (R380). -/
  | rampsetWrite (f : Fields)
  /-- SAMPCTL_WRITE (R212). -/
  | sampctlWrite (f : Fields)
  /-- DBGCTL_WRITE (R191). -/
  | dbgctlWrite (f : Fields)
  /-- REGION (R186). -/
  | region (f : Fields)
  /-- TRAP (R183). -/
  | trap (f : Fields)
  /-- ERET (R182). -/
  | eret (f : Fields)
  /-- BRK (R183). -/
  | brk (f : Fields)
  /-- YIELD (R145). -/
  | yield (f : Fields)
  /-- WAITL (R144). -/
  | waitl (f : Fields)
  /-- BRA (R133). -/
  | bra (f : Fields)
  /-- BRX (R134). -/
  | brx (f : Fields)
  /-- JSET (R135). -/
  | jset (f : Fields)
  /-- JWAIT (R136). -/
  | jwait (f : Fields)
  /-- CALL (R161). -/
  | call (f : Fields)
  /-- CALLX (R161). -/
  | callx (f : Fields)
  /-- RET (R163). -/
  | ret (f : Fields)
  /-- EXIT (R148). -/
  | exit (f : Fields)
  /-- TAIL (R148). -/
  | tail (f : Fields)
  /-- WFLUSH (R165). -/
  | wflush (f : Fields)
  /-- IADD (R98). -/
  | iadd (f : Fields)
  /-- ISUB (R98). -/
  | isub (f : Fields)
  /-- IMUL (R98). -/
  | imul (f : Fields)
  /-- IMULHI (R98). -/
  | imulhi (f : Fields)
  /-- IMAD (R98). -/
  | imad (f : Fields)
  /-- IMIN (R98). -/
  | imin (f : Fields)
  /-- IMAX (R98). -/
  | imax (f : Fields)
  /-- IABS (R102). -/
  | iabs (f : Fields)
  /-- AND (R98). -/
  | and (f : Fields)
  /-- OR (R98). -/
  | or (f : Fields)
  /-- XOR (R98). -/
  | xor (f : Fields)
  /-- ANDN (R98). -/
  | andn (f : Fields)
  /-- SHL (R99). -/
  | shl (f : Fields)
  /-- SHR (R99). -/
  | shr (f : Fields)
  /-- SHA (R99). -/
  | sha (f : Fields)
  /-- ROT (R99). -/
  | rot (f : Fields)
  /-- BFE (R100). -/
  | bfe (f : Fields)
  /-- BFI (R100). -/
  | bfi (f : Fields)
  /-- POPC (R98). -/
  | popc (f : Fields)
  /-- CLZ (R98). -/
  | clz (f : Fields)
  /-- BREV (R98). -/
  | brev (f : Fields)
  /-- ICMP (R100). -/
  | icmp (f : Fields)
  /-- SEL (R100). -/
  | sel (f : Fields)
  /-- MOV (R98). -/
  | mov (f : Fields)
  /-- MOVI (R98). -/
  | movi (f : Fields)
  /-- LEA (R101). -/
  | lea (f : Fields)
  /-- IADDS (R102). -/
  | iadds (f : Fields)
  /-- BYSEL (R103). -/
  | bysel (f : Fields)
  /-- IDOT4 (R103). -/
  | idot4 (f : Fields)
  /-- SADD (R104). -/
  | sadd (f : Fields)
  /-- SSUB (R104). -/
  | ssub (f : Fields)
  /-- SMUL (R104). -/
  | smul (f : Fields)
  /-- SAND (R104). -/
  | sand (f : Fields)
  /-- SOR (R104). -/
  | sor (f : Fields)
  /-- SXOR (R104). -/
  | sxor (f : Fields)
  /-- SSHL (R104). -/
  | sshl (f : Fields)
  /-- SSHR (R104). -/
  | sshr (f : Fields)
  /-- SCMP (R105). -/
  | scmp (f : Fields)
  /-- SMOV (R104). -/
  | smov (f : Fields)
  /-- SMOVI (R104). -/
  | smovi (f : Fields)
  /-- SLEA (R104). -/
  | slea (f : Fields)
  /-- V2S (R105). -/
  | v2s (f : Fields)
  /-- S2V (R105). -/
  | s2v (f : Fields)
  /-- SMIN (R104). -/
  | smin (f : Fields)
  /-- SMAX (R104). -/
  | smax (f : Fields)
  /-- FADD (R107). -/
  | fadd (f : Fields)
  /-- FSUB (R107). -/
  | fsub (f : Fields)
  /-- FMUL (R107). -/
  | fmul (f : Fields)
  /-- FFMA (R107). -/
  | ffma (f : Fields)
  /-- FMIN (R107). -/
  | fmin (f : Fields)
  /-- FMAX (R107). -/
  | fmax (f : Fields)
  /-- FCMP (R107). -/
  | fcmp (f : Fields)
  /-- FCLASS (R108). -/
  | fclass (f : Fields)
  /-- FCVT (R109). -/
  | fcvt (f : Fields)
  /-- ICVTF (R109). -/
  | icvtf (f : Fields)
  /-- FCVTI (R109). -/
  | fcvti (f : Fields)
  /-- FRND (R108). -/
  | frnd (f : Fields)
  /-- FSCALE (R108). -/
  | fscale (f : Fields)
  /-- FDOT2 (R108). -/
  | fdot2 (f : Fields)
  /-- FRCP (R111). -/
  | frcp (f : Fields)
  /-- FRSQ (R111). -/
  | frsq (f : Fields)
  /-- FSQRT (R111). -/
  | fsqrt (f : Fields)
  /-- FDIV (R111). -/
  | fdiv (f : Fields)
  /-- FEXP2 (R111). -/
  | fexp2 (f : Fields)
  /-- FLOG2 (R111). -/
  | flog2 (f : Fields)
  /-- FSIN (R111). -/
  | fsin (f : Fields)
  /-- FCOS (R111). -/
  | fcos (f : Fields)
  /-- FTANH (R111). -/
  | ftanh (f : Fields)
  /-- FSIGM (R111). -/
  | fsigm (f : Fields)
  /-- FTAB (R114). -/
  | ftab (f : Fields)
  /-- TABLD (R115). -/
  | tabld (f : Fields)
  /-- LXCH (R120). -/
  | lxch (f : Fields)
  /-- VOTE (R121). -/
  | vote (f : Fields)
  /-- MATCH (R122). -/
  | match (f : Fields)
  /-- REDUCE (R123). -/
  | reduce (f : Fields)
  /-- SCAN (R123). -/
  | scan (f : Fields)
  /-- PLUT (R124). -/
  | plut (f : Fields)
  /-- P2V (R124). -/
  | p2v (f : Fields)
  /-- V2P (R124). -/
  | v2p (f : Fields)
  /-- LD (R224). -/
  | ld (w : Width) (f : Fields)
  /-- ST (R224). -/
  | st (w : Width) (f : Fields)
  /-- LDS (R286). -/
  | lds (w : Width) (f : Fields)
  /-- STS (R286). -/
  | sts (w : Width) (f : Fields)
  /-- LDC (R247). -/
  | ldc (w : Width) (f : Fields)
  /-- LDI (R248). -/
  | ldi (w : Width) (f : Fields)
  /-- LDL (R249). -/
  | ldl (w : Width) (f : Fields)
  /-- LDT (R422). -/
  | ldt (w : Width) (f : Fields)
  /-- STT (R422). -/
  | stt (w : Width) (f : Fields)
  /-- ATOM (R302). -/
  | atom (f : Fields)
  /-- RED (R302). -/
  | red (f : Fields)
  /-- CAS (R302). -/
  | cas (f : Fields)
  /-- FXADD (R303). -/
  | fxadd (f : Fields)
  /-- WAITADDR (R307). -/
  | waitaddr (f : Fields)
  /-- FENCE (R332). -/
  | fence (f : Fields)
  /-- RFENCE (R251). -/
  | rfence (f : Fields)
  /-- OPFENCE (R266). -/
  | opfence (f : Fields)
  /-- PREF (R252). -/
  | pref (f : Fields)
  /-- CACHEOP_WB (R253). -/
  | cacheopWb (f : Fields)
  /-- CACHEOP_EVICT (R253). -/
  | cacheopEvict (f : Fields)
  /-- CACHEOP_ZERO (R253). -/
  | cacheopZero (f : Fields)
  /-- SMAP (R290). -/
  | smap (f : Fields)
  /-- SUNMAP (R293). -/
  | sunmap (f : Fields)
  /-- TLBI_PAGE (R239). -/
  | tlbiPage (f : Fields)
  /-- TLBI_ASID (R239). -/
  | tlbiAsid (f : Fields)
  /-- TLBI_ALL (R239). -/
  | tlbiAll (f : Fields)
  /-- MMA (R262). -/
  | mma (f : Fields)
  /-- MMAG (R262). -/
  | mmag (f : Fields)
  /-- GATHER (R264). -/
  | gather (f : Fields)
  /-- MWAIT (R268). -/
  | mwait (f : Fields)
  /-- MWAIT_ALL (R268). -/
  | mwaitAll (f : Fields)
  /-- CPY (R273). -/
  | cpy (f : Fields)
  /-- CPYX (R273). -/
  | cpyx (f : Fields)
  /-- CWAIT (R276). -/
  | cwait (f : Fields)
  /-- CWAIT_ALL (R276). -/
  | cwaitAll (f : Fields)
  /-- CTEST (R276). -/
  | ctest (f : Fields)
  /-- QBIND (R278). -/
  | qbind (f : Fields)
  /-- QFREE (R278). -/
  | qfree (f : Fields)
  /-- NMC (R373). -/
  | nmc (f : Fields)
  /-- NMFENCE (R375). -/
  | nmfence (f : Fields)
  /-- ACCRD (R270). -/
  | accrd (f : Fields)
  /-- ACCWR_LOAD (R270). -/
  | accwrLoad (f : Fields)
  /-- ACCWR_LOAD64 (R270). -/
  | accwrLoad64 (f : Fields)
  /-- ACCWR_ZERO (R270). -/
  | accwrZero (f : Fields)
  /-- ACCWR_FREE (R270). -/
  | accwrFree (f : Fields)
  /-- BARARV (R311). -/
  | bararv (f : Fields)
  /-- BARWT (R311). -/
  | barwt (f : Fields)
  /-- BARSYNC (R311). -/
  | barsync (f : Fields)
  /-- RBAR_SYNC (R311). -/
  | rbarSync (f : Fields)
  /-- RBAR_ARV (R311). -/
  | rbarArv (f : Fields)
  /-- RBAR_WT (R311). -/
  | rbarWt (f : Fields)
  /-- LAUNCH (R346). -/
  | launch (f : Fields)
  /-- WLPUSH (R358). -/
  | wlpush (f : Fields)
  /-- WLPOP (R359). -/
  | wlpop (f : Fields)
  /-- WLPOP_DONE (R359). -/
  | wlpopDone (f : Fields)
  /-- QUIESCE (R361). -/
  | quiesce (f : Fields)
  /-- QUIESCE_TEST (R361). -/
  | quiesceTest (f : Fields)
  /-- INTENT (R445). -/
  | intent (f : Fields)
  /-- INTENT_G (R445). -/
  | intentG (f : Fields)
  /-- TOKQ_BAL (R210). -/
  | tokqBal (f : Fields)
  /-- TOKQ_RATE (R210). -/
  | tokqRate (f : Fields)
  /-- TOKQ_CHG (R210). -/
  | tokqChg (f : Fields)
  /-- TOKQ_RSV (R210). -/
  | tokqRsv (f : Fields)
  /-- CURQ (R210). -/
  | curq (f : Fields)
  /-- STN (R413). -/
  | stn (f : Fields)
  /-- MCST (R417). -/
  | mcst (f : Fields)
  /-- COLL_AR (R430). -/
  | collAr (f : Fields)
  /-- COLL_RS (R430). -/
  | collRs (f : Fields)
  /-- COLL_AG (R430). -/
  | collAg (f : Fields)
  /-- COLL_BC (R430). -/
  | collBc (f : Fields)
  /-- COLL_BAR (R430). -/
  | collBar (f : Fields)
  /-- FBAR (R441). -/
  | fbar (f : Fields)
  /-- VIEWQ_TAG (R439). -/
  | viewqTag (f : Fields)
  /-- VIEWQ_STATE (R439). -/
  | viewqState (f : Fields)
  /-- VIEWQ_LIVE (R439). -/
  | viewqLive (f : Fields)
  /-- VIEWQ_SEQ (R439). -/
  | viewqSeq (f : Fields)
  /-- VJOIN (R438). -/
  | vjoin (f : Fields)
  /-- SHSYNC_WAIT (R425). -/
  | shsyncWait (f : Fields)
  /-- SHSYNC_PUB (R425). -/
  | shsyncPub (f : Fields)
  -- The steps of the agents beside an issuing path.
  /-- The core's scheduler selects at most one ready path (R195). -/
  | issueCycle (core : Nat)
  /-- The words of a path's next instruction are fetched (R68). -/
  | instructionFetch (r : PathRef)
  /-- The redirect delay of a path ends (R130). -/
  | redirectDelayEnd (r : PathRef)
  /-- An outstanding long-latency result is written (R33). -/
  | longLatencyResultWrite (r : PathRef) (id : Nat)
  /-- The home acknowledges a store as performed (R246). -/
  | storeAck (core id : Nat)
  /-- A page-table walk of a core completes (R238). -/
  | tlbWalkComplete (core asid : Nat) (va : DWord)
  /-- A waiting page-fault record is written to its queue (R235). -/
  | faultRecordWrite (asid : Nat)
  /-- A page-parked path that has woken replays (R234). -/
  | faultReplay (r : PathRef)
  /-- A handler has run 1 ms of TIME without ERET (R181). -/
  | watchdogExpiry (core slot : Nat)
  /-- A requested halt enters the debug agent (R192). -/
  | haltEntry (core slot : Nat)
  /-- The Tender takes its next queued transfer (R158). -/
  | tenderTransferStart (core : Nat)
  /-- A frame spill completes (R161). -/
  | spillComplete (core : Nat)
  /-- A frame fill completes (R163). -/
  | fillComplete (core : Nat)
  /-- A deferred path record has been written (R127). -/
  | deferredRecordWritten (core : Nat)
  /-- A deferred record has been refilled into a freed entry (R129). -/
  | deferredRefillDone (core : Nat)
  /-- The drain of an ended train completes (R149). -/
  | trainDrainComplete (core slot : Nat)
  /-- The work of a retirement tracker completes (R149). -/
  | trackerDrainComplete (core idx : Nat)
  /-- A service train performs one atomic request of its queue (R302). -/
  | atomicRequest (cluster idx : Nat) (inbound : Option RemoteAtomic)
  /-- A service train performs one barrier arrival of its queue (R311). -/
  | barrierArrive (cluster idx : Nat)
  /-- A service train performs one completion-object update of its queue (R272). -/
  | completionObjectUpdate (cluster idx : Nat)
  /-- A waiter of WAITADDR re-reads after a write to its line, or a loss of its monitor (R307). -/
  | waitaddrWake (r : PathRef)
  /-- A WAITADDR deadline passes (R307). -/
  | waitaddrTimeout (r : PathRef)
  /-- A queued matrix operation of a pair (0-143) starts (R265). -/
  | matrixOpStart (pair id : Nat)
  /-- A started matrix operation completes (R263). -/
  | matrixOpComplete (pair id : Nat)
  /-- A copy arrives in its cluster's queue (R279). -/
  | copyQueueArrival (cluster id : Nat)
  /-- A copy starts on an engine (R265). -/
  | copyStart (cluster id : Nat)
  /-- A copy completes, fails, or stops at a PARK page (R274, R275). -/
  | copyComplete (cluster id : Nat)
  /-- A freed circular buffer has drained (R278). -/
  | bufferFreed (cluster q : Nat)
  /-- The signal box grants its oldest request (R316). -/
  | signalBoxGrant (cluster : Nat)
  /-- A core renews its band (R201). -/
  | bandRenewal (core : Nat)
  /-- A cluster cycle of a die, before which TIME advances by `dt` counts (R363, R366). -/
  | clusterCycle (die dt : Nat)
  /-- A core takes one sample (R213). -/
  | sample (core : Nat)
  /-- A sensitivity window of a core ends (R319). -/
  | sensitivityWindowEnd (core : Nat)
  /-- A core resumes after its clock relocked (R320). -/
  | ratioRelockDone (core : Nat)
  /-- The distributor asks for a pre-emption on behalf of a waiting launch (R354). -/
  | preemptRequest (launch : Nat)
  /-- A path awaiting its region is stopped in full (R189). -/
  | regionStopTimeout (r : PathRef)
  /-- A stopped crew is saved (R189). -/
  | preemptSave (crew : CrewRef)
  /-- A save is abandoned (R282). -/
  | preemptAbandon (crew : CrewRef)
  /-- A crew whose save was abandoned may be chosen again (R354). -/
  | victimHoldoffEnd (crew : CrewRef)
  /-- A pending launch's dependences are satisfied, or one failed (R347). -/
  | launchReady (launch : Nat)
  /-- The distributor places or restores the next crew of a launch (R350). -/
  | placeCrew (launch : Nat)
  /-- The distributor updates a launch's DONEOBJ after a completion record (R348). -/
  | doneobjUpdate (launch : Nat)
  /-- The termination detector reports an ASID quiescent (R360). -/
  | quiescenceDetect (asid : Nat)
  /-- An idle cluster starts its gating sequence (R365). -/
  | gateStart (cluster : Nat)
  /-- A gating sequence completes (R365). -/
  | gateComplete (cluster : Nat)
  /-- An ungating cluster's power is stable (R365). -/
  | ungateComplete (cluster : Nat)
  /-- Scrub reads one granule of a die's stacks (R384). -/
  | scrubPass (die granule : Nat)
  /-- The oldest prefetch hint of a die expires (R384). -/
  | prefetchHintExpiry (die : Nat)
  /-- A near-memory command's share on one stack is processed (R467). -/
  | nmcShareStart (id stack : Nat)
  /-- A near-memory command completes (R467). -/
  | nmcComplete (id : Nat)
  /-- The thrash detector clears a PIN it set (R377). -/
  | thrashUnpin (asid : Nat) (va : DWord)
  /-- The response to an outstanding remote request arrives (R404). -/
  | remoteResponse (id : Nat) (outcome : RemoteOutcome) (data : List Byte)
  /-- A write-combining entry reaches its age limit (R407). -/
  | wcAgeDrain (core id : Nat)
  /-- The home acknowledges a draining write-combining entry (R408). -/
  | wcAck (core id : Nat) (outcome : RemoteOutcome)
  /-- A target appends the notify item of an STN (R415). -/
  | notifyItemAppend (src stn : Nat)
  /-- 1 ms passes after an ACK without a COMMIT (R435). -/
  | commitTimeout (group : Nat)
  /-- 10 ms pass after a VJOIN without a COMMIT (R438). -/
  | vjoinTimeout (group : Nat)
  /-- A home's acknowledgement of a notify write or a release-store packet arrives (R413). -/
  | writeAcknowledgement (id : Nat) (outcome : RemoteOutcome)
  -- The steps that something outside the package, or another clock, brings about.
  /-- A written collective-group entry takes effect (R426). -/
  | groupEntryApply (group : Nat)
  /-- One governor step, with the dies at their trip limit (R379, R381). -/
  | governorStep (trip : Bool)
  /-- The droop detector stretches one period of a die (R366). -/
  | clockStretch (die : Nat)
  /-- Input power is first applied (R382). -/
  | powerOn
  /-- Package reset and start-up (R392). -/
  | packageReset (info : BootInfo)
  /-- A control frame arrives from the host (R386). -/
  | controlWriteFrame (lane seq off : Nat) (data : List Byte) (crcOk : Bool)
  /-- The host acknowledges a PUSH frame (R386). -/
  | controlAckReceive (lane seq : Nat)
  /-- The host rejects a PUSH frame, which is sent again (R386). -/
  | controlNakReceive (lane seq : Nat)
  /-- Firmware updates an ageing indicator (R394). -/
  | ageindUpdate (die : Nat) (value : Word)
  /-- The conductor handles a LAUNCH message (R388). -/
  | hostLaunch
  /-- The conductor handles a CONTEXT message (R390). -/
  | hostContext
  /-- The conductor handles a TLBI message (R388). -/
  | hostTlbi
  /-- The conductor handles a CONFIG message for RAMPSET (R380). -/
  | configRampset
  /-- The conductor handles a CONFIG message for a power-control word (R364). -/
  | configPowerControl
  /-- The conductor handles a CONFIG message for a die clock word (R385). -/
  | configDieClock
  /-- The conductor handles a CONFIG message for a clock-policy word (R318). -/
  | configClockPolicy
  /-- The conductor handles a CONFIG message for the migration-control word (R377). -/
  | configMigrationControl
  /-- The conductor handles a CONFIG message offering features (R393). -/
  | configFeatureOffer
  /-- The conductor handles a HALT message (R388). -/
  | hostHalt
  /-- The conductor handles a MIGRATE message (R376). -/
  | hostMigrate
  /-- The conductor handles a LISTBIND message (R388). -/
  | hostListbind
  /-- The conductor handles a RINGS message (R391). -/
  | hostRings
  /-- The conductor handles an ATTEST message; the quote is the identity key's (R392). -/
  | hostAttest (quote : List Byte) (spent : Bool)
  /-- A remote read of sectors of one line reaches this home (R401). -/
  | remoteReadRequest (src tag line : Nat) (sectors : BitVec 4)
  /-- A remote write packet reaches this home (R400). -/
  | remoteWritePacket (src tag line : Nat) (mask : BitVec 256) (data : List Byte)
  /-- A port has been down for 10 us (R398). -/
  | portLinkDown (port : Nat)
  /-- A loss notice for a peer arrives (R409), with which the depots may choose other ports (R397). -/
  | lossNotice (peer : Nat)
  /-- An admission notice for a peer arrives (R411), with which the depots may choose other ports (R397). -/
  | admissionNotice (peer : Nat)
  /-- One notify write packet reaches this target (R413): the packet's tag, and the number of its STN at the sender. -/
  | notifyWriteReceive (src tag stn line : Nat) (mask : BitVec 256) (data : List Byte) (list itemTag : Nat)
      (last : Bool)
  /-- A multicast line reaches this member (R417). -/
  | multicastReceive (port tag exportIx off : Nat) (data : List Byte)
  /-- The aggregated acknowledgement of a multicast arrives (R418). -/
  | multicastAckReceive (id : Nat) (codes : List (BitVec 2))
  /-- A collective result arrives (R430): the size of the depot group, and what each other rank has sent. -/
  | collResultReceive (group seq tag size : Nat) (sends : List (Option CollSend))
  /-- A membership notice names lost ranks of a group (R435). -/
  | membershipNotice (group rank : Nat)
  /-- A PROPOSE arrives (R435). -/
  | viewProposeReceive (group tag : Nat) (mask : List Bool) (leader : Nat)
  /-- An ACK arrives at the leader (R435). -/
  | viewAckReceive (group tag rank : Nat)
  /-- A NACK arrives, naming lost ranks (R435). -/
  | viewNackReceive (group tag : Nat) (lost : List Nat)
  /-- A COMMIT arrives, with the operations whose contribution of this rank was re-stamped and, for a joiner,
  the next SEQ (R435, R433, R438). -/
  | viewCommit (group tag : Nat) (mask : List Bool) (restamped : List Nat) (nextSeq : Nat)
  /-- A JOIN request reaches the leader (R438). -/
  | joinReceive (group rank : Nat)
  /-- The release of an FBAR phase reaches the package (R441). -/
  | fbarRelease (group tag : Nat)
  /-- A group intent is delivered (R445). -/
  | intentGDelivery (group src : Nat) (ts : DWord) (watts : Nat)
  /-- A fabric port's link goes down (R398). -/
  | fabricLinkLoss (port : Nat)
  /-- A fabric port's link comes back (R396). -/
  | fabricLinkReturn (port : Nat)
  /-- A link receives a damaged flit, which is replayed (R396). -/
  | damagedFlit (port : Nat)
  /-- A self-test pattern finishes on a lane of a core (R384). -/
  | selfTestPattern (core lane : Nat) (failed : Bool)
  deriving DecidableEq, Repr

end Sys2Proof
end

