-- ==== Sys2Proof/Machine/Encoding.lean ====
section
/-! DEFINITION. What each instruction's entry says of its encoding: its opcode, its legal forms, the class of each
operand field, the values of X, SUB, SC, OD and the immediate it assigns, and the types it accepts (R71-R77, R81
and the field tables of the chapters); and the check of R80 step 5 made from it. -/
namespace Sys2Proof.Machine

/-- The width of an operand: fixed, or that of the type in force (R31). -/
inductive OpW where
  | w32 | w64 | w128 | ty
  deriving DecidableEq, Repr

/-- The class of an operand field (R32, R71). -/
inductive Cls where
  | unused                     -- must be zero
  | vdst (w : OpW)             -- vector destination
  | vsrc (w : OpW)             -- vector source
  | vindex                     -- a vector register, codes 0-47 (R421)
  | ssrc (w : OpW)             -- scalar source
  | sdst (w : OpW)             -- scalar destination, s61-s63 allowed
  | sdstNoMask (w : OpW)       -- scalar destination, s61-s63 reserved
  | ballot                     -- three scalars from 0-58, or 61 (R121)
  | pred                       -- predicate
  | predHalf                   -- 0 or 32 (R124)
  | acc                        -- accumulator 0-7
  | accEven                    -- accumulator 0, 2, 4 or 6 (R258)
  | desc (m top : Nat)         -- a multiple of m, at most top
  | only (n : Nat)             -- one value
  | spOther                    -- a special-register index whose write has no row of its own
  | free                       -- any value
  deriving DecidableEq, Repr

/-- Which element types an entry accepts and how it takes them (R74, R94, R104). -/
inductive TyRule where
  | ignored                    -- TO must be 0; the type in force is not used
  | accepts (l : List ETy)     -- the type in force is TY with TO = 1, else ETYPE
  | scalar                     -- TY with TO = 1 among I32, N32, I64, N64; else I32 (R104)
  deriving DecidableEq, Repr

/-- One entry's encoding rules. -/
structure OpSpec where
  op    : Nat
  s     : Bool := true
  l0    : Bool := true
  l1    : Bool := false
  w     : Bool := true
  lit   : Bool := false
  immB  : Bool := false
  immA  : Bool := false
  extZero : Bool := false
  d     : Cls := .unused
  a     : Cls := .unused
  b     : Cls := .unused
  c     : Cls := .unused
  x     : List Nat := [0]
  sub   : List Nat := [0]
  sc    : List Nat := [0]
  od    : List Nat := [0]
  scNeedsOd : Bool := false
  sat   : Bool := false
  ty    : TyRule := .ignored
  immOk : Nat → Bool := fun _ => true
  litOk : Nat → Bool := fun _ => true

/-- All type codes. -/
def allTypes : List ETy :=
  [.i32, .n32, .i64, .n64, .i16, .n16, .i8, .n8, .fp64, .fp32, .fp16, .bf16, .e5m2, .e4m3, .e2m1, .fx64]
/-- "float" of R106. -/
def floatTypes : List ETy := [.fp64, .fp32, .fp16, .bf16]
/-- "any float" of R106. -/
def anyFloatTypes : List ETy := [.fp64, .fp32, .fp16, .bf16, .e5m2, .e4m3, .e2m1]
/-- The I and N types (R106). -/
def intTypes : List ETy := [.i32, .n32, .i64, .n64, .i16, .n16, .i8, .n8]
/-- The types of the integer view of width 32 or 64 (R301). -/
def wideTypes : List ETy := [.i32, .n32, .i64, .n64, .fp64, .fp32, .fx64]

/-- Whether a type is 64 bits wide in registers (R43). -/
def tyIs64 : ETy → Bool
  | .i64 | .n64 | .fp64 | .fx64 => true
  | _ => false

/-- All values below n. -/
def upTo (n : Nat) : List Nat := List.range n

/-- The SUB field, 0 in form S (R72, R75). -/
def subOf (f : Fields) : Nat :=
  match f.ext with
  | .s => 0 | .l0 e => e.sub.toNat | .l1 _ q => q.toNat | .w e _ => e.sub.toNat

/-- The KIND-0 fields, all zero where there is no KIND-0 word (R75). -/
def ext0Of (f : Fields) : Ext0 :=
  match f.ext with
  | .l0 e => e | .w e _ => e | _ => Ext0.zero

/-- Whether the instruction carries a KIND-0 word. -/
def hasExt0 (f : Fields) : Bool :=
  match f.ext with
  | .l0 _ => true | .w _ _ => true | _ => false

/-- Whether the instruction carries an immediate or a literal. -/
def hasImm (f : Fields) : Bool :=
  match f.ext with
  | .l1 _ _ => true | .w _ _ => true | _ => false

/-- The third-source class of an entry with one (R95). -/
def third (f : Fields) (c : Cls) : Cls := if hasExt0 f then c else .unused

/-- The base operand of a memory instruction, by SB (R221). -/
def memBase (f : Fields) : Cls := if (subOf f).testBit 0 then .ssrc .w64 else .vsrc .w64

/-- The base operand of a scratchpad access, by SB (R285). -/
def scratchBase (f : Fields) : Cls := if (subOf f).testBit 0 then .ssrc .w32 else .vsrc .w32

/-- The base operand of an atomic, by SP and SB (R300). -/
def atomBase (f : Fields) : Cls := if (subOf f).testBit 1 then scratchBase f else memBase f

/-- The operand width of a memory width code (R223). -/
def widthOpW : Width → OpW
  | .w8 | .w16 | .w32 => .w32 | .w64 => .w64 | .w128 => .w128

/-- SUB values whose bits outside `mask` are zero and that satisfy a test. -/
def subs (mask : Nat) (p : Nat → Bool) : List Nat := (upTo 64).filter (fun q => (q &&& mask) == q && p q)

/-- A vector integer entry of R97: D, A, B or immediate. -/
def vec (op : Nat) : OpSpec :=
  { op := op, l1 := true, lit := true, immB := true, d := .vdst .ty, a := .vsrc .ty, b := .vsrc .ty,
    ty := .accepts allTypes }
/-- A vector entry with no second source and no immediate. -/
def vec1 (op : Nat) : OpSpec :=
  { op := op, d := .vdst .ty, a := .vsrc .ty, ty := .accepts allTypes }
/-- A scalar entry of R104. -/
def scal (op : Nat) : OpSpec :=
  { op := op, l1 := true, lit := true, immB := true, d := .sdst .ty, a := .ssrc .ty, b := .ssrc .ty,
    ty := .scalar }
/-- A floating-point entry of R106. -/
def flt (op : Nat) (l : List ETy) : OpSpec := { vec op with ty := .accepts l }
/-- A floating-point entry with one source. -/
def flt1 (op : Nat) (l : List ETy) : OpSpec := { vec1 op with ty := .accepts l }
/-- A special function with one source (R111). -/
def special (op : Nat) (l : List ETy) : OpSpec := { vec1 op with ty := .accepts l, x := upTo 16 }

/-- The rounding overrides of SUB[5:3]: 7 is reserved (R109). -/
def rndOk (q : Nat) : Bool := q / 8 != 7

/-- Whether SUB[5] may be set: sign extension of .8 and .16 (R221). -/
def sxOk (w : Width) (q : Nat) : Bool := !q.testBit 5 || w == .w8 || w == .w16

/-- A load or store of the load-store or constant route (R221, R223, R247). -/
def memSpec (op : Nat) (w : Width) (f : Fields) (dst : Bool) (ods : List Nat) (cp : Bool) : OpSpec :=
  { op := op + w.code, l1 := true, lit := true, d := if dst then .vdst (widthOpW w) else .vsrc (widthOpW w), a := memBase f,
    b := .vsrc .w32, x := upTo 16, od := ods, sc := if ods.length == 1 then [0] else upTo 5, scNeedsOd := true,
    sub := subs 63 fun q => (if cp then q / 8 % 4 != 3 else q / 8 % 4 == 0) &&
      (if dst then sxOk w q else !q.testBit 5) }

/-- CACHEOP of one operation (R253). -/
def cacheSpec (f : Fields) (k : Nat) (ods : List Nat) : OpSpec :=
  { op := 0xC9, s := k == 0, l1 := true, lit := true, a := memBase f, b := .vsrc .w32, x := upTo 16, od := ods,
    sc := if ods.length == 1 then [0] else upTo 5, scNeedsOd := true, sub := subs 63 fun q => q / 8 == k }

/-- The types that an atomic operation code accepts (R301). -/
def atomTypes (k : Nat) : List ETy :=
  if k ≤ 6 then wideTypes else if k ≤ 8 then [.i32, .n32, .i64, .n64] else [.fp32, .fp64]

/-- ATOM and RED (R300, R301). -/
def atomSpec (op : Nat) (f : Fields) (d : Cls) (ods : List Nat) (ops : List Nat) : OpSpec :=
  { op := op, l1 := true, lit := true, d := d, a := atomBase f, b := .vsrc .ty, x := upTo 16, od := ods,
    sc := upTo 5, sub := subs 63 fun q => ops.contains (q / 4), ty := .accepts (atomTypes (subOf f / 4)) }

/-- A barrier on a scratchpad offset or a roster id (R310). -/
def barSpec (op : Nat) (d b : Cls) (x : Nat) : OpSpec :=
  { op := op, l1 := true, lit := true, immA := true, d := d, a := .ssrc .w32, b := b, x := [x] }

/-- ACCWR of one operation (R270). -/
def accwrSpec (a : Cls) (x : Nat) : OpSpec := { op := 0xDD, d := .acc, a := a, x := [x] }

/-- TLBI of one kind (R239). -/
def tlbiSpec (a b : Cls) (x : Nat) : OpSpec := { op := 0xCC, a := a, b := b, x := [x], sc := [0, 1, 2, 3] }

/-- COLL of one kind (R428). -/
def collSpec (k : Nat) (reds : Nat) (a c : Cls) (ty : TyRule) : OpSpec :=
  { op := 0xF2, s := false, d := .ssrc .w64, a := a, b := .ssrc .w32, c := c, x := upTo 16, ty := ty,
    sub := subs 63 fun q => q % 8 == k && q / 8 < reds }

/-- The types a reduction accepts (R429). -/
def redTypes (red : Nat) : List ETy :=
  if red == 0 then [.fp64, .fp32, .fp16, .bf16, .i32, .n32, .i64, .n64, .fx64]
  else if red == 3 then floatTypes
  else floatTypes ++ [.i32, .n32, .i64, .n64]

/-- VIEWQ of one kind (R439). -/
def viewqSpec (a : Cls) (k : Nat) (s : Bool) : OpSpec :=
  { op := 0xF4, s := s, d := .sdstNoMask .w32, a := a, b := .ssrc .w32, x := upTo 16, sub := [k] }

/-- A special register's width is 64 bits (R38). -/
def spIs64 (i : Nat) : Bool := i == 4 || i == 5 || i == 0x0A || i == 0x0C || i == 0x10

/-- SETSP with D an index (R118). -/
def setspSpec (f : Fields) (d : Cls) : OpSpec :=
  { op := 0x04, d := d, a := .ssrc (if spIs64 f.d.toNat then .w64 else .w32) }

/-- FCVT, ICVTF and FCVTI (R109). -/
def cvtSpec (op : Nat) (f : Fields) (xs : List Nat) (l : List ETy) : OpSpec :=
  { op := op, l1 := true, lit := true, d := .vdst (if xs.contains f.x.toNat &&
      tyIs64 (ETy.ofCode f.x.toNat) && f.x.toNat ≥ 2 then .w64 else .w32), a := .vsrc .ty, x := xs,
    sub := subs 63 rndOk, sat := true, ty := .accepts l, immOk := fun n => n < 64, litOk := fun n => n < 64 }

/-- The branch target operand of BRX and CALLX (R132, R160). -/
def targetCls (f : Fields) : Cls := if f.x.toNat.testBit 0 then .ssrc .w64 else .vsrc .w64

/-- The encoding rules of each instruction; a row that is no instruction has no encoding. -/
def specOf : Instr → Option OpSpec
  | .ill _ _ _ _ => none
  | .nop _ => some { op := 0x01 }
  | .setmode _ => some { op := 0x02, l1 := true, lit := true, immA := true, a := .ssrc .w32, x := upTo 4 }
  | .getsp f => some { op := 0x03, d := .sdst (if spIs64 f.a.toNat then .w64 else .w32), a := .free }
  | .setsp f => some (setspSpec f .spOther)
  | .winstackWrite f => some (setspSpec f (.only 0x0A))
  | .windepthWrite f => some (setspSpec f (.only 0x09))
  | .rampsetWrite f => some (setspSpec f (.only 0x08))
  | .sampctlWrite f => some (setspSpec f (.only 0x12))
  | .dbgctlWrite f => some (setspSpec f (.only 0x11))
  | .region _ => some { op := 0x05, l0 := false, extZero := true, lit := true, d := .free, a := .free, b := .desc 1 31 }
  | .trap _ => some { op := 0x06, l0 := false, l1 := true, w := false }
  | .eret _ => some { op := 0x07, l0 := false, w := false }
  | .brk _ => some { op := 0x08, l0 := false, w := false, x := upTo 16 }
  | .yield _ => some { op := 0x09, l1 := true, lit := true, a := .ssrc .w64 }
  | .waitl _ => some { op := 0x0A, w := false }
  | .bra _ => some { op := 0x10, s := false, l0 := false, l1 := true, lit := true, a := .pred, x := upTo 6 }
  | .brx f => some { op := 0x11, a := targetCls f, x := [0, 1] }
  | .jset _ => some { op := 0x12, s := false, l0 := false, l1 := true, lit := true, x := upTo 16 }
  | .jwait _ => some { op := 0x13, x := upTo 16 }
  | .call _ => some { op := 0x14, s := false, l0 := false, l1 := true, lit := true }
  | .callx f => some { op := 0x15, a := targetCls f, x := [0, 1] }
  | .ret _ => some { op := 0x16 }
  | .exit _ => some
    { op := 0x17, l1 := true, lit := true, immB := true, b := .vsrc .w32,
      litOk := fun n => n < 65536 }
  | .tail _ => some
    { op := 0x18, l1 := true, lit := true, immB := true, b := .vsrc .w32,
      litOk := fun n => n < 65536 }
  | .wflush _ => some { op := 0x19, w := false }
  | .iadd _ => some (vec 0x20)
  | .isub _ => some (vec 0x21)
  | .imul _ => some (vec 0x22)
  | .imulhi _ => some (vec 0x23)
  | .imad f => some { vec 0x24 with c := third f (.vsrc .ty) }
  | .imin _ => some (vec 0x25)
  | .imax _ => some (vec 0x26)
  | .iabs _ => some { vec1 0x27 with x := [0, 1], sat := true }
  | .and _ => some (vec 0x28)
  | .or _ => some (vec 0x29)
  | .xor _ => some (vec 0x2A)
  | .andn _ => some (vec 0x2B)
  | .shl _ => some (vec 0x2C)
  | .shr _ => some (vec 0x2D)
  | .sha _ => some (vec 0x2E)
  | .rot _ => some (vec 0x2F)
  | .bfe _ => some (vec 0x30)
  | .bfi f => some { vec 0x31 with c := third f (.vsrc .ty) }
  | .popc _ => some (vec1 0x32)
  | .clz _ => some (vec1 0x33)
  | .brev _ => some (vec1 0x34)
  | .icmp _ => some { vec 0x35 with d := .pred, x := (upTo 16).filter fun n => n % 8 < 6 }
  | .sel f => some { vec 0x36 with c := third f .pred, x := if hasExt0 f then [0] else upTo 16 }
  | .mov _ => some (vec1 0x37)
  | .movi _ => some { vec 0x38 with s := false, l0 := false, a := .unused }
  | .lea _ => some
    { vec 0x39 with
      d := .vdst .w64, a := .vsrc .w64, b := .vsrc .w32, x := upTo 16,
      ty := .ignored }
  | .iadds _ => some { vec 0x3A with x := [0, 1], sat := true }
  | .bysel f => some
    { op := 0x3B, lit := true, d := .vdst .w32, a := .vsrc .w32, b := .vsrc .w32,
      c := if hasImm f then .unused else third f (.vsrc .w32), x := [0, 1] }
  | .idot4 f => some
    { op := 0x3C, l1 := true, lit := true, immB := true, d := .vdst .w32, a := .vsrc .w32,
      b := .vsrc .w32, c := third f (.vsrc .w32), x := upTo 4, sat := true }
  | .sadd _ => some (scal 0x40)
  | .ssub _ => some (scal 0x41)
  | .smul _ => some (scal 0x42)
  | .sand _ => some (scal 0x43)
  | .sor _ => some (scal 0x44)
  | .sxor _ => some (scal 0x45)
  | .sshl _ => some { scal 0x46 with b := .ssrc .w32 }
  | .sshr _ => some { scal 0x47 with b := .ssrc .w32 }
  | .scmp _ => some { scal 0x48 with d := .sdst .w32, x := upTo 6 }
  | .smov _ => some { op := 0x49, d := .sdst .ty, a := .ssrc .ty, ty := .scalar }
  | .smovi _ => some { scal 0x4A with s := false, l0 := false, a := .unused }
  | .slea _ => some
    { scal 0x4B with
      d := .sdst .w64, a := .ssrc .w64, b := .ssrc .w32, x := upTo 16,
      ty := .ignored }
  | .v2s f => some
    { op := 0x4C, d := .sdst .ty, a := .vsrc .ty,
      b := if f.x.toNat == 1 then .ssrc .w32 else .unused, x := [0, 1], ty := .scalar }
  | .s2v _ => some { op := 0x4D, d := .vdst .ty, a := .ssrc .ty, ty := .scalar }
  | .smin _ => some (scal 0x4E)
  | .smax _ => some (scal 0x4F)
  | .fadd _ => some (flt 0x50 floatTypes)
  | .fsub _ => some (flt 0x51 floatTypes)
  | .fmul _ => some (flt 0x52 floatTypes)
  | .ffma f => some { flt 0x53 floatTypes with c := third f (.vsrc .ty) }
  | .fmin _ => some (flt 0x54 anyFloatTypes)
  | .fmax _ => some (flt 0x55 anyFloatTypes)
  | .fcmp _ => some { flt 0x56 anyFloatTypes with d := .pred, x := upTo 16 }
  | .fclass _ => some (flt1 0x57 anyFloatTypes)
  | .fcvt f => if f.x.toNat < 2
      then some { cvtSpec 0x58 f [0, 1] [] with a := .vsrc .w32, ty := .ignored }
      else some (cvtSpec 0x58 f [8, 9, 10, 11, 12, 13, 14, 15] (anyFloatTypes ++ [.fx64]))
  | .icvtf f => some (cvtSpec 0x59 f [8, 9, 10, 11, 12, 13, 14, 15] intTypes)
  | .fcvti f => some (cvtSpec 0x5A f (upTo 8) (anyFloatTypes ++ [.fx64]))
  | .frnd _ => some { flt1 0x5B floatTypes with x := [0, 1], sub := subs 56 rndOk }
  | .fscale _ => some (flt 0x5C floatTypes)
  | .fdot2 f => some { flt 0x5D [.fp16, .bf16] with d := .vdst .w32, c := third f (.vsrc .w32) }
  | .frcp _ => some (special 0x60 floatTypes)
  | .frsq _ => some (special 0x61 floatTypes)
  | .fsqrt _ => some (special 0x62 floatTypes)
  | .fdiv _ => some { flt 0x63 floatTypes with x := upTo 16 }
  | .fexp2 _ => some (special 0x64 [.fp32, .fp16, .bf16])
  | .flog2 _ => some (special 0x65 [.fp32, .fp16, .bf16])
  | .fsin _ => some (special 0x66 [.fp32, .fp16, .bf16])
  | .fcos _ => some (special 0x67 [.fp32, .fp16, .bf16])
  | .ftanh _ => some (special 0x68 [.fp32, .fp16, .bf16])
  | .fsigm _ => some (special 0x69 [.fp32, .fp16, .bf16])
  | .ftab _ => some (special 0x6A [.fp32, .fp16, .bf16])
  | .tabld _ => some { op := 0x6B, l1 := true, lit := true, a := .ssrc .w64, x := upTo 16 }
  | .lxch _ => some { vec 0x70 with b := .vsrc .w32, x := upTo 16 }
  | .vote f => some
    { op := 0x71, d := if f.x.toNat < 2 then .pred else if f.x.toNat == 2 then .ballot
      else .sdst .w32, a := .pred, x := upTo 4 }
  | .match _ => some { vec1 0x72 with x := upTo 3 }
  | .reduce f => some
    { vec1 0x73 with
      d := if (subOf f).testBit 0 then .sdst .ty else .vdst .ty,
      x := upTo 9, sub := [0, 1], ty := .accepts (if f.x.toNat < 6 then allTypes
        else if f.x.toNat == 6 then floatTypes else anyFloatTypes) }
  | .scan f => some
    { vec1 0x74 with
      x := upTo 9, sub := [0, 1], ty := .accepts (if f.x.toNat < 6 then allTypes
        else if f.x.toNat == 6 then floatTypes else anyFloatTypes) }
  | .plut _ => some
    { op := 0x75, s := false, w := false, d := .pred, a := .pred, b := .pred, c := .pred,
      x := upTo 16, sub := upTo 16 }
  | .p2v _ => some { op := 0x76, d := .vdst .w32, a := .predHalf }
  | .v2p _ => some { op := 0x77, d := .predHalf, a := .vsrc .w32 }
  | .ld w f => some (memSpec 0x80 w f true [0, 1, 2] true)
  | .st w f => some (memSpec 0x88 w f false [0, 1, 3] true)
  | .lds w f => some { memSpec 0x90 w f true [0, 1, 2] false with a := scratchBase f }
  | .sts w f => some { memSpec 0x98 w f false [0, 1, 3] false with a := scratchBase f }
  | .ldc w f => some (memSpec 0xA0 w f true [0] false)
  | .ldi w f => some
    { memSpec 0xA8 w f true [0] false with
      sub := subs 33 fun q => !q.testBit 5 || w == .w16 }
  | .ldl w f => some
    { memSpec 0xB0 w f true [0] false with
      s := false, l1 := false, a := .ssrc .w64, c := .desc 4 56, sub := subs 32 (sxOk w) }
  | .ldt w f => if w == .w8 || w == .w16 then none else some
    { memSpec (0xB8 - 2) w f true [0, 1, 2] false with
      l1 := false, lit := false, a := .vindex, b := .ssrc .w32, sub := [0] }
  | .stt w f => if w == .w8 || w == .w16 then none else some
    { memSpec (0xBC - 2) w f false [0, 1, 3] false with
      l1 := false, lit := false, a := .vindex, b := .ssrc .w32, sub := [0] }
  | .atom f => some (atomSpec 0xC0 f (.vdst .ty) (upTo 4) (upTo 12))
  | .red f => some (atomSpec 0xC1 f .unused [0, 1, 3] ((upTo 12).filter fun k => k != 6))
  | .cas f => some
    { atomSpec 0xC2 f (.vdst .ty) (upTo 4) [0] with
      c := third f (.vsrc .ty), ty := .accepts wideTypes }
  | .fxadd f => some
    { atomSpec 0xC3 f (if (subOf f).testBit 2 then .unused else .pred)
        (if (subOf f).testBit 2 then [0, 1, 3] else upTo 4) [0] with
      sub := subs 7 fun _ => true, ty := .accepts (floatTypes ++ [.fx64]),
      immOk := fun n => n < 64, litOk := fun n => n < 64 }
  | .waitaddr f => some
    { op := 0xC4, d := .sdstNoMask (if (subOf f).testBit 1 then .w64 else .w32),
      a := .ssrc .w64, b := .ssrc (if (subOf f).testBit 1 then .w64 else .w32),
      c := if (subOf f).testBit 2 then .ssrc .w32 else .unused, x := upTo 16, sub := upTo 8, sc := upTo 5 }
  | .fence _ => some { op := 0xC5, x := upTo 16, sc := upTo 5 }
  | .rfence _ => some { op := 0xC6, s := false, x := upTo 16, sub := (upTo 16).drop 1, sc := [0, 1, 2, 3] }
  | .opfence _ => some { op := 0xC7, l0 := false, w := false }
  | .pref f => some
    { op := 0xC8, l1 := true, lit := true, a := memBase f, b := .vsrc .w32, x := upTo 16,
      sub := upTo 16 }
  | .cacheopWb f => some (cacheSpec f 0 [0])
  | .cacheopEvict f => some (cacheSpec f 1 [0])
  | .cacheopZero f => some (cacheSpec f 2 [0, 1, 3])
  | .smap _ => some { op := 0xCA, d := .ssrc .w32, a := .ssrc .w64, b := .ssrc .w32 }
  | .sunmap _ => some { op := 0xCB, d := .ssrc .w32, b := .ssrc .w32 }
  | .tlbiPage _ => some (tlbiSpec (.ssrc .w64) (.ssrc .w32) 0)
  | .tlbiAsid _ => some (tlbiSpec .unused (.ssrc .w32) 1)
  | .tlbiAll _ => some (tlbiSpec .unused .unused 2)
  | .mma f => some
    { op := 0xD0, s := false, d := .acc, a := if (subOf f).testBit 3 then .ssrc .w64 else .unused,
      c := .desc 8 48, x := upTo 8, sub := upTo 16 }
  | .mmag f => some
    { op := 0xD1, s := false, d := .acc, a := if (subOf f).testBit 3 then .ssrc .w64 else .unused,
      b := .vsrc .w32, c := .desc 8 48, x := upTo 8, sub := subs 13 fun _ => true }
  | .gather _ => some { op := 0xD2, s := false, b := .vsrc .w32, c := .desc 8 48, x := upTo 3 }
  | .mwait _ => some { op := 0xD3, w := false, d := .acc }
  | .mwaitAll _ => some { op := 0xD3, w := false, x := [1] }
  | .cpy f => some
    { op := 0xD4, s := !f.x.toNat.testBit 2, d := .ssrc .w64, a := .ssrc .w64, b := .ssrc .w32,
      c := if f.x.toNat.testBit 2 then .ssrc .w64 else .unused,
      x := (upTo 16).filter fun n => !(n.testBit 3 && n.testBit 0) }
  | .cpyx f => some
    { op := 0xD5, s := !f.x.toNat.testBit 2, d := .ssrc .w64, a := .ssrc .w64, b := .desc 4 56,
      c := if f.x.toNat.testBit 2 then .ssrc .w64 else .unused,
      x := (upTo 16).filter fun n => !(n.testBit 3 && n.testBit 0) }
  | .cwait _ => some { op := 0xD6, w := false, a := .ssrc .w64 }
  | .cwaitAll _ => some { op := 0xD6, w := false, x := [1] }
  | .ctest _ => some { op := 0xD7, w := false, d := .sdstNoMask .w32, a := .ssrc .w64 }
  | .qbind _ => some { op := 0xD8, l0 := false, w := false, a := .ssrc .w32, b := .ssrc .w32, x := upTo 8 }
  | .qfree _ => some { op := 0xD9, l0 := false, w := false, x := upTo 8 }
  | .nmc f => some
    { op := 0xDA, s := false, a := if (subOf f).testBit 0 then .ssrc .w64 else .unused,
      c := .desc 8 48, x := upTo 3, sub := [0, 1],
      ty := .accepts (if f.x.toNat == 0 then allTypes else if f.x.toNat == 1 then [.fp32]
        else [.fp32, .i32, .n32]) }
  | .nmfence _ => some { op := 0xDB, w := false }
  | .accrd f => some { op := 0xDC, d := .ssrc .w64, a := if f.x == 5 then .accEven else .acc, x := upTo 6, sat := true }
  | .accwrLoad _ => some (accwrSpec (.ssrc .w64) 0)
  | .accwrLoad64 _ => some { accwrSpec (.ssrc .w64) 1 with d := .accEven }
  | .accwrZero _ => some (accwrSpec .unused 2)
  | .accwrFree _ => some (accwrSpec .unused 3)
  | .bararv _ => some (barSpec 0xE0 (.sdstNoMask .w32) .unused 0)
  | .barwt _ => some (barSpec 0xE1 .unused (.ssrc .w32) 0)
  | .barsync _ => some (barSpec 0xE2 .unused .unused 0)
  | .rbarSync _ => some (barSpec 0xE3 .unused .unused 0)
  | .rbarArv _ => some (barSpec 0xE3 (.sdstNoMask .w32) .unused 1)
  | .rbarWt _ => some (barSpec 0xE3 .unused (.ssrc .w32) 2)
  | .launch _ => some { op := 0xE4, a := .ssrc .w64 }
  | .wlpush f => some
    { op := 0xE5, d := .pred, a := if f.x.toNat.testBit 0 then .ssrc .w32 else .vsrc .w32,
      b := .vsrc .w64, x := [0, 1] }
  | .wlpop f => some
    { op := 0xE6, d := .vdst .w64, a := if f.x.toNat.testBit 0 then .ssrc .w32 else .vsrc .w32,
      x := upTo 4, sub := upTo 64 }
  | .wlpopDone _ => some { op := 0xE6, x := [4] }
  | .quiesce _ => some { op := 0xE7, d := .sdstNoMask .w32 }
  | .quiesceTest _ => some { op := 0xE7, d := .sdstNoMask .w32, x := [1] }
  | .intent _ => some { op := 0xE8, a := .ssrc .w64, b := .ssrc .w32 }
  | .intentG _ => some { op := 0xE8, s := false, a := .ssrc .w64, b := .ssrc .w32, c := .ssrc .w32, x := [1] }
  | .tokqBal _ => some { op := 0xE9, d := .sdstNoMask .w32 }
  | .tokqRate _ => some { op := 0xE9, d := .sdstNoMask .w32, x := [1] }
  | .tokqChg _ => some { op := 0xE9, d := .sdstNoMask .w64, x := [2] }
  | .tokqRsv _ => some { op := 0xE9, d := .sdstNoMask .w32, x := [3] }
  | .curq _ => some { op := 0xEA, d := .sdstNoMask .w32 }
  | .stn f => some
    { op := 0xF0, s := false, l0 := false, lit := true,
      d := .vsrc (widthOpW ((Width.ofCode (subOf f / 8)).getD .w32)), a := memBase f, b := .vsrc .w32,
      x := upTo 16, sub := subs 63 fun q => q / 8 < 5, litOk := fun n => bitsOf n 15 12 == 0 }
  | .mcst _ => some
    { op := 0xF1, s := false, d := .ssrc .w64, a := .ssrc .w64, b := .ssrc .w32,
      c := .ssrc .w32, x := upTo 16 }
  | .collAr f => some (collSpec 0 4 (.ssrc .w64) (.desc 4 56) (.accepts (redTypes (subOf f / 8))))
  | .collRs f => some (collSpec 1 4 (.ssrc .w64) (.desc 4 56) (.accepts (redTypes (subOf f / 8))))
  | .collAg _ => some (collSpec 2 1 (.ssrc .w64) (.desc 4 56) (.accepts allTypes))
  | .collBc _ => some (collSpec 3 1 (.ssrc .w64) (.desc 4 56) (.accepts allTypes))
  | .collBar _ => some (collSpec 4 1 .unused .unused .ignored)
  | .fbar _ => some { op := 0xF3, b := .ssrc .w32, x := upTo 16 }
  | .viewqTag _ => some (viewqSpec .unused 0 true)
  | .viewqState _ => some (viewqSpec .unused 1 false)
  | .viewqLive _ => some (viewqSpec (.ssrc .w32) 2 false)
  | .viewqSeq _ => some (viewqSpec .unused 3 false)
  | .vjoin _ => some { op := 0xF5, d := .sdstNoMask .w32, b := .ssrc .w32, x := upTo 16 }
  | .shsyncWait _ => some { op := 0xF6, d := .sdstNoMask .w32, x := upTo 16 }
  | .shsyncPub _ => some
    { op := 0xF6, s := false, d := .sdstNoMask .w32, a := .ssrc .w64, b := .ssrc .w32,
      x := upTo 16, sub := [1] }
  | .issueCycle _ => none
  | .instructionFetch _ => none
  | .redirectDelayEnd _ => none
  | .longLatencyResultWrite _ _ => none
  | .storeAck _ _ => none
  | .tlbWalkComplete _ _ _ => none
  | .faultRecordWrite _ => none
  | .faultReplay _ => none
  | .watchdogExpiry _ _ => none
  | .haltEntry _ _ => none
  | .tenderTransferStart _ => none
  | .spillComplete _ => none
  | .fillComplete _ => none
  | .deferredRecordWritten _ => none
  | .deferredRefillDone _ => none
  | .trainDrainComplete _ _ => none
  | .trackerDrainComplete _ _ => none
  | .atomicRequest _ _ _ => none
  | .barrierArrive _ _ => none
  | .completionObjectUpdate _ _ => none
  | .waitaddrWake _ => none
  | .waitaddrTimeout _ => none
  | .matrixOpStart _ _ => none
  | .matrixOpComplete _ _ => none
  | .copyQueueArrival _ _ => none
  | .copyStart _ _ => none
  | .copyComplete _ _ => none
  | .bufferFreed _ _ => none
  | .signalBoxGrant _ => none
  | .bandRenewal _ => none
  | .clusterCycle _ _ => none
  | .clockStretch _ => none
  | .sample _ => none
  | .sensitivityWindowEnd _ => none
  | .ratioRelockDone _ => none
  | .preemptRequest _ => none
  | .regionStopTimeout _ => none
  | .preemptSave _ => none
  | .preemptAbandon _ => none
  | .victimHoldoffEnd _ => none
  | .launchReady _ => none
  | .placeCrew _ => none
  | .doneobjUpdate _ => none
  | .quiescenceDetect _ => none
  | .gateStart _ => none
  | .gateComplete _ => none
  | .ungateComplete _ => none
  | .governorStep _ => none
  | .scrubPass _ _ => none
  | .prefetchHintExpiry _ => none
  | .nmcShareStart _ _ => none
  | .nmcComplete _ => none
  | .thrashUnpin _ _ => none
  | .ageindUpdate _ _ => none
  | .powerOn => none
  | .packageReset _ => none
  | .controlWriteFrame _ _ _ _ _ => none
  | .controlAckReceive _ _ => none
  | .controlNakReceive _ _ => none
  | .groupEntryApply _ => none
  | .hostLaunch => none
  | .hostContext => none
  | .hostTlbi => none
  | .configRampset => none
  | .configPowerControl => none
  | .configDieClock => none
  | .configClockPolicy => none
  | .configMigrationControl => none
  | .configFeatureOffer => none
  | .hostHalt => none
  | .hostMigrate => none
  | .hostListbind => none
  | .hostRings => none
  | .hostAttest _ _ => none
  | .remoteReadRequest _ _ _ _ => none
  | .remoteWritePacket _ _ _ _ _ => none
  | .remoteResponse _ _ _ => none
  | .wcAgeDrain _ _ => none
  | .wcAck _ _ _ => none
  | .portLinkDown _ => none
  | .lossNotice _ => none
  | .admissionNotice _ => none
  | .notifyWriteReceive _ _ _ _ _ _ _ _ _ => none
  | .notifyItemAppend _ _ => none
  | .multicastReceive _ _ _ _ _ => none
  | .multicastAckReceive _ _ => none
  | .collResultReceive _ _ _ _ _ => none
  | .membershipNotice _ _ => none
  | .viewProposeReceive _ _ _ _ => none
  | .viewAckReceive _ _ _ => none
  | .viewNackReceive _ _ _ => none
  | .viewCommit _ _ _ _ _ => none
  | .commitTimeout _ => none
  | .joinReceive _ _ => none
  | .vjoinTimeout _ => none
  | .fbarRelease _ _ => none
  | .intentGDelivery _ _ _ _ => none
  | .fabricLinkLoss _ => none
  | .fabricLinkReturn _ => none
  | .damagedFlit _ => none
  | .selfTestPattern _ _ _ => none
  | .writeAcknowledgement _ _ => none

/-- Whether a register number may start an operand of a width (R31). -/
def aligned (w : OpW) (ty : Option ETy) (v : Nat) : Bool :=
  match w with
  | .w32 => true
  | .w64 => v % 2 == 0
  | .w128 => v % 4 == 0
  | .ty => match ty with
    | some t => !tyIs64 t || v % 2 == 0
    | none => true

/-- A scalar operand: an even pair other than s60/s61 when 64 bits wide (R31). -/
def scalarOk (w : OpW) (ty : Option ETy) (v : Nat) : Bool :=
  match w with
  | .w32 => true
  | .w64 => v % 2 == 0 && v != 60
  | .w128 => v % 4 == 0 && v != 60
  | .ty => match ty with
    | some t => !tyIs64 t || (v % 2 == 0 && v != 60)
    | none => true

/-- Whether a field's value is legal for its class, the type in force being `ty` where it is known (R31, R32,
R71). -/
def clsOk (ty : Option ETy) (c : Cls) (v : Nat) : Bool :=
  match c with
  | .unused => v == 0
  | .vdst w => if v < 48 then aligned w ty v else v == 48
  | .vsrc w => if v < 48 then aligned w ty v else v ≤ 51
  | .vindex => v < 48
  | .ssrc w => scalarOk w ty v
  | .sdst w => scalarOk w ty v
  | .sdstNoMask w => v < 61 && scalarOk w ty v
  | .ballot => v ≤ 58 || v == 61
  | .pred => true
  | .predHalf => v == 0 || v == 32
  | .acc => v < 8
  | .accEven => v < 8 && v % 2 == 0
  | .desc m top => v % m == 0 && v ≤ top
  | .only n => v == n
  | .spOther => v != 0x08 && v != 0x09 && v != 0x0A && v != 0x11 && v != 0x12
  | .free => true

/-- The checks of the first word: the form, D, A, B and X (R66, R71, R72, R77). -/
def word0Ok (sp : OpSpec) (ty : Option ETy) (f : Fields) : Bool :=
  (match f.ext with | .s => sp.s | .l0 _ => sp.l0 || sp.l1 | .l1 _ _ => sp.l0 || sp.l1 | .w _ _ => sp.w) &&
  clsOk ty sp.d f.d.toNat &&
  (if sp.immA && hasImm f then f.a.toNat == 0 else clsOk ty sp.a f.a.toNat) &&
  (if sp.immB && hasImm f then f.b.toNat == 0 else clsOk ty sp.b f.b.toNat) &&
  sp.x.contains f.x.toNat

/-- Whether TO and TY are legal (R74). -/
def tyOk (r : TyRule) (e : Ext0) : Bool :=
  if e.tov then
    match r with
    | .ignored => false
    | .accepts l => l.contains (ETy.ofCode e.ty.toNat)
    | .scalar => e.ty.toNat < 4
  else e.ty.toNat == 0

/-- The checks of a KIND-0 word (R74). -/
def ext0Ok (sp : OpSpec) (ty : Option ETy) (e : Ext0) : Bool :=
  clsOk ty sp.c e.c.toNat &&
  (e.go || (e.gp.toNat == 0 && !e.gn)) &&
  sp.sc.contains e.sc.toNat &&
  sp.od.contains e.od.toNat &&
  (!sp.scNeedsOd || e.sc.toNat == 0 || e.od.toNat == 2 || e.od.toNat == 3) &&
  (sp.sat || !e.sat) &&
  tyOk sp.ty e &&
  sp.sub.contains e.sub.toNat &&
  (!sp.extZero || e == Ext0.zero)

/-- The checks of the second word (R74, R75). -/
def word1Ok (sp : OpSpec) (ty : Option ETy) (f : Fields) : Bool :=
  match f.ext with
  | .s => true
  | .l0 e => sp.l0 && ext0Ok sp ty e
  | .l1 imm q => sp.l1 && sp.sub.contains q.toNat && sp.immOk imm.toNat
  | .w e _ => ext0Ok sp ty e

/-- The check of the literal (R76). -/
def word2Ok (sp : OpSpec) (f : Fields) : Bool :=
  match f.ext with
  | .w _ lit => if sp.lit then sp.litOk lit.toNat else lit == 0
  | _ => true

/-- The type override of an instruction, where it carries one. -/
def tyOverride (f : Fields) : Option ETy :=
  if (ext0Of f).tov then some (ETy.ofCode (ext0Of f).ty.toNat) else none

/-- The index of the first word that fails a check of R80 step 5, the type in force being `ty` where known. -/
def fieldCheck (sp : OpSpec) (ty : Option ETy) (f : Fields) : Option Nat :=
  if !word0Ok sp ty f then some 0
  else if !word1Ok sp ty f then some 1
  else if !word2Ok sp f then some 2
  else none

/-- The type that decides operand widths before issue: the scalar rule needs no MODE (R104). -/
def staticTy (sp : OpSpec) (f : Fields) : Option ETy :=
  match sp.ty with
  | .ignored => some .i32
  | .accepts _ => tyOverride f
  | .scalar => some ((tyOverride f).getD .i32)

/-- The type in force at issue: TY with TO = 1, else ETYPE (R36, R94); I32 for a scalar instruction (R104). -/
def tyInForce (sp : OpSpec) (mode : Word) (f : Fields) : ETy :=
  match sp.ty with
  | .ignored => .i32
  | .accepts _ => (tyOverride f).getD (ETy.ofCode (bitsOf mode.toNat 10 7))
  | .scalar => (tyOverride f).getD .i32

/-- Whether the entry accepts the type in force (R94). -/
def tyAccepted (sp : OpSpec) (t : ETy) : Bool :=
  match sp.ty with
  | .accepts l => l.contains t
  | _ => true

/-- The fields of an instruction (R70). -/
def fieldsOf : Instr → Option Fields
  | .ill _ _ _ _ => none
  | .nop f => some f
  | .setmode f => some f
  | .getsp f => some f
  | .setsp f => some f
  | .winstackWrite f => some f
  | .windepthWrite f => some f
  | .rampsetWrite f => some f
  | .sampctlWrite f => some f
  | .dbgctlWrite f => some f
  | .region f => some f
  | .trap f => some f
  | .eret f => some f
  | .brk f => some f
  | .yield f => some f
  | .waitl f => some f
  | .bra f => some f
  | .brx f => some f
  | .jset f => some f
  | .jwait f => some f
  | .call f => some f
  | .callx f => some f
  | .ret f => some f
  | .exit f => some f
  | .tail f => some f
  | .wflush f => some f
  | .iadd f => some f
  | .isub f => some f
  | .imul f => some f
  | .imulhi f => some f
  | .imad f => some f
  | .imin f => some f
  | .imax f => some f
  | .iabs f => some f
  | .and f => some f
  | .or f => some f
  | .xor f => some f
  | .andn f => some f
  | .shl f => some f
  | .shr f => some f
  | .sha f => some f
  | .rot f => some f
  | .bfe f => some f
  | .bfi f => some f
  | .popc f => some f
  | .clz f => some f
  | .brev f => some f
  | .icmp f => some f
  | .sel f => some f
  | .mov f => some f
  | .movi f => some f
  | .lea f => some f
  | .iadds f => some f
  | .bysel f => some f
  | .idot4 f => some f
  | .sadd f => some f
  | .ssub f => some f
  | .smul f => some f
  | .sand f => some f
  | .sor f => some f
  | .sxor f => some f
  | .sshl f => some f
  | .sshr f => some f
  | .scmp f => some f
  | .smov f => some f
  | .smovi f => some f
  | .slea f => some f
  | .v2s f => some f
  | .s2v f => some f
  | .smin f => some f
  | .smax f => some f
  | .fadd f => some f
  | .fsub f => some f
  | .fmul f => some f
  | .ffma f => some f
  | .fmin f => some f
  | .fmax f => some f
  | .fcmp f => some f
  | .fclass f => some f
  | .fcvt f => some f
  | .icvtf f => some f
  | .fcvti f => some f
  | .frnd f => some f
  | .fscale f => some f
  | .fdot2 f => some f
  | .frcp f => some f
  | .frsq f => some f
  | .fsqrt f => some f
  | .fdiv f => some f
  | .fexp2 f => some f
  | .flog2 f => some f
  | .fsin f => some f
  | .fcos f => some f
  | .ftanh f => some f
  | .fsigm f => some f
  | .ftab f => some f
  | .tabld f => some f
  | .lxch f => some f
  | .vote f => some f
  | .match f => some f
  | .reduce f => some f
  | .scan f => some f
  | .plut f => some f
  | .p2v f => some f
  | .v2p f => some f
  | .ld _ f => some f
  | .st _ f => some f
  | .lds _ f => some f
  | .sts _ f => some f
  | .ldc _ f => some f
  | .ldi _ f => some f
  | .ldl _ f => some f
  | .ldt _ f => some f
  | .stt _ f => some f
  | .atom f => some f
  | .red f => some f
  | .cas f => some f
  | .fxadd f => some f
  | .waitaddr f => some f
  | .fence f => some f
  | .rfence f => some f
  | .opfence f => some f
  | .pref f => some f
  | .cacheopWb f => some f
  | .cacheopEvict f => some f
  | .cacheopZero f => some f
  | .smap f => some f
  | .sunmap f => some f
  | .tlbiPage f => some f
  | .tlbiAsid f => some f
  | .tlbiAll f => some f
  | .mma f => some f
  | .mmag f => some f
  | .gather f => some f
  | .mwait f => some f
  | .mwaitAll f => some f
  | .cpy f => some f
  | .cpyx f => some f
  | .cwait f => some f
  | .cwaitAll f => some f
  | .ctest f => some f
  | .qbind f => some f
  | .qfree f => some f
  | .nmc f => some f
  | .nmfence f => some f
  | .accrd f => some f
  | .accwrLoad f => some f
  | .accwrLoad64 f => some f
  | .accwrZero f => some f
  | .accwrFree f => some f
  | .bararv f => some f
  | .barwt f => some f
  | .barsync f => some f
  | .rbarSync f => some f
  | .rbarArv f => some f
  | .rbarWt f => some f
  | .launch f => some f
  | .wlpush f => some f
  | .wlpop f => some f
  | .wlpopDone f => some f
  | .quiesce f => some f
  | .quiesceTest f => some f
  | .intent f => some f
  | .intentG f => some f
  | .tokqBal f => some f
  | .tokqRate f => some f
  | .tokqChg f => some f
  | .tokqRsv f => some f
  | .curq f => some f
  | .stn f => some f
  | .mcst f => some f
  | .collAr f => some f
  | .collRs f => some f
  | .collAg f => some f
  | .collBc f => some f
  | .collBar f => some f
  | .fbar f => some f
  | .viewqTag f => some f
  | .viewqState f => some f
  | .viewqLive f => some f
  | .viewqSeq f => some f
  | .vjoin f => some f
  | .shsyncWait f => some f
  | .shsyncPub f => some f
  | .issueCycle _ => none
  | .instructionFetch _ => none
  | .redirectDelayEnd _ => none
  | .longLatencyResultWrite _ _ => none
  | .storeAck _ _ => none
  | .tlbWalkComplete _ _ _ => none
  | .faultRecordWrite _ => none
  | .faultReplay _ => none
  | .watchdogExpiry _ _ => none
  | .haltEntry _ _ => none
  | .tenderTransferStart _ => none
  | .spillComplete _ => none
  | .fillComplete _ => none
  | .deferredRecordWritten _ => none
  | .deferredRefillDone _ => none
  | .trainDrainComplete _ _ => none
  | .trackerDrainComplete _ _ => none
  | .atomicRequest _ _ _ => none
  | .barrierArrive _ _ => none
  | .completionObjectUpdate _ _ => none
  | .waitaddrWake _ => none
  | .waitaddrTimeout _ => none
  | .matrixOpStart _ _ => none
  | .matrixOpComplete _ _ => none
  | .copyQueueArrival _ _ => none
  | .copyStart _ _ => none
  | .copyComplete _ _ => none
  | .bufferFreed _ _ => none
  | .signalBoxGrant _ => none
  | .bandRenewal _ => none
  | .clusterCycle _ _ => none
  | .clockStretch _ => none
  | .sample _ => none
  | .sensitivityWindowEnd _ => none
  | .ratioRelockDone _ => none
  | .preemptRequest _ => none
  | .regionStopTimeout _ => none
  | .preemptSave _ => none
  | .preemptAbandon _ => none
  | .victimHoldoffEnd _ => none
  | .launchReady _ => none
  | .placeCrew _ => none
  | .doneobjUpdate _ => none
  | .quiescenceDetect _ => none
  | .gateStart _ => none
  | .gateComplete _ => none
  | .ungateComplete _ => none
  | .governorStep _ => none
  | .scrubPass _ _ => none
  | .prefetchHintExpiry _ => none
  | .nmcShareStart _ _ => none
  | .nmcComplete _ => none
  | .thrashUnpin _ _ => none
  | .ageindUpdate _ _ => none
  | .powerOn => none
  | .packageReset _ => none
  | .controlWriteFrame _ _ _ _ _ => none
  | .controlAckReceive _ _ => none
  | .controlNakReceive _ _ => none
  | .groupEntryApply _ => none
  | .hostLaunch => none
  | .hostContext => none
  | .hostTlbi => none
  | .configRampset => none
  | .configPowerControl => none
  | .configDieClock => none
  | .configClockPolicy => none
  | .configMigrationControl => none
  | .configFeatureOffer => none
  | .hostHalt => none
  | .hostMigrate => none
  | .hostListbind => none
  | .hostRings => none
  | .hostAttest _ _ => none
  | .remoteReadRequest _ _ _ _ => none
  | .remoteWritePacket _ _ _ _ _ => none
  | .remoteResponse _ _ _ => none
  | .wcAgeDrain _ _ => none
  | .wcAck _ _ _ => none
  | .portLinkDown _ => none
  | .lossNotice _ => none
  | .admissionNotice _ => none
  | .notifyWriteReceive _ _ _ _ _ _ _ _ _ => none
  | .notifyItemAppend _ _ => none
  | .multicastReceive _ _ _ _ _ => none
  | .multicastAckReceive _ _ => none
  | .collResultReceive _ _ _ _ _ => none
  | .membershipNotice _ _ => none
  | .viewProposeReceive _ _ _ _ => none
  | .viewAckReceive _ _ _ => none
  | .viewNackReceive _ _ _ => none
  | .viewCommit _ _ _ _ _ => none
  | .commitTimeout _ => none
  | .joinReceive _ _ => none
  | .vjoinTimeout _ => none
  | .fbarRelease _ _ => none
  | .intentGDelivery _ _ _ _ => none
  | .fabricLinkLoss _ => none
  | .fabricLinkReturn _ => none
  | .damagedFlit _ => none
  | .selfTestPattern _ _ _ => none
  | .writeAcknowledgement _ _ => none

end Sys2Proof.Machine
end

