-- ==== Sys2Proof/WellFormed.lean ====
section
/-! DEFINITION. Which instructions have words: those whose fields meet every rule of R71-R77 and of their own entry,
as far as the words alone decide it. A type that only MODE gives is checked when the instruction issues (R94). -/
namespace Sys2Proof

/-- A well-formed instruction: its words pass every decode check of R80 that needs no state. An ILL is well formed
when it holds the bits of its form and no others. The steps that are no instruction are not well formed. -/
def wellFormed (i : Instr) : Bool :=
  match i with
  | .ill len _ w1 w2 => len != 3 && (len != 0 || w1 == 0) && (len == 2 || w2 == 0)
  | i =>
    match Machine.specOf i, Machine.fieldsOf i with
    | some sp, some f => (Machine.fieldCheck sp (Machine.staticTy sp f) f).isNone
    | _, _ => false

end Sys2Proof
end

