-- ==== Sys2Proof/Decode.lean ====
section
/-! DEFINITION. The decoder, total on any words or bytes, in the order of R80, and the encoder (R66, R70, R73, R75,
R76, R81). -/
namespace Sys2Proof
open Machine

/-- Why words are not an instruction: the form or opcode is illegal (cause 0x01), or the encoding is reserved (cause
0x02), with the index of the word in which the check failed (R79, R80); or the bytes end too early. -/
inductive Reject where
  | illegal (idx : Nat)
  | reserved (idx : Nat)
  | truncated
  deriving DecidableEq, Repr

/-- What decoding words gives: an instruction and its length in words, or a rejection. -/
inductive DecodeResult where
  | ok (i : Instr) (len : Nat)
  | bad (r : Reject)
  deriving DecidableEq, Repr

/-- The trap cause of a rejection (R80). -/
def Reject.cause : Reject → Nat
  | .illegal _ => 0x01
  | _ => 0x02

/-- The index of the word a rejection names. -/
def Reject.idx : Reject → Nat
  | .illegal n => n
  | .reserved n => n
  | .truncated => 0

/-- Choice among instructions by a sub-function value; a value with no instruction fails the check in word `idx`. -/
def byNat (v idx : Nat) (first : Instr) (rest : List Instr) : Instr × Option Nat :=
  match (first :: rest)[v]? with
  | some i => (i, none)
  | none => (first, some idx)

/-- The instruction of an opcode (R81), none where it is unassigned, and the word of a sub-function value that the
entry does not assign. -/
def classify (op : Nat) (f : Fields) : Option (Instr × Option Nat) :=
  match op with
  | 0x01 => some (.nop f, none)
  | 0x02 => some (.setmode f, none)
  | 0x03 => some (.getsp f, none)
  | 0x04 => some (if f.d == 0x0A then .winstackWrite f else if f.d == 0x09 then .windepthWrite f
      else if f.d == 0x08 then .rampsetWrite f else if f.d == 0x12 then .sampctlWrite f
      else if f.d == 0x11 then .dbgctlWrite f else .setsp f, none)
  | 0x05 => some (.region f, none)
  | 0x06 => some (.trap f, none)
  | 0x07 => some (.eret f, none)
  | 0x08 => some (.brk f, none)
  | 0x09 => some (.yield f, none)
  | 0x0A => some (.waitl f, none)
  | 0x10 => some (.bra f, none)
  | 0x11 => some (.brx f, none)
  | 0x12 => some (.jset f, none)
  | 0x13 => some (.jwait f, none)
  | 0x14 => some (.call f, none)
  | 0x15 => some (.callx f, none)
  | 0x16 => some (.ret f, none)
  | 0x17 => some (.exit f, none)
  | 0x18 => some (.tail f, none)
  | 0x19 => some (.wflush f, none)
  | 0x20 => some (.iadd f, none)
  | 0x21 => some (.isub f, none)
  | 0x22 => some (.imul f, none)
  | 0x23 => some (.imulhi f, none)
  | 0x24 => some (.imad f, none)
  | 0x25 => some (.imin f, none)
  | 0x26 => some (.imax f, none)
  | 0x27 => some (.iabs f, none)
  | 0x28 => some (.and f, none)
  | 0x29 => some (.or f, none)
  | 0x2A => some (.xor f, none)
  | 0x2B => some (.andn f, none)
  | 0x2C => some (.shl f, none)
  | 0x2D => some (.shr f, none)
  | 0x2E => some (.sha f, none)
  | 0x2F => some (.rot f, none)
  | 0x30 => some (.bfe f, none)
  | 0x31 => some (.bfi f, none)
  | 0x32 => some (.popc f, none)
  | 0x33 => some (.clz f, none)
  | 0x34 => some (.brev f, none)
  | 0x35 => some (.icmp f, none)
  | 0x36 => some (.sel f, none)
  | 0x37 => some (.mov f, none)
  | 0x38 => some (.movi f, none)
  | 0x39 => some (.lea f, none)
  | 0x3A => some (.iadds f, none)
  | 0x3B => some (.bysel f, none)
  | 0x3C => some (.idot4 f, none)
  | 0x40 => some (.sadd f, none)
  | 0x41 => some (.ssub f, none)
  | 0x42 => some (.smul f, none)
  | 0x43 => some (.sand f, none)
  | 0x44 => some (.sor f, none)
  | 0x45 => some (.sxor f, none)
  | 0x46 => some (.sshl f, none)
  | 0x47 => some (.sshr f, none)
  | 0x48 => some (.scmp f, none)
  | 0x49 => some (.smov f, none)
  | 0x4A => some (.smovi f, none)
  | 0x4B => some (.slea f, none)
  | 0x4C => some (.v2s f, none)
  | 0x4D => some (.s2v f, none)
  | 0x4E => some (.smin f, none)
  | 0x4F => some (.smax f, none)
  | 0x50 => some (.fadd f, none)
  | 0x51 => some (.fsub f, none)
  | 0x52 => some (.fmul f, none)
  | 0x53 => some (.ffma f, none)
  | 0x54 => some (.fmin f, none)
  | 0x55 => some (.fmax f, none)
  | 0x56 => some (.fcmp f, none)
  | 0x57 => some (.fclass f, none)
  | 0x58 => some (.fcvt f, none)
  | 0x59 => some (.icvtf f, none)
  | 0x5A => some (.fcvti f, none)
  | 0x5B => some (.frnd f, none)
  | 0x5C => some (.fscale f, none)
  | 0x5D => some (.fdot2 f, none)
  | 0x60 => some (.frcp f, none)
  | 0x61 => some (.frsq f, none)
  | 0x62 => some (.fsqrt f, none)
  | 0x63 => some (.fdiv f, none)
  | 0x64 => some (.fexp2 f, none)
  | 0x65 => some (.flog2 f, none)
  | 0x66 => some (.fsin f, none)
  | 0x67 => some (.fcos f, none)
  | 0x68 => some (.ftanh f, none)
  | 0x69 => some (.fsigm f, none)
  | 0x6A => some (.ftab f, none)
  | 0x6B => some (.tabld f, none)
  | 0x70 => some (.lxch f, none)
  | 0x71 => some (.vote f, none)
  | 0x72 => some (.match f, none)
  | 0x73 => some (.reduce f, none)
  | 0x74 => some (.scan f, none)
  | 0x75 => some (.plut f, none)
  | 0x76 => some (.p2v f, none)
  | 0x77 => some (.v2p f, none)
  | 0x80 => some (.ld .w8 f, none)
  | 0x81 => some (.ld .w16 f, none)
  | 0x82 => some (.ld .w32 f, none)
  | 0x83 => some (.ld .w64 f, none)
  | 0x84 => some (.ld .w128 f, none)
  | 0x88 => some (.st .w8 f, none)
  | 0x89 => some (.st .w16 f, none)
  | 0x8A => some (.st .w32 f, none)
  | 0x8B => some (.st .w64 f, none)
  | 0x8C => some (.st .w128 f, none)
  | 0x90 => some (.lds .w8 f, none)
  | 0x91 => some (.lds .w16 f, none)
  | 0x92 => some (.lds .w32 f, none)
  | 0x93 => some (.lds .w64 f, none)
  | 0x94 => some (.lds .w128 f, none)
  | 0x98 => some (.sts .w8 f, none)
  | 0x99 => some (.sts .w16 f, none)
  | 0x9A => some (.sts .w32 f, none)
  | 0x9B => some (.sts .w64 f, none)
  | 0x9C => some (.sts .w128 f, none)
  | 0xA0 => some (.ldc .w8 f, none)
  | 0xA1 => some (.ldc .w16 f, none)
  | 0xA2 => some (.ldc .w32 f, none)
  | 0xA3 => some (.ldc .w64 f, none)
  | 0xA4 => some (.ldc .w128 f, none)
  | 0xA8 => some (.ldi .w8 f, none)
  | 0xA9 => some (.ldi .w16 f, none)
  | 0xAA => some (.ldi .w32 f, none)
  | 0xAB => some (.ldi .w64 f, none)
  | 0xAC => some (.ldi .w128 f, none)
  | 0xB0 => some (.ldl .w8 f, none)
  | 0xB1 => some (.ldl .w16 f, none)
  | 0xB2 => some (.ldl .w32 f, none)
  | 0xB3 => some (.ldl .w64 f, none)
  | 0xB4 => some (.ldl .w128 f, none)
  | 0xB8 => some (.ldt .w32 f, none)
  | 0xB9 => some (.ldt .w64 f, none)
  | 0xBA => some (.ldt .w128 f, none)
  | 0xBC => some (.stt .w32 f, none)
  | 0xBD => some (.stt .w64 f, none)
  | 0xBE => some (.stt .w128 f, none)
  | 0xC0 => some (.atom f, none)
  | 0xC1 => some (.red f, none)
  | 0xC2 => some (.cas f, none)
  | 0xC3 => some (.fxadd f, none)
  | 0xC4 => some (.waitaddr f, none)
  | 0xC5 => some (.fence f, none)
  | 0xC6 => some (.rfence f, none)
  | 0xC7 => some (.opfence f, none)
  | 0xC8 => some (.pref f, none)
  | 0xC9 => some (byNat (subOf f / 8) 1 (.cacheopWb f) [.cacheopEvict f, .cacheopZero f])
  | 0xCA => some (.smap f, none)
  | 0xCB => some (.sunmap f, none)
  | 0xCC => some (byNat f.x.toNat 0 (.tlbiPage f) [.tlbiAsid f, .tlbiAll f])
  | 0xD0 => some (.mma f, none)
  | 0xD1 => some (.mmag f, none)
  | 0xD2 => some (.gather f, none)
  | 0xD3 => some (byNat f.x.toNat 0 (.mwait f) [.mwaitAll f])
  | 0xD4 => some (.cpy f, none)
  | 0xD5 => some (.cpyx f, none)
  | 0xD6 => some (byNat f.x.toNat 0 (.cwait f) [.cwaitAll f])
  | 0xD7 => some (.ctest f, none)
  | 0xD8 => some (.qbind f, none)
  | 0xD9 => some (.qfree f, none)
  | 0xDA => some (.nmc f, none)
  | 0xDB => some (.nmfence f, none)
  | 0xDC => some (.accrd f, none)
  | 0xDD => some (byNat f.x.toNat 0 (.accwrLoad f) [.accwrLoad64 f, .accwrZero f, .accwrFree f])
  | 0xE0 => some (.bararv f, none)
  | 0xE1 => some (.barwt f, none)
  | 0xE2 => some (.barsync f, none)
  | 0xE3 => some (byNat f.x.toNat 0 (.rbarSync f) [.rbarArv f, .rbarWt f])
  | 0xE4 => some (.launch f, none)
  | 0xE5 => some (.wlpush f, none)
  | 0xE6 => some (if f.x == 4 then .wlpopDone f else .wlpop f, none)
  | 0xE7 => some (byNat f.x.toNat 0 (.quiesce f) [.quiesceTest f])
  | 0xE8 => some (byNat f.x.toNat 0 (.intent f) [.intentG f])
  | 0xE9 => some (byNat f.x.toNat 0 (.tokqBal f) [.tokqRate f, .tokqChg f, .tokqRsv f])
  | 0xEA => some (.curq f, none)
  | 0xF0 => some (.stn f, none)
  | 0xF1 => some (.mcst f, none)
  | 0xF2 => some (byNat (subOf f % 8) 1 (.collAr f) [.collRs f, .collAg f, .collBc f, .collBar f])
  | 0xF3 => some (.fbar f, none)
  | 0xF4 => some (byNat (subOf f) 1 (.viewqTag f) [.viewqState f, .viewqLive f, .viewqSeq f])
  | 0xF5 => some (.vjoin f, none)
  | 0xF6 => some (byNat (subOf f) 1 (.shsyncWait f) [.shsyncPub f])
  | _ => none

/-- The fields of a KIND-0 word (R73). -/
def ext0OfWord (w : Word) : Ext0 where
  c := w.extractLsb' 1 6
  gp := w.extractLsb' 7 6
  go := w.getLsbD 13
  gn := w.getLsbD 14
  sc := w.extractLsb' 15 3
  od := w.extractLsb' 18 2
  sat := w.getLsbD 20
  tov := w.getLsbD 21
  ty := w.extractLsb' 22 4
  sub := w.extractLsb' 26 6

/-- What follows the first word, and whether the extension word keeps R75 and R76. -/
def extOfWords (len : BitVec 2) (w1 w2 : Word) : Ext × Bool :=
  if len == 0 then (.s, true)
  else if len == 1 then
    if w1.getLsbD 0 then (.l1 (w1.extractLsb' 1 16) (w1.extractLsb' 17 6), w1.extractLsb' 23 9 == 0)
    else (.l0 (ext0OfWord w1), true)
  else (.w (ext0OfWord w1) w2, !w1.getLsbD 0)

/-- The length in words of a form (R66). -/
def lenWords (len : BitVec 2) : Nat := len.toNat + 1

/-- The first failing check of step 5 of R80, lowest word first. -/
def encodingFault (i : Instr) (f : Fields) (forced : Option Nat) (extOk : Bool) : Option Nat :=
  match specOf i with
  | none => some 0
  | some sp =>
    let c := fieldCheck sp (staticTy sp f) f
    if c == some 0 then some 0
    else if !extOk then some 1
    else match forced with
      | some n => some n
      | none => c

/-- Decoding of the words at an instruction's address, in the order of R80; words past the form's length are not
looked at. Within R80's step 5 the checks that no type decides come first, of every word (DESIGN CHOICE, unsafe: log entry
84). -/
def decodeWords (w0 w1 w2 : Word) : DecodeResult :=
  let len : BitVec 2 := w0.extractLsb' 0 2
  let op : BitVec 8 := w0.extractLsb' 2 8
  if len == 3 then .bad (.illegal 0)
  else if op == 0 then
    .ok (.ill len (w0.extractLsb' 10 22) (if len == 0 then 0 else w1) (if len == 2 then w2 else 0)) (lenWords len)
  else
    let (ext, extOk) := extOfWords len w1 w2
    let f : Fields := ⟨w0.extractLsb' 10 6, w0.extractLsb' 16 6, w0.extractLsb' 22 6, w0.extractLsb' 28 4, ext⟩
    match classify op.toNat f with
    | none => .bad (.reserved 0)
    | some (i, forced) =>
      match encodingFault i f forced extOk with
      | some n => .bad (.reserved n)
      | none => .ok i (lenWords len)

/-- The instruction that an opcode names, whatever its other fields break (R196); none for an opcode that is not assigned. -/
def decodeLoose (w0 w1 w2 : Word) : Option Instr :=
  let len : BitVec 2 := w0.extractLsb' 0 2
  let f : Fields := ⟨w0.extractLsb' 10 6, w0.extractLsb' 16 6, w0.extractLsb' 22 6, w0.extractLsb' 28 4, (extOfWords len w1 w2).1⟩
  if len == 3 then none else (classify (w0.extractLsb' 2 8).toNat f).map (·.1)

/-- A little-endian word of a list of bytes. -/
def wordOfBytes (l : List Byte) : Option (Word × List Byte) :=
  match l with
  | a :: b :: c :: d :: rest => some (d ++ c ++ b ++ a, rest)
  | _ => none

/-- Decoding of bytes, lowest address first: an instruction with the bytes that follow it, or a rejection. -/
def decode (bytes : List Byte) : Except Reject (Instr × List Byte) :=
  match wordOfBytes bytes with
  | none => .error .truncated
  | some (w0, r0) =>
    let n := lenWords (w0.extractLsb' 0 2)
    let (w1, r1, ok1) := if n < 2 || n > 3 then (0, r0, true)
      else match wordOfBytes r0 with | some (w, r) => (w, r, true) | none => (0, [], false)
    let (w2, r2, ok2) := if n != 3 then (0, r1, true)
      else match wordOfBytes r1 with | some (w, r) => (w, r, true) | none => (0, [], false)
    if ok1 && ok2 then
      match decodeWords w0 w1 w2 with
      | .ok i _ => .ok (i, r2)
      | .bad r => .error r
    else .error .truncated

/-- The KIND-0 word of its fields (R73). -/
def ext0Word (e : Ext0) : Word :=
  e.sub ++ e.ty ++ BitVec.ofBool e.tov ++ BitVec.ofBool e.sat ++ e.od ++ e.sc ++ BitVec.ofBool e.gn ++
    BitVec.ofBool e.go ++ e.gp ++ e.c ++ (0 : BitVec 1)

/-- The LEN field of a form (R66). -/
def extLen : Ext → BitVec 2
  | .s => 0 | .l0 _ => 1 | .l1 _ _ => 1 | .w _ _ => 2

/-- The second word of a form, 0 where there is none (R73, R75). -/
def extWord1 : Ext → Word
  | .s => 0
  | .l0 e => ext0Word e
  | .l1 imm q => (0 : BitVec 9) ++ q ++ imm ++ (1 : BitVec 1)
  | .w e _ => ext0Word e

/-- The third word of a form, 0 where there is none (R76). -/
def extWord2 : Ext → Word
  | .w _ lit => lit
  | _ => 0

/-- The first word of an instruction (R70). -/
def firstWord (op : Nat) (f : Fields) : Word :=
  f.x ++ f.b ++ f.a ++ f.d ++ BitVec.ofNat 8 op ++ extLen f.ext

/-- The three words of an instruction, the ones past its length 0, and its length; none for a step that is no
instruction. -/
def encodeWords (i : Instr) : Option (Word × Word × Word × Nat) :=
  match i with
  | .ill len hi w1 w2 => some (hi ++ (0 : BitVec 8) ++ len, w1, w2, lenWords len)
  | i =>
    match specOf i, fieldsOf i with
    | some sp, some f => some (firstWord sp.op f, extWord1 f.ext, extWord2 f.ext, lenWords (extLen f.ext))
    | _, _ => none

/-- The words of a well-formed instruction; none for anything else. -/
def encode (i : Instr) : Option (List Word) :=
  if wellFormed i then
    match encodeWords i with
    | some (w0, w1, w2, n) => some ([w0, w1, w2].take n)
    | none => none
  else none

/-- The instruction that the decoder reads from an instruction whose bits are `w`, bit 0 the least significant bit of
the first word and every bit above `nbits` zero. -/
def decodeTableWord (nbits w : Nat) : Option Instr :=
  let v := w % 2 ^ nbits
  match decodeWords (BitVec.ofNat 32 v) (BitVec.ofNat 32 (v / 2 ^ 32)) (BitVec.ofNat 32 (v / 2 ^ 64)) with
  | .ok i _ => some i
  | .bad _ => none

end Sys2Proof
end

