-- ==== Sys2Proof/Config.lean ====
section
/-! DEFINITION. What the specification leaves open: free values, constants with no body, of which nothing can be
computed or proved. Each is named in a log entry. -/
namespace Sys2Proof.Config

/-- The content of a scratchpad byte that nothing has written since its crew was placed (R284): by cluster, byte of
the scratchpad and the launch of the crew that owns it (DESIGN CHOICE, safe: log entry 10). -/
opaque freeByte : Nat → Nat → Nat → BitVec 8
/-- A 32-bit value that the specification calls unpredictable, by the counter of State (DESIGN CHOICE, safe: log entry 8). -/
opaque freeWord : Nat → BitVec 32
/-- Which form of a page-table entry that software has changed a core uses: by cycle, lane and address (R238; DESIGN CHOICE,
safe: log entry 90). -/
opaque freeForm : Nat → Nat → Nat → BitVec 32
/-- The set of the core TLB that a translation goes to, by ASID, page and its size (R238; DESIGN CHOICE, safe: log entry 90). -/
opaque tlbSet : Nat → Nat → Nat → Nat
/-- The granules whose storage fails, and those that suffer an error which their code corrects, at a cluster cycle, by the
counter of State (R369; DESIGN CHOICE, safe: log entry 93). -/
opaque failing : Nat → List Nat
/-- See `failing`. -/
opaque fading : Nat → List Nat
/-- Where the recovery window lies in the control window: its offset and its length (R392; DESIGN CHOICE, safe: log entry 11). -/
opaque recovery : Nat × Nat
/-- The quote of an ATTEST reply, for a number that stands for the loaded images, a nonce and a signature's number (R392). -/
opaque quote : Nat → List (BitVec 8) → Nat → List (BitVec 8)
/-- What a depot's notice says of its new choice of PORT, ALTPORT, VALID and ALTV, for indices and for groups, by the counter of
State (R397; DESIGN CHOICE, safe: log entry 120). -/
opaque depotChoice : Nat → List (Nat × BitVec 10) × List (Nat × BitVec 10)
/-- The features that the device supports (R393; DESIGN CHOICE, safe: log entry 11). -/
opaque features : BitVec 32

end Sys2Proof.Config
end

