-- ==== Sys2Proof/Machine/Flags.lean ====
section
/-! DEFINITION. Floating-point and fixed-point numbers: the formats (R45-R51), the five exceptions (R52), rounding
(R53-R55), the arithmetic on elements (R107, R108, R111), and conversions (R57-R60). Values are exact dyadic numbers
m * 2^e; a quotient, a root or a transcendental value is a truncated magnitude with a mark that it is inexact. -/
namespace Sys2Proof.Machine

/-- The exceptions of R52 in the order of TRAPADDR: bit 0 invalid, 1 division by zero, 2 overflow, 3 underflow, 4
inexact. -/
abbrev Exc := BitVec 5
/-- Invalid operation. -/
def excInv : Exc := 1
/-- Division by zero. -/
def excDz : Exc := 2
/-- Overflow with inexact (R57). -/
def excOvf : Exc := 20
/-- Underflow with inexact (R50, R52). -/
def excUnf : Exc := 24
/-- Inexact. -/
def excInx : Exc := 16

/-- The element width of a type in bits (R43). -/
def tyBits : ETy → Nat
  | .i32 | .n32 | .fp32 => 32
  | .i64 | .n64 | .fp64 | .fx64 => 64
  | .i16 | .n16 | .fp16 | .bf16 => 16
  | .i8 | .n8 | .e5m2 | .e4m3 => 8
  | .e2m1 => 4

/-- Exponent and fraction widths of a floating type (R45). -/
def fmtOf : ETy → Nat × Nat
  | .fp64 => (11, 52) | .fp32 => (8, 23) | .fp16 => (5, 10) | .bf16 => (8, 7)
  | .e5m2 => (5, 2) | .e4m3 => (4, 3) | _ => (2, 1)

/-- The exponent bias (R45). -/
def biasOf (t : ETy) : Int := (2 ^ ((fmtOf t).1 - 1) : Nat) - 1

/-- Whether the format has infinities (R45). -/
def hasInf (t : ETy) : Bool := t != .e4m3 && t != .e2m1

/-- The sign bit at a type's width. -/
def signPat (t : ETy) (neg : Bool) : Nat := if neg then 2 ^ (tyBits t - 1) else 0

/-- The magnitude pattern of infinity. -/
def infMag (t : ETy) : Nat := (2 ^ (fmtOf t).1 - 1) * 2 ^ (fmtOf t).2

/-- The magnitude pattern of the largest finite value (R45, R47). -/
def maxMag (t : ETy) : Nat :=
  match t with
  | .e4m3 => 0x7E | .e2m1 => 7 | t => infMag t - 1

/-- The canonical NaN (R51); E2M1 has none and takes +0 (R57). -/
def nanPat (t : ETy) : Nat :=
  match t with
  | .e4m3 => 0x7F | .e2m1 => 0 | t => infMag t + 2 ^ ((fmtOf t).2 - 1)

/-- A decoded value: a NaN, an infinity, or (-1)^neg * m * 2^e, a zero keeping its sign. -/
inductive FVal where
  | nan (sig : Bool)
  | inf (neg : Bool)
  | fin (neg : Bool) (m : Nat) (e : Int)
  deriving DecidableEq, Repr

/-- Decoding of a pattern (R45-R47). -/
def decF (t : ETy) (x : Nat) : FVal :=
  let (eb, fb) := fmtOf t
  let neg := x.testBit (tyBits t - 1)
  let ex := (x >>> fb) % 2 ^ eb
  let fr := x % 2 ^ fb
  if t == .e4m3 && ex == 15 && fr == 7 then .nan false
  else if hasInf t && ex == 2 ^ eb - 1 then
    if fr == 0 then .inf neg else .nan (t != .e5m2 && !fr.testBit (fb - 1))
  else if ex == 0 then .fin neg fr (1 - biasOf t - fb)
  else .fin neg (fr + 2 ^ fb) (ex - biasOf t - fb)

/-- Whether a pattern is a subnormal. -/
def isSub (t : ETy) (x : Nat) : Bool :=
  let (eb, fb) := fmtOf t
  (x >>> fb) % 2 ^ eb == 0 && x % 2 ^ fb != 0

/-- Flushing of a subnormal input under FTZ (R50). -/
def flushIn (t : ETy) (ftz : Bool) (x : Nat) : Nat :=
  if ftz && isSub t x then signPat t (x.testBit (tyBits t - 1)) else x

/-- Hash24 (R55). -/
def hash24 (seed : DWord) (cl : Nat) (dic : DWord) (k : Nat) : Nat :=
  let z := (seed ^^^ (dic * 0x9E3779B97F4A7C15)) + BitVec.ofNat 64 (cl * 256 + k) * 0xBF58476D1CE4E5B9
  let z := (z ^^^ (z >>> 30)) * 0xBF58476D1CE4E5B9
  let z := (z ^^^ (z >>> 27)) * 0x94D049BB133111EB
  let z := z ^^^ (z >>> 31)
  bitsOf z.toNat 63 40

/-- What a rounding needs: the mode of R53, FTZ, and the inputs of Hash24. -/
structure FEnv where
  rm   : Nat
  ftz  : Bool
  seed : DWord
  cl   : Nat
  dic  : DWord
  deriving DecidableEq, Repr

/-- The draw of R54 for index `k`; used in the stochastic mode only. -/
def FEnv.draw (v : FEnv) (k : Nat) : Nat := if v.rm == 5 then hash24 v.seed v.cl v.dic k else 0

/-- Round to nearest, ties to even, nothing flushed. -/
def FEnv.nearest : FEnv := ⟨0, false, 0, 0, 0⟩

/-- Whether a residue rounds the magnitude up: `rem2` is twice the residue plus the inexact mark, out of 2^(s+1)
(R53, R54). -/
def roundsUp (rm u : Nat) (neg odd : Bool) (rem2 s : Nat) : Bool :=
  match rm with
  | 0 => rem2 > 2 ^ s || (rem2 == 2 ^ s && odd)
  | 1 => false
  | 2 => neg && rem2 != 0
  | 3 => !neg && rem2 != 0
  | 4 => rem2 ≥ 2 ^ s
  | _ => (rem2 / 2) * 2 ^ 24 / 2 ^ s + u ≥ 2 ^ 24

/-- Rounding of the magnitude m * 2^e to a multiple of 2^ue: the multiple and whether it is inexact. -/
def roundAt (rm u : Nat) (neg : Bool) (m : Nat) (e : Int) (st : Bool) (ue : Int) : Nat × Bool :=
  if ue ≤ e then (m * 2 ^ (e - ue).toNat, st)
  else
    let s := (ue - e).toNat
    let t := m / 2 ^ s
    let rem2 := 2 * (m % 2 ^ s) + (if st then 1 else 0)
    (if roundsUp rm u neg (t % 2 == 1) rem2 s then t + 1 else t, rem2 != 0)

/-- The result of an overflow in a mode (R53). -/
def ovfMag (t : ETy) (rm : Nat) (neg : Bool) : Nat :=
  if rm == 1 || (rm == 2 && !neg) || (rm == 3 && neg) then maxMag t else infMag t

/-- The number of bits of a magnitude. -/
def bitLen (m : Nat) : Nat := if m == 0 then 0 else Nat.log2 m + 1

/-- The result of a conversion that overflows (R57): saturated, or NaN for E4M3, or the result of R53. -/
def cvtOvf (t : ETy) (rm : Nat) (neg sat : Bool) : Nat :=
  signPat t neg + (if sat || t == .e2m1 then maxMag t else if t == .e4m3 then nanPat t else ovfMag t rm neg)

/-- Rounding of a magnitude m * 2^e, inexact where `st`, to a format (R50, R52, R53); `cvt` applies R57 on overflow,
with its saturation. The magnitude 7 overflows E2M1 in every mode, as the worked conversion of 7.0 has it; no other follows it
(DEDUCED, unsafe: log entry 54). -/
def roundF (t : ETy) (rm : Nat) (ftz : Bool) (u : Nat) (cvt sat : Bool) (neg : Bool) (m : Nat) (e : Int) (st : Bool) :
    Nat × Exc :=
  if m == 0 && !st then (signPat t neg, 0)
  else
    let fb : Int := (fmtOf t).2
    let emin : Int := 1 - biasOf t
    let top : Int := (bitLen m : Int) + e - 1
    let ue := max top emin - fb
    let (q, inx) := roundAt rm u neg m e st ue
    let fbn := (fmtOf t).2
    let (q, ue) := if q ≥ 2 ^ (fbn + 1) then (q / 2, ue + 1) else (q, ue)
    let pat : Nat := if q < 2 ^ fbn then q else ((ue + fb + biasOf t).toNat * 2 ^ fbn + (q - 2 ^ fbn))
    let big : Bool := t == .e2m1 && roundAt 1 0 false m e st 0 == (7, false)
    if pat > maxMag t || big then
      (if cvt then cvtOvf t rm neg sat else signPat t neg + ovfMag t rm neg, excOvf)
    else
      let tiny := top < emin && (roundAt rm u neg m e st (top - fb)).1 < 2 ^ (emin - top + fb).toNat
      if ftz && pat != 0 && pat < 2 ^ fbn then (signPat t neg, excUnf)
      else (signPat t neg + pat, if inx then (if tiny then excUnf else excInx) else 0)

/-- Rounding of an exact value in an environment, with the draw of index `k`. -/
def roundVal (t : ETy) (v : FEnv) (k : Nat) (neg : Bool) (m : Nat) (e : Int) (st : Bool) : Nat × Exc :=
  roundF t v.rm v.ftz (v.draw k) false false neg m e st

/-- A signed dyadic as an integer at exponent `e0`, which is no larger than its own. -/
def asInt (neg : Bool) (m : Nat) (e e0 : Int) : Int :=
  let n : Int := (m * 2 ^ (e - e0).toNat : Nat)
  if neg then -n else n

/-- An exact term of a sum: an infinity or a signed dyadic. -/
inductive Term where
  | inf (neg : Bool)
  | fin (neg : Bool) (m : Nat) (e : Int)
  deriving DecidableEq, Repr

/-- The exact product of two values that are no NaN; none for 0 times infinity. -/
def termMul (x y : FVal) : Option Term :=
  match x, y with
  | .inf a, .inf b => some (.inf (a != b))
  | .inf a, .fin b m _ => if m == 0 then none else some (.inf (a != b))
  | .fin b m _, .inf a => if m == 0 then none else some (.inf (a != b))
  | .fin a m e, .fin b n f => some (.fin (a != b) (m * n) (e + f))
  | _, _ => none

/-- A value as a term; a NaN does not occur. -/
def termOf : FVal → Term
  | .nan _ => .inf false
  | .inf n => .inf n
  | .fin n m e => .fin n m e

/-- The exact sum of terms: none for opposite infinities; a zero sum has the terms' common sign, or the sign of R49. -/
def termSum (rm : Nat) (l : List Term) : Option Term :=
  let pos := l.any fun t => t == .inf false
  let neg := l.any fun t => t == .inf true
  if pos && neg then none
  else if pos then some (.inf false)
  else if neg then some (.inf true)
  else
    let e0 : Int := l.foldl (fun a t => match t with | .fin _ _ e => min a e | _ => a) 0
    let total : Int := l.foldl (fun a t => match t with | .fin n m e => a + asInt n m e e0 | _ => a) 0
    if total == 0 then
      let allNeg := l.all fun t => match t with | .fin n m _ => n && m == 0 | _ => false
      let allPos := l.all fun t => match t with | .fin n m _ => !n && m == 0 | _ => false
      some (.fin (if allNeg then true else if allPos then false else rm == 2) 0 0)
    else some (.fin (total < 0) total.natAbs e0)

/-- The rounded result of a term, an invalid operation giving the canonical NaN (R51, R107). -/
def finish (t : ETy) (v : FEnv) (k : Nat) (r : Option Term) : Nat × Exc :=
  match r with
  | none => (nanPat t, excInv)
  | some (.inf n) => (signPat t n + infMag t, 0)
  | some (.fin n m e) => roundVal t v k n m e false

/-- Whether a value is a NaN. -/
def FVal.isNaN : FVal → Bool | .nan _ => true | _ => false
/-- Whether a value is a signalling NaN. -/
def FVal.isSNaN : FVal → Bool | .nan s => s | _ => false
/-- The invalid exception of signalling inputs (R46). -/
def sigExc (l : List FVal) : Exc := if l.any FVal.isSNaN then excInv else 0

/-- A flushed and decoded input. -/
def inF (t : ETy) (v : FEnv) (x : Nat) : FVal := decF t (flushIn t v.ftz x)

/-- FADD, FSUB (R107): `sub` negates the second term. -/
def fAddSub (sub : Bool) (t : ETy) (v : FEnv) (k x y : Nat) : Nat × Exc :=
  let a := inF t v x; let b := inF t v y
  if a.isNaN || b.isNaN then (nanPat t, sigExc [a, b])
  else
    let tb := match termOf b with | .inf n => Term.inf (n != sub) | .fin n m e => Term.fin (n != sub) m e
    finish t v k (termSum v.rm [termOf a, tb])

/-- FMUL (R107). -/
def fMul (t : ETy) (v : FEnv) (k x y : Nat) : Nat × Exc :=
  let a := inF t v x; let b := inF t v y
  if a.isNaN || b.isNaN then (nanPat t, sigExc [a, b]) else finish t v k (termMul a b)

/-- FFMA (R107): 0 times infinity is invalid even with a quiet NaN addend. -/
def fFma (t : ETy) (v : FEnv) (k x y z : Nat) : Nat × Exc :=
  let a := inF t v x; let b := inF t v y; let c := inF t v z
  if a.isNaN || b.isNaN then (nanPat t, sigExc [a, b, c])
  else
    match termMul a b with
    | none => (nanPat t, excInv)
    | some p =>
      if c.isNaN then (nanPat t, sigExc [c]) else finish t v k (termSum v.rm [p, termOf c])

/-- FDOT2 (R108): two products of a 16-bit type and an FP32 addend, rounded once to FP32. An invalid product or pair of
products raises invalid beside a NaN operand too (DESIGN CHOICE, unsafe: log entry 82). -/
def fDot2 (t : ETy) (v : FEnv) (k x y z : Nat) : Nat × Exc :=
  let a0 := inF t v (x % 2 ^ 16); let a1 := inF t v (x / 2 ^ 16)
  let b0 := inF t v (y % 2 ^ 16); let b1 := inF t v (y / 2 ^ 16)
  let c := inF .fp32 v z
  if [a0, a1, b0, b1].any FVal.isNaN then
    (nanPat .fp32, sigExc [a0, a1, b0, b1, c] |||
      (if (!a0.isNaN && !b0.isNaN && (termMul a0 b0).isNone) || (!a1.isNaN && !b1.isNaN && (termMul a1 b1).isNone)
        then excInv else 0))
  else
    match termMul a0 b0, termMul a1 b1 with
    | some p, some q =>
      if c.isNaN then (nanPat .fp32, sigExc [c] |||
        (if (termSum v.rm [p, q]).isNone then excInv else 0))
      else finish .fp32 v k (termSum v.rm [p, q, termOf c])
    | _, _ => (nanPat .fp32, excInv)

/-- The order of two values that are no NaN, -0 below +0 where `zeros`: negative, zero or positive. -/
def cmpVal (zeros : Bool) (x y : FVal) : Int :=
  match x, y with
  | .inf a, .inf b => if a == b then 0 else if a then -1 else 1
  | .inf a, _ => if a then -1 else 1
  | _, .inf b => if b then 1 else -1
  | .fin a m e, .fin b n f =>
    let e0 := min e f
    let d := asInt a m e e0 - asInt b n f e0
    if d != 0 then d else if zeros && m == 0 && a != b then (if a then -1 else 1) else 0
  | _, _ => 0

/-- FMIN and FMAX (R107). -/
def fMinMax (mx : Bool) (t : ETy) (v : FEnv) (x y : Nat) : Nat × Exc :=
  let xf := flushIn t v.ftz x; let yf := flushIn t v.ftz y
  let a := decF t xf; let b := decF t yf
  let ex := sigExc [a, b]
  if a.isNaN && b.isNaN then (nanPat t, ex)
  else if a.isNaN then (yf, ex)
  else if b.isNaN then (xf, ex)
  else
    let d := cmpVal true a b
    (if (if mx then d ≥ 0 else d ≤ 0) then xf else yf, ex)

/-- FCMP's conditions (R107): 0 EQ, 1 NE, 2 LT, 3 LE, 4 GT, 5 GE, 6 UN, 7 OR. -/
def fCmp (cond : Nat) (t : ETy) (v : FEnv) (x y : Nat) : Bool × Exc :=
  let a := inF t v x; let b := inF t v y
  if a.isNaN || b.isNaN then
    (cond == 1 || cond == 6, if 2 ≤ cond && cond ≤ 5 then excInv else sigExc [a, b])
  else
    let d := cmpVal false a b
    (match cond with
      | 0 => d == 0 | 1 => d != 0 | 2 => d < 0 | 3 => d ≤ 0 | 4 => d > 0 | 5 => d ≥ 0 | 6 => false | _ => true, 0)

/-- FCLASS's codes (R108). -/
def fClass (t : ETy) (x : Nat) : Nat :=
  let sub := isSub t x
  match decF t x with
  | .nan s => if s then 8 else 9
  | .inf n => if n then 0 else 7
  | .fin n m _ =>
    if m == 0 then (if n then 3 else 4) else if n then (if sub then 2 else 1) else (if sub then 5 else 6)

/-- FRND (R108): rounding to an integral value at ulp 1. -/
def fRnd (nox : Bool) (t : ETy) (v : FEnv) (k x : Nat) : Nat × Exc :=
  let xf := flushIn t v.ftz x
  match decF t xf with
  | .nan s => (nanPat t, if s then excInv else 0)
  | .inf _ => (xf, 0)
  | .fin n m e =>
    if e ≥ 0 then (xf, 0)
    else
      let (q, inx) := roundAt v.rm (v.draw k) n m e false 0
      ((roundF t 0 false 0 false false n q 0 false).1, if inx && !nox then excInx else 0)

/-- FSCALE (R108): a * 2^n rounded once; NaN, infinity and zero pass through. -/
def fScale (t : ETy) (v : FEnv) (k x : Nat) (n : Int) : Nat × Exc :=
  let xf := flushIn t v.ftz x
  match decF t xf with
  | .nan s => (nanPat t, if s then excInv else 0)
  | .inf _ => (xf, 0)
  | .fin g m e => if m == 0 then (xf, 0) else
    -- beyond 2^5000 in either direction nothing changes any more
    roundVal t v k g m (e + max (-5000) (min 5000 n)) false

/-- The integer square root by successive bits, `fuel` of them. -/
def isqrtGo (fuel x r : Nat) : Nat :=
  match fuel with
  | 0 => r
  | k + 1 => let c := r + 2 ^ k; isqrtGo k x (if c * c ≤ x then c else r)

/-- The integer square root. -/
def isqrt (x : Nat) : Nat := isqrtGo (bitLen x / 2 + 1) x 0

/-- The quotient of two magnitudes with at least 160 bits, and its mark. -/
def divMag (m : Nat) (e : Int) (n : Nat) (f : Int) : Nat × Int × Bool :=
  let s := 160 + bitLen n
  let a := m * 2 ^ s
  (a / n, e - f - s, a % n != 0)

/-- The root of a magnitude with at least 160 bits, and its mark. -/
def sqrtMag (m : Nat) (e : Int) : Nat × Int × Bool :=
  let (m, e) := if e % 2 == 0 then (m, e) else (m * 2, e - 1)
  let a := m * 2 ^ 400
  let r := isqrt a
  (r, e / 2 - 200, r * r != a)

/-- FDIV and FRCP (R111). -/
def fDiv (t : ETy) (v : FEnv) (k : Nat) (a b : FVal) : Nat × Exc :=
  match a, b with
  | .nan s, .nan s' => (nanPat t, if s || s' then excInv else 0)
  | .nan s, _ => (nanPat t, if s then excInv else 0)
  | _, .nan s => (nanPat t, if s then excInv else 0)
  | .inf _, .inf _ => (nanPat t, excInv)
  | .inf x, .fin y _ _ => (signPat t (x != y) + infMag t, 0)
  | .fin x _ _, .inf y => (signPat t (x != y), 0)
  | .fin x m e, .fin y n f =>
    if n == 0 then
      if m == 0 then (nanPat t, excInv) else (signPat t (x != y) + infMag t, excDz)
    else if m == 0 then (signPat t (x != y), 0)
    else
      let (q, g, st) := divMag m e n f
      roundVal t v k (x != y) q g st

/-- FSQRT (R111). -/
def fSqrt (t : ETy) (v : FEnv) (k : Nat) (a : FVal) : Nat × Exc :=
  match a with
  | .nan s => (nanPat t, if s then excInv else 0)
  | .inf n => if n then (nanPat t, excInv) else (infMag t, 0)
  | .fin n m e =>
    if m == 0 then (signPat t n, 0)
    else if n then (nanPat t, excInv)
    else let (q, g, st) := sqrtMag m e; roundVal t v k false q g st

/-- FRSQ (R111): the reciprocal of the root, computed as the root of the reciprocal. -/
def fRsq (t : ETy) (v : FEnv) (k : Nat) (a : FVal) : Nat × Exc :=
  match a with
  | .nan s => (nanPat t, if s then excInv else 0)
  | .inf n => if n then (nanPat t, excInv) else (0, 0)
  | .fin n m e =>
    if m == 0 then (signPat t n + infMag t, excDz)
    else if n then (nanPat t, excInv)
    else
      let (m, e) := if e % 2 == 0 then (m, e) else (m * 2, e - 1)
      let s := 200 + bitLen m
      let r := isqrt (2 ^ (2 * s) / m)
      roundVal t v k false r (-(e / 2) - s) (r * r * m != 2 ^ (2 * s))

/-! The transcendental functions are evaluated in fixed point with `w` fraction bits; every step truncates, and the
result is within 2^40 of the true value times 2^w. -/

/-- sum of x^k/k! from the term `t` on. -/
def expSeries (w x : Nat) : Nat → Nat → Nat → Nat → Nat
  | 0, _, _, acc => acc
  | fuel + 1, k, t, acc => if t == 0 then acc else expSeries w x fuel (k + 1) (t * x / 2 ^ w / k) (acc + t)

/-- e^x for x in fixed point, at least 0 and below 1. -/
def expFix (w x : Nat) : Nat := expSeries w x (w + 8) 1 (2 ^ w) 0

/-- sum of z^(2k+1)/(2k+1), `z2` being z squared. -/
def atanhSeries (w z2 : Nat) : Nat → Nat → Nat → Nat → Nat
  | 0, _, _, acc => acc
  | fuel + 1, k, p, acc => if p == 0 then acc else atanhSeries w z2 fuel (k + 2) (p * z2 / 2 ^ w) (acc + p / k)

/-- Twice the inverse hyperbolic tangent of a/b, at most 1/2. -/
def atanh2 (w a b : Nat) : Nat :=
  let z := a * 2 ^ w / b
  2 * atanhSeries w (z * z / 2 ^ w) (w + 8) 1 z 0

/-- ln 2. -/
def ln2Fix (w : Nat) : Nat := atanh2 w 1 3

/-- The alternating sum of z^(2k+1)/(2k+1): the inverse tangent of 1/n. -/
def atanSeries (w n2 : Nat) : Nat → Nat → Nat → Bool → Int → Int
  | 0, _, _, _, acc => acc
  | fuel + 1, k, p, neg, acc =>
    if p == 0 then acc
    else atanSeries w n2 fuel (k + 2) (p / n2) (!neg) (if neg then acc - (p / k : Nat) else acc + (p / k : Nat))

/-- pi/2 by Machin's formula. -/
def halfPi (w : Nat) : Nat :=
  let a := atanSeries w 25 (w + 8) 1 (2 ^ w / 5) false 0
  let b := atanSeries w 57121 (w + 8) 1 (2 ^ w / 239) false 0
  (8 * a - 2 * b).toNat

/-- The Taylor series of sine or cosine from the term `t`, dividing by k(k+1). -/
def trigSeries (w x2 : Nat) : Nat → Nat → Nat → Bool → Int → Int
  | 0, _, _, _, acc => acc
  | fuel + 1, k, t, neg, acc =>
    if t == 0 then acc
    else trigSeries w x2 fuel (k + 2) (t * x2 / 2 ^ w / (k * (k + 1))) (!neg)
      (if neg then acc - (t : Nat) else acc + (t : Nat))

/-- sin (`c` false) or cos (`c` true) of m * 2^e: sign and magnitude in fixed point. -/
def trigFix (w : Nat) (c : Bool) (m : Nat) (e : Int) : Bool × Nat :=
  let big := w + (bitLen m + e.toNat) + 16
  let hp := halfPi big
  let x := if e ≥ 0 then m * 2 ^ (big + e.toNat) else m * 2 ^ big / 2 ^ (-e).toNat
  let q := x / hp
  let r := (x % hp) / 2 ^ (big - w)
  let quad := (q + (if c then 1 else 0)) % 4
  let r2 := r * r / 2 ^ w
  let val := if quad % 2 == 0 then trigSeries w r2 (w + 8) 2 r false 0
    else trigSeries w r2 (w + 8) 1 (2 ^ w) false 0
  (quad ≥ 2, val.toNat)

/-- 2^f for f in fixed point, at least 0 and below 1. -/
def exp2Fix (w f : Nat) : Nat := expFix w (f * ln2Fix w / 2 ^ w)

/-- e^-x for x = m * 2^e, in fixed point: 2^-n times e^-(x - n ln 2). -/
def expNegFix (w : Nat) (m : Nat) (e : Int) : Nat :=
  let big := w + (bitLen m + e.toNat) + 16
  let x := if e ≥ 0 then m * 2 ^ (big + e.toNat) else m * 2 ^ big / 2 ^ (-e).toNat
  let l := ln2Fix big
  let n := x / l
  let r := (x % l) / 2 ^ (big - w)
  if n > 2 * w then 0 else 2 ^ (2 * w) / expFix w r / 2 ^ n

/-- The transcendental functions of R111. -/
inductive Fun where
  | exp2 | log2 | sin | cos | tanh | sigm
  deriving DecidableEq, Repr

/-- The value of a function at (-1)^neg * m * 2^e, not a special case: sign, magnitude in fixed point with `w`
fraction bits, and the power of two to scale it by. -/
def funFix (g : Fun) (w : Nat) (neg : Bool) (m : Nat) (e : Int) : Bool × Nat × Int :=
  match g with
  | .exp2 =>
    let x : Nat := if e ≥ 0 then m * 2 ^ (w + e.toNat) else m * 2 ^ w / 2 ^ (-e).toNat
    let n := x / 2 ^ w
    let f := x % 2 ^ w
    if neg then (false, 2 ^ (2 * w) / exp2Fix w f, -(n : Int)) else (false, exp2Fix w f, n)
  | .log2 =>
    let k : Int := (bitLen m : Int) - 1
    let one := 2 ^ k.toNat
    let l := atanh2 w (m - one) (m + one) * 2 ^ w / ln2Fix w
    let v : Int := l + (k + e) * (2 ^ w : Nat)
    (v < 0, v.natAbs, 0)
  | .sin => let (s, v) := trigFix w false m e; (s != neg, v, 0)
  | .cos => let (s, v) := trigFix w true m e; (s, v, 0)
  | .tanh =>
    let y := expNegFix w m (e + 1)
    (neg, (2 ^ w - y) * 2 ^ w / (2 ^ w + y), 0)
  | .sigm =>
    let y := expNegFix w m e
    (false, if neg then y * 2 ^ w / (2 ^ w + y) else 2 ^ (2 * w) / (2 ^ w + y), 0)

/-- Correct rounding: the two ends of the error interval are rounded, with more bits until they agree. -/
def funRound (t : ETy) (v : FEnv) (g : Fun) (neg : Bool) (m : Nat) (e : Int) : Nat → Nat → Nat × Exc
  | 0, w => let (s, x, p) := funFix g w neg m e; roundVal t v 0 s x (p - w) true
  | fuel + 1, w =>
    let (s, x, p) := funFix g w neg m e
    let lo := roundVal t v 0 s (x - 2 ^ 40) (p - w) true
    let hi := roundVal t v 0 s (x + 2 ^ 40) (p - w) true
    if lo == hi && x > 2 ^ 40 then lo else funRound t v g neg m e fuel (2 * w)

/-- The six functions (R111): special cases, exact cases, else correct rounding; stochastic rounding is nearest. -/
def fFun (g : Fun) (t : ETy) (v0 : FEnv) (a : FVal) : Nat × Exc :=
  let v := if v0.rm == 5 then { v0 with rm := 0 } else v0
  match a with
  | .nan s => (nanPat t, if s then excInv else 0)
  | .inf n =>
    match g with
    | .exp2 => (if n then 0 else infMag t, 0)
    | .log2 => if n then (nanPat t, excInv) else (infMag t, 0)
    | .sin | .cos => (nanPat t, excInv)
    | .tanh => roundVal t v 0 n 1 0 false
    | .sigm => if n then (0, 0) else roundVal t v 0 false 1 0 false
  | .fin n m e =>
    if m == 0 then
      match g with
      | .exp2 | .cos => roundVal t v 0 false 1 0 false
      | .log2 => (signPat t true + infMag t, excDz)
      | .sin | .tanh => (signPat t n, 0)
      | .sigm => roundVal t v 0 false 1 (-1) false
    else
      let whole : Bool := e ≥ 0 || m % 2 ^ (-e).toNat == 0
      let top : Int := (bitLen m : Int) + e
      match g with
      | .log2 =>
        if n then (nanPat t, excInv)
        else if m == 2 ^ Nat.log2 m then
          let k : Int := (Nat.log2 m : Int) + e
          roundVal t v 0 (k < 0) k.natAbs 0 false
        else funRound t v g n m e 4 192
      | .exp2 =>
        if top > 12 then roundVal t v 0 false 1 (if n then -5000 else 5000) true
        else if whole then
          let k : Int := asInt n m e (min e 0) / (2 ^ (-(min e 0)).toNat : Nat)
          roundVal t v 0 false 1 k false
        else funRound t v g n m e 4 192
      | .tanh => if top > 7 then roundVal t v 0 n (2 ^ 400 - 1) (-400) true else funRound t v g n m e 4 192
      | .sigm =>
        if top > 7 then (if n then roundVal t v 0 false 1 (-5000) true
          else roundVal t v 0 false (2 ^ 400 - 1) (-400) true)
        else funRound t v g n m e 4 192
      | _ => funRound t v g n m e 4 192

/-- The range of an integer type of width `w`. -/
def intMin (sg : Bool) (w : Nat) : Int := if sg then -(2 ^ (w - 1) : Nat) else 0
/-- The largest value of an integer type of width `w`. -/
def intMax (sg : Bool) (w : Nat) : Int := if sg then (2 ^ (w - 1) : Nat) - 1 else (2 ^ w : Nat) - 1

/-- Whether an integer type is signed; floating types are not (R96). -/
def tySigned : ETy → Bool
  | .i8 | .i16 | .i32 | .i64 | .fx64 => true
  | _ => false

/-- A value times 2^s rounded to an integer and clamped to a range: NaN gives 0; invalid where it saturates (R57,
R60). -/
def toInt (sg : Bool) (w : Nat) (rm u : Nat) (s : Nat) (a : FVal) : Nat × Exc :=
  match a with
  | .nan _ => (0, excInv)
  | .inf n => (wrapTo w (if n then intMin sg w else intMax sg w), excInv)
  | .fin n m e =>
    let (q, inx) := roundAt rm u n m (e + s) false 0
    let x : Int := if n then -(q : Int) else q
    if x < intMin sg w then (wrapTo w (intMin sg w), excInv)
    else if x > intMax sg w then (wrapTo w (intMax sg w), excInv)
    else (wrapTo w x, if inx then excInx else 0)

/-- Conversion to a floating type (R57): infinities and NaN as that rule gives, else rounding with saturation. -/
def cvtTo (t : ETy) (v : FEnv) (k : Nat) (sat : Bool) (a : FVal) : Nat × Exc :=
  match a with
  | .nan s => if t == .e2m1 then (0, excInv) else (nanPat t, if s then excInv else 0)
  | .inf n =>
    let r := cvtOvf t v.rm n sat
    (r, if hasInf t && r == signPat t n + infMag t then 0 else excOvf)
  | .fin n m e => roundF t v.rm v.ftz (v.draw k) true sat n m e false

/-- FCVT to E8M0 (R58). -/
def toE8M0 (ftz : Bool) (x : Nat) : Nat × Exc :=
  let xf := flushIn .fp32 ftz x
  let ex := bitsOf xf 30 23
  let fr := xf % 2 ^ 23
  (ex, if ex == 255 then 0
    else if bitsOf xf 31 31 == 0 && fr == (if ex == 0 then 0x400000 else 0) then 0 else excInx)

/-- FCVT from E8M0 (R58). -/
def ofE8M0 (ftz : Bool) (c : Nat) : Nat × Exc :=
  if c == 255 then (nanPat .fp32, 0)
  else if c == 0 then (if ftz then (0, excUnf) else (0x400000, 0))
  else (c * 2 ^ 23, 0)

/-- An FX64 or integer value as an exact number n * 2^-s (R60). -/
def ofInt (n : Int) (s : Nat) : FVal := .fin (n < 0) n.natAbs (-(s : Int))

/-- One conversion of R109: source type, destination code, scale, saturation. The destination is an integer type for
codes 0-7, a floating type or FX64 for 8-15. -/
def convert (src dst : ETy) (v : FEnv) (k s : Nat) (sat : Bool) (x : Nat) : Nat × Exc :=
  let isInt : Bool := src.code < 8
  let a : FVal := if isInt then ofInt (if tySigned src then signedOf (tyBits src) x else (x : Int)) 0
    else if src == .fx64 then ofInt (signedOf 64 x) s
    else inF src v x
  if dst.code < 8 then toInt (tySigned dst) (tyBits dst) v.rm (v.draw k) 0 a
  else if dst == .fx64 then
    if src == .fx64 then (x, 0) else toInt true 64 v.rm (v.draw k) s a
  else cvtTo dst v k sat a

end Sys2Proof.Machine
end

