-- ==== Sys2Proof/Machine/State.lean ====
section
/-! DEFINITION. The state of one Budric B6 package as plain data: lanes, paths and trains, cores, pairs, clusters,
dies, the package, its fabric ports and its collective groups; the reasons a step can stop; and the state after
power-on. INVENTORY.md lists each piece with the rule that names it and its reset value. -/
namespace Sys2Proof.Machine

/-- A translation held in a core TLB or a last-page register (R237, R238): the virtual page, its size in bits, and the
leaf's bits. -/
structure TlbEntry where
  asid  : Nat
  vbase : Nat
  bits  : Nat
  leaf  : DWord
  deriving DecidableEq, Repr

/-- An upper-level entry that a core's walker keeps (R238): the table that entries of a level name for an address. -/
structure UpperEntry where
  asid  : Nat
  lvl   : Nat
  vbase : Nat
  next  : Nat
  deriving DecidableEq, Repr

/-- One lane of a resident train: v0-v15 (R29), the ring of 104 windowed registers (R153), p0-p63 (R29), the
dynamic instruction count (R56), its status once retired (R148), the work list it holds an item of (R359), and `lost`: the
frames below this depth hold unpredictable values when they are next filled for the lane (R167, R168), but for those registers
that `kept` names, a frame with a mask of its registers each, which have been spilled or stored since. `page` is its last-page
register (R237). -/
structure Lane where
  v      : List Word
  ring   : List Word
  preds  : DWord
  dic    : DWord
  status : BitVec 16
  hold   : Option Nat
  lost   : Nat
  kept   : List (Nat × Nat)
  page   : Option TlbEntry
  deriving DecidableEq, Repr

/-- A register or predicate of a path's lanes, or a scalar of its train (R29): v0-v15, ring register 0-103 (R153),
p0-p63, s0-s63. -/
inductive Reg where
  | fixed  (n : Nat)
  | ring   (n : Nat)
  | pred   (n : Nat)
  | scalar (n : Nat)
  deriving DecidableEq, Repr

/-- One register or predicate write that a long-latency result makes; `lane` means nothing for a scalar. -/
structure RegWrite where
  reg  : Reg
  lane : Nat
  val  : Word
  deriving DecidableEq, Repr

/-- What remains of a lookahead window (R141). -/
inductive Window where
  | count (n : Nat)
  | untilWaitl
  deriving DecidableEq, Repr

/-- A lane of a long-latency instruction whose data or reply is bad (R228, R305). -/
structure LaneErr where
  lane  : Nat
  cause : Nat
  addr  : DWord
  deriving DecidableEq, Repr

/-- The activation-table contents of R113: ASID, header words and the segments' c0, c1, c2. -/
structure ActBank where
  valid : Bool
  asid  : Nat
  lo    : Word
  hi    : Word
  inv   : Word
  ylo   : Word
  yhi   : Word
  segs  : List (Word × Word × Word)
  deriving DecidableEq, Repr

/-- The table that a TABLD brings (R115): the bank it is to fill; or, where words of its image come from peers, the image's
address and the lanes that a trap names, its words being the result's writes, each with its number for a lane. -/
inductive Flip where
  | bank (b : ActBank)
  | words (addr : DWord) (lanes : LaneSet)
  deriving DecidableEq, Repr

/-- An outstanding long-latency result of a path (R33, R141): the instruction's address, its window, the writes
known so far, the replies still awaited, the lanes in error, and the table to flip in (R115). -/
structure Pending where
  id       : Nat
  pc       : DWord
  win      : Window
  writes   : List RegWrite
  dests    : List Reg
  awaiting : List Nat
  errs     : List LaneErr
  flip     : Option Flip
  deriving DecidableEq, Repr

/-- A trap that waits to be delivered (R184). -/
structure TrapRec where
  cause : Nat
  lanes : LaneSet
  pc    : DWord
  addr  : DWord
  deriving DecidableEq, Repr

/-- A failure report of a peer store (R405, R408). -/
structure Report where
  peer   : Nat
  line   : Nat
  reason : Nat
  kind   : Nat
  deriving DecidableEq, Repr

/-- The region record of a path (R186, R188), with what its obligations need (R187): the predicates that it has read, the
locations that it has loaded, by key and length, the loaded locations that it has stored to since, the vector and windowed
registers that it has written, each with its lanes, and whether it has read or written a register, a predicate or a scalar
against its obligations. -/
structure Region where
  entry  : DWord
  livev  : BitVec 16
  livew  : Word
  keeps  : Bool
  broken : Bool
  dics   : List DWord
  preds  : List Nat
  loaded : List (Nat × Nat)
  hit    : List (Nat × Nat)
  written : List (Reg × LaneSet)
  breach : Bool
  deriving DecidableEq, Repr

/-- What a parked path waits for (R40, R41), with what its return needs. -/
inductive Wake where
  /-- A page fault: the unfinished lanes and whether a TLBI has woken it (R234). -/
  | pageFault (unf : LaneSet) (woken : Bool)
  /-- A barrier: its word's key in the owner's memory, the offset or address, the token, whether the word is in the crew's
  scratchpad, and whether it is a roster's (R311, R314). -/
  | barrier (key : Nat) (addr : DWord) (token : Nat) (crewWord roster : Bool)
  /-- A barrier arrival whose token has not come back: its destination scalar, and whether it then waits. -/
  | arrive (key : Nat) (addr : DWord) (dst : Option Nat) (thenWait crewWord roster : Bool)
  /-- FBAR of a group at a phase (R441). -/
  | fbar (group phase : Nat)
  /-- WAITADDR (R307): virtual address, physical key, comparison value, 64-bit, equality wanted, deadline, the
  destination, the active set at issue, a write seen, the monitor lost. -/
  | waitAddr (va : DWord) (pa : Nat) (cmp : DWord) (wide eq : Bool) (deadline : Option Nat) (dst : Nat)
      (act : LaneSet) (hit lost : Bool)
  /-- CWAIT on the object at a physical key and an address (R276). -/
  | cwait (pa : Nat) (act : LaneSet) (va : DWord)
  /-- CWAIT.ALL over the copies issued before it (R276). -/
  | cwaitAll (ops : List Nat) (act : LaneSet)
  /-- MWAIT or MWAIT.ALL over the operations issued before it (R268). -/
  | mwait (ops : List Nat) (act : LaneSet)
  /-- YIELD on the object at a physical key, with the continuation and the object's address (R145). -/
  | yield (pa : Nat) (cont : DWord) (va : DWord)
  /-- JWAIT on a reconvergence id (R136). -/
  | jwait (j : Nat)
  /-- WLPOP.WAIT on an empty list (R359): each lane's list. -/
  | wlpop (lists : List (Nat × Nat)) (dst : Nat) (flag : Nat)
  /-- QUIESCE (R361). -/
  | quiesce (dst : Nat)
  /-- VJOIN of a group, issued at a TIME (R438). -/
  | vjoin (group dst since : Nat)
  /-- SHSYNC.WAIT for version `v` (R425). -/
  | shsync (v : Word) (dst : Nat)
  deriving DecidableEq, Repr

/-- The state of a path-table entry that holds a path (R40); Frozen is kept beside it so that the prior state is
remembered. -/
inductive PState where
  | active | parked | trapped | halted | saved
  deriving DecidableEq, Repr

/-- Why a path is Frozen (R40, R184). -/
inductive Freeze where
  | none | siblingTrap | halt | pendingTrap
  deriving DecidableEq, Repr

/-- How far a pre-emption has stopped a path (R189). -/
inductive Stop where
  | running | awaitingRegion | atRegion | inFull
  deriving DecidableEq, Repr

/-- A short-latency producer: the register or predicate it wrote and the first core cycle at which a dependent
may issue (R200). -/
structure Producer where
  reg   : Reg
  ready : Nat
  deriving DecidableEq, Repr

/-- What a Tender request transfers (R158): a frame of some lanes to or from its slot, a deferred record with its
lanes, PC, window base and index (R20, R155), or a refill (R129). -/
inductive TenderKind where
  | spill (frame : Nat) (lanes : LaneSet)
  | fill (frame : Nat) (lanes : LaneSet)
  | record (lanes : LaneSet) (pc : DWord) (wbase : Word) (idx : Nat)
  | refill
  deriving DecidableEq, Repr

/-- A granule of a peer that LAUNCH reads (R346), none before its answer has come, with the outcome (R404). -/
structure PeerGot where
  peer : Nat
  gran : Nat
  data : Option (RemoteOutcome × List Byte)
  deriving DecidableEq, Repr

/-- A live path (R16) with what its issue needs. `uid` names the path in this model; `fetched` holds the words of
its next instruction once fetched (R68, R196); `unf` is the mask of a replay (R234),
`lastPc` the address of the instruction it issued last (R216), and `xfers` the transfers that the
Tender has made for its next instruction (R161, R163); `errDue` that a bad result has raised its trap (R228); `woken` that
what it waits for has come about while it was Frozen or Halted (R41); `flushWait` that the flush of its save waits for an
absent page (R166, R170), and `cold` that its first words after a placement or a restore are yet to be fetched (R217). `full` is
the oldest of 16 outstanding results that hold its next instruction (R143), and `raced` names destinations of outstanding
results, each by the result's number, that a later instruction has written (R142). Its
reads perform no earlier in the package's order than `floor`, its sequenced reads no earlier than `seqFloor`, and reads of the
bytes of `locs` (key, length) no earlier than the point beside them (R324-R328); `seen` holds the OPFENCEs and completions
that it knows of, by train or operation with the point, and `learn` those that it will know of when its wait returns (R267, R334);
`got` are the granules of peers that its LAUNCH has asked for (R346). -/
structure Path where
  uid       : Nat
  got       : List PeerGot
  pc        : DWord
  lastPc    : DWord
  mask      : LaneSet
  mode      : Word
  wbase     : Word
  jids      : BitVec 16
  pending   : List Pending
  pstate    : PState
  wake      : Option Wake
  frozen    : Freeze
  stop      : Stop
  stall     : BitVec 5
  delay     : Nat
  waitc     : Nat
  fetched   : Option (Word × Word × Word)
  producers : List Producer
  region    : Region
  reports   : List Report
  trapDue   : Option TrapRec
  unf       : Option LaneSet
  xfers     : List TenderKind
  errDue    : Bool
  woken     : Bool
  flushWait : Bool
  cold      : Bool
  full      : Option Nat
  raced     : List (Nat × Reg)
  floor     : Nat
  seqFloor  : Nat
  seen      : List (Nat × Nat)
  learn     : List (Nat × Nat)
  locs      : List (Nat × Nat × Nat)
  deriving DecidableEq, Repr

/-- A record of the core's directory of deferred paths, newest first (R21): MASK, JIDS, its index in the
deferred-path area (R155), and the path's number in this model. -/
structure Deferred where
  uid  : Nat
  mask : LaneSet
  jids : BitVec 16
  idx  : Nat
  deriving DecidableEq, Repr

/-- A refill under way: the reserved entry and its record (R129). -/
structure Refill where
  entry : Nat
  what  : Deferred
  parked : Bool
  deriving DecidableEq, Repr

/-- The handler or debug agent that occupies a train (R176, R177, R192); `haltPc` is the TRAPPC that its entry wrote. -/
structure Handler where
  agent     : Bool
  entry     : Nat
  wasParked : Bool
  hmask     : LaneSet
  paths     : List (Option Path)
  jtab      : List (Option DWord)
  started   : Nat
  cause     : Nat
  haltPc    : DWord
  deriving DecidableEq, Repr

/-- How a train ended (R149). -/
inductive TrainEnd where
  | byExit | byTail
  deriving DecidableEq, Repr

/-- What the samples of an ended train report (R216). -/
structure EndReport where
  pc    : DWord
  mask  : LaneSet
  entry : Nat
  deriving DecidableEq, Repr

/-- A resident train (R12, R16, R173, R177). `taking` is the path entry whose trap waits for its results (R176), `stepArmed`
the path that a STEP lets issue once, and `stepOwed` that it has issued and the agent is still to be entered (R185, R191). `made`
are the producers of its scalars, whichever path made them (R200). -/
structure Train where
  uid       : Nat
  crew      : CrewRef
  tix       : Nat
  trainId   : Word
  asid      : Nat
  seed      : DWord
  prio      : Nat
  stamp     : Nat
  lanes     : List Lane
  scalars   : List Word
  paths     : List (Option Path)
  deferred  : List Deferred
  refills   : List Refill
  jtab      : List DWord
  retired   : LaneSet
  winstack  : DWord
  trapCause : Word
  trapPc    : DWord
  trapMask  : LaneSet
  trapAddr  : DWord
  dbgctl    : Word
  pendHalt  : Bool
  stepArmed : Option Nat
  stepOwed  : Bool
  taking    : Option Nat
  handler   : Option Handler
  engFail   : Option (Nat × DWord)
  lastEntry : Nat
  charged   : DWord
  reports   : List Report
  mailbox   : DWord
  saveArea  : DWord
  ended     : Option TrainEnd
  killed    : Bool
  idleOut   : Bool
  drainErr  : Bool
  endReport : Option EndReport
  preempt   : Option Nat
  allStopped : Option Nat
  made      : List Producer
  deriving DecidableEq, Repr

/-- What a transaction-table entry is held for (R245, R246, R255). -/
inductive TxnKind where
  | load | store | atomic | engine
  deriving DecidableEq, Repr

/-- A holding of transaction-table entries (R245): who holds it, how many entries, the paths whose earlier accesses it
counts among (R332), the shard version it is bound to (R425), whether later accesses of those paths wait for it (R328),
and whether its accesses have performed. -/
structure Txn where
  id      : Nat
  kind    : TxnKind
  train   : Nat
  entries : Nat
  paths   : List Nat
  shver   : Option (Nat × Word)
  acq     : Bool
  perf    : Bool
  deriving DecidableEq, Repr

/-- A reservation of the bucket or of the transaction table (R209, R245). -/
structure Reservation where
  slot    : Nat
  entry   : Nat
  handler : Bool
  amount  : Nat
  deriving DecidableEq, Repr

/-- A sector of a line in the L1 of one core (R240, R241): the bytes that it has masked, its valid bit, the TIME at which its
read lease ends, its poison bit, and whether its line stands in the least recently used position of its set (R244). -/
structure L1Sector where
  core    : Nat
  granule : Nat
  mask    : BitVec 64
  valid   : Bool
  lease   : Nat
  poison  : Bool
  first   : Bool
  deriving DecidableEq, Repr

/-- A 64-byte line of a separately cached route (R220): its bytes as filled, and as they stood after each later write, newest
first, any of which a read may return (R250). -/
structure RouteLine where
  line  : Nat
  data  : List Byte
  later : List (List Byte)
  deriving DecidableEq, Repr

/-- A write-combining entry (R406, R407): its bytes, the paths whose earlier accesses it counts among, the paths that
hold its failure reports (R408), the trains, and the shard versions its STT bytes are bound to (R425). -/
structure WcEntry where
  id       : Nat
  peer     : Nat
  line     : Nat
  mask     : BitVec 256
  data     : List Byte
  paths    : List Nat
  holders  : List Nat
  trains   : List Nat
  created  : Nat
  draining : Bool
  sent     : Bool
  shver    : List (Nat × Word)
  deriving DecidableEq, Repr

/-- A queued or running Tender transfer (R158). -/
structure TenderJob where
  who     : PathRef
  kind    : TenderKind
  started : Bool
  deriving DecidableEq, Repr

/-- A retirement tracker entry (R149). -/
structure Tracker where
  slot  : Nat
  train : Train
  deriving DecidableEq, Repr

/-- One core (R195-R219, R237-R247, R317-R320). `issued` is the path that issued in this cycle, with the address of its
instruction and its mask (R213); `tabld` is the number of the last TABLD's result, `ftab` the bank that the last FTAB reads and
the cycle in which its beats end (R115); `banksTo` the cluster cycle to which the passes of its scratchpad accesses go
(R287); `svcWait` the waiting count of the service train's path (R198). -/
structure Core where
  slots     : List (Option Train)
  lastEnd   : List (Option EndReport)
  trackers  : List (Option Tracker)
  actBanks  : List ActBank
  actCur    : Nat
  tabld     : Option Nat
  ftab      : Option (Nat × Nat)
  balance   : Nat
  allot     : Nat
  band      : Nat
  raising   : Bool
  bandMax   : Nat
  renewIn   : Nat
  heavy     : List Nat
  pipes     : List Nat
  sfu       : Nat
  banksTo   : Nat
  cycle     : Nat
  resv      : Option Reservation
  txResv    : Option Reservation
  txns      : List Txn
  sampctl   : Word
  sampSlot  : Nat
  sampIn    : Nat
  issued    : Option (PathRef × DWord × LaneSet)
  ring      : Option (Nat × Nat)
  tlb       : List TlbEntry
  upper     : List UpperEntry
  constants : List RouteLine
  tiles     : List RouteLine
  icache    : List RouteLine
  wc        : List WcEntry
  tender    : List TenderJob
  iss       : Nat
  isl       : Nat
  mem       : Nat
  winEnd    : Nat
  relock    : Bool
  svcWait   : Nat
  gated     : Bool
  deriving DecidableEq, Repr

/-- A request in a service train's queue (R296): an atomic (R302, R303), a barrier arrival (R311) or a
completion-object update (R272). `key` is the memory key of the operand, and `ord` the lane of a sequenced instruction, whose
lanes are performed in ascending order (R304). -/
inductive SvcReq where
  | atomic (key : Nat) (scratch : Bool) (op width ty : Nat) (b c : DWord) (scale rmode : Nat) (ftz : Bool)
      (draw : BitVec 24) (noReply : Bool) (asid : Nat) (ret : Option (PathRef × Nat × Nat × List Reg))
      (core txn : Nat) (va : DWord) (origin : Nat) (ord : Option Nat)
  | arrive (key : Nat) (scratch : Bool) (r : PathRef)
  | complete (key : Nat) (add errs cause : Nat) (addr : DWord) (asid : Nat) (know : List (Nat × Nat))
  deriving DecidableEq, Repr

/-- A monitor of a line (R308). -/
structure Monitor where
  line : Nat
  who  : PathRef
  deriving DecidableEq, Repr

/-- A crew's scratchpad allocation (R284). -/
structure Alloc where
  crew : CrewRef
  base : Nat
  size : Nat
  deriving DecidableEq, Repr

/-- A mapped stash chunk (R289-R293): offset in the allocation, virtual address, physical key, and the bytes
that are filled or masked. -/
structure StashChunk where
  crew   : CrewRef
  off    : Nat
  va     : DWord
  key    : Nat
  filled : BitVec 16
  masked : List Nat
  deriving DecidableEq, Repr

/-- What a matrix-queue operation does (R261, R264, R270). -/
inductive MatKind where
  | mma (fmt : Nat) (za lat bq : Bool)
  | mmag (fmt : Nat) (za bq : Bool)
  | gather (rows : Nat)
  | accrd (ty : Nat) (rmode : Nat) (sat : Bool)
  | accwr (op : Nat)
  deriving DecidableEq, Repr

/-- An operand row that a started operation has read: its lane or column, where its data and its scales lie, and
both (R260, R262). -/
structure OpRow where
  ix    : Nat
  off   : Nat
  soff  : Nat
  data  : List Byte
  scale : List Byte
  deriving DecidableEq, Repr

/-- A matrix-queue operation (R255, R262): issuer, active set at issue, accumulator, descriptor or row address, object.
`vb` and `ixs` are the index register and its values at issue; `dirty` holds the offset ranges that have been written since its issue,
and `maybe` the writes before it, newest first, with what they replaced and whether the operation must see them (R267); `know` is what
its issuer knew; `rows` and `cols` the operands that its start has read, and `ahead` the elements that
it has updated before its completion (R256). -/
structure MatOp where
  id      : Nat
  train : Nat
  who     : PathRef
  crew    : CrewRef
  asid    : Nat
  act     : LaneSet
  kind    : MatKind
  acc     : Nat
  desc    : List Word
  obj     : Option Nat
  vb      : Option Reg
  ixs     : List Word
  dirty   : List (Nat × Nat)
  maybe   : List (Nat × List Byte × Bool)
  know    : List (Nat × Nat)
  rows    : List OpRow
  cols    : List OpRow
  ahead   : List Nat
  txn     : Nat
  waiting : Bool
  granted : Bool
  started : Bool
  deriving DecidableEq, Repr

/-- An accumulator tile (R257, R258). -/
structure Acc where
  owner : Option CrewRef
  rows  : List (List Word)
  deriving DecidableEq, Repr

/-- The operand latch of a pair (R264). -/
structure Latch where
  valid   : Bool
  crew    : CrewRef
  asid    : Nat
  present : LaneSet
  rows    : List (List Byte)
  scales  : List (List Byte)
  deriving DecidableEq, Repr

/-- A core pair's matrix engine (R254-R270). -/
structure Pair where
  queue : List MatOp
  accs  : List Acc
  latch : Latch
  deriving DecidableEq, Repr

/-- A copy (R273-R275). `after` holds the accesses of its path that it waits for, `floor` the point before which it reads nothing (R274), `know` what its issuer
knew (R334), `asked` and `got` the remote
source lines it has asked for and received (R401), `moved` that its bytes have left. -/
structure CopyOp where
  id      : Nat
  train : Nat
  who     : PathRef
  trainId : Word
  crew    : CrewRef
  asid    : Nat
  dst     : DWord
  src     : DWord
  dScr    : Bool
  sScr    : Bool
  queue   : Option Nat
  qslot   : Nat
  rowBytes : Nat
  rows    : Nat
  sstride : Int
  dstride : Int
  obj     : Option Nat
  txn     : Nat
  arrived : Bool
  granted : Bool
  waiting : Bool
  started : Bool
  atPage  : Bool
  after   : List Nat
  floor   : Nat
  know    : List (Nat × Nat)
  asked   : Bool
  got     : List (Nat × Nat × List Byte)
  moved   : Bool
  failed  : Option (Nat × DWord)
  deriving DecidableEq, Repr

/-- The state of a buffer slot (R277). -/
inductive SlotState where
  | empty | reserved | full | reading
  deriving DecidableEq, Repr

/-- A bound circular buffer (R277-R279). `ghosts` holds the copies of killed trains that had reserved a slot, by number and
slot: when its turn comes the slot becomes full, as after a failed copy (R279, R281). -/
structure Buffer where
  crew  : CrewRef
  tix   : Nat
  base  : Nat
  geom  : Word
  size  : Nat
  head  : Nat
  tail  : Nat
  slots : List SlotState
  ghosts : List (Nat × Nat)
  freed : Bool
  deriving DecidableEq, Repr

/-- What waits at the signal box (R316). -/
inductive SbKind where
  | matrix (pair id : Nat) | copy (id : Nat) | band (core : Nat)
  deriving DecidableEq, Repr

/-- A request at the signal box with its age (R316). -/
structure SbReq where
  time : Nat
  core : Nat
  kind : SbKind
  deriving DecidableEq, Repr

/-- A cluster's gating state (R365). -/
inductive Gate where
  | on | gating | gated | ungating
  deriving DecidableEq, Repr

/-- A roster slot (R352). -/
structure RosterSlot where
  launch : Nat
  id     : Nat
  deriving DecidableEq, Repr

/-- Who has written bytes of a scratchpad (R267, R338): a train's lanes, by its number; a copy or an ACCRD, by its own number and its
train's, the latter with the accumulators that it names; or another agent. -/
inductive Writer where
  | store (train : Nat)
  | copy (id train : Nat)
  | accrd (id train : Nat) (accs : List Nat)
  | other
  deriving DecidableEq, Repr

/-- Bytes of a crew's scratchpad, stashed lines among them, that have been written, for the operations that read them (R267): the
writer, their offset, what they held before, and the point at which the train completed an OPFENCE, or the operation completed. -/
structure Unfenced where
  crew   : CrewRef
  writer : Writer
  off    : Nat
  old    : List Byte
  fence  : Option Nat
  deriving DecidableEq, Repr

/-- What a barrier word or a completion object passes on of OPFENCEs and completions (R267, R334), each by the number of its train or
operation with its point: for a barrier what the arrivals of the phase under way have brought, and what the last phase has;
for an object what its updates have. `place` is the word's location key. -/
structure Known where
  place : Nat
  cur   : List (Nat × Nat)
  done  : List (Nat × Nat)
  deriving DecidableEq, Repr

/-- One cluster (R283-R320, R352, R365). `unfenced` holds the writes that operations may not yet see, newest first (R267). -/
structure Cluster where
  scratch  : List Host.Cell
  unfenced : List Unfenced
  allocs   : List Alloc
  stash    : List StashChunk
  svc      : List SvcReq
  monitors : List Monitor
  curbud   : Nat
  sbq      : List SbReq
  policy   : Word
  ratio    : Word
  gate     : Gate
  idleFrom : Option Nat
  rosters  : List RosterSlot
  copies   : List CopyOp
  bufs     : List (Option Buffer)
  pairs    : List Pair
  sampler  : List RouteLine
  cycle    : DWord
  deriving DecidableEq, Repr

/-- One die (R362-R366, R383-R385, R394). `spent`, `paidIn`, `share` and `below` count, in tokens, what the current
governor step has spent on the die and paid to it, its share, and how far its balance lay below zero as the step
began (R378, R379, R382). -/
structure Die where
  bucket   : Int
  rd       : Nat
  rot      : Nat
  power    : Word
  clock    : Word
  spent    : Nat
  paidIn   : Nat
  owed     : Nat
  share    : Nat
  below    : Nat
  hints    : List (Nat × Nat)
  scrubAt  : Nat
  ageind   : Word
  stretched : Nat
  deriving DecidableEq, Repr

/-- The governor's states (R381). -/
inductive GovState where
  | steady | preRamp | rising | falling
  deriving DecidableEq, Repr

/-- An accepted intent (R379, R445): source, start in ns after the stagger, start as offered, watts. -/
structure Intent where
  src    : Nat
  start  : Int
  ts     : Nat
  watts  : Nat
  deriving DecidableEq, Repr

/-- A launch packet's fields as LAUNCH copied them (R343), with its rosters (R344). -/
structure Packet where
  prio    : Nat
  placed  : Bool
  trains  : Nat
  asid    : Nat
  frames  : Nat
  scratch : Nat
  shard   : Nat
  grid    : Nat × Nat × Nat
  entry   : DWord
  seed    : DWord
  crecBase : DWord
  doneObj : DWord
  deps    : List DWord
  wsBase  : DWord
  saveBase : DWord
  mboxBase : DWord
  args    : List Word
  rosters : List (Nat × DWord × List Nat)
  deriving DecidableEq, Repr

/-- An entry of the pending-launch table, kept until its last DONEOBJ update (R346-R349). -/
structure Launch where
  id      : Nat
  pk      : Packet
  ready   : Option Nat
  next    : Nat
  savedCrews : List Nat
  waitFrom : Option Nat
  waitPage : Bool
  asking  : Option CrewRef
  freed   : Bool
  updates : List (Nat × Nat × DWord)
  deriving DecidableEq, Repr

/-- A resident crew (R349-R355), with its completion record so far (R150). -/
structure Crew where
  ref     : CrewRef
  cluster : Nat
  asid    : Nat
  placed  : Nat
  left    : Nat
  awaitGate : Bool
  holdoff : Option Nat
  maxst   : Nat
  nzcount : Nat
  maxlane : Nat
  lanes   : Nat
  flags   : Nat
  deriving DecidableEq, Repr

/-- A saved crew (R189, R355), with what its save area does not hold: the record so far (R150), and of its trains the
statuses, the holds (R359), the wake conditions (R41), the order of the deferred records (R21) and a waiting agent; and
the pairs, of which the area holds the first one's accumulators and latch only. -/
structure SavedCrew where
  crew   : Crew
  trains : List Train
  pairs  : List Pair
  deriving DecidableEq, Repr

/-- An ASID context (R390) with the shard version (R419, R425). -/
structure AsidCtx where
  asid   : Nat
  bytes  : List Byte
  deriving DecidableEq, Repr

/-- A bound work list (R356): ring, k, head and tail. -/
structure WorkList where
  id   : Nat
  asid : Nat
  ring : Nat
  k    : Nat
  head : Nat
  tail : Nat
  deriving DecidableEq, Repr

/-- A page-fault record that waits for room (R235). -/
structure FaultRec where
  asid : Nat
  data : List Byte
  deriving DecidableEq, Repr

/-- A near-memory command in flight (R373, R374, R467): `left` holds the elements it has yet to process, `parked` the
64 KiB page numbers it has written a fault record for, `failed` the reported failure with its stack granule, `paid` the granules of DST
that tokens have been drawn for. -/
structure NmcCmd where
  id     : Nat
  train : Nat
  who    : PathRef
  crew   : CrewRef
  asid   : Nat
  paths  : List Nat
  op     : Nat
  ty     : Nat
  dst    : DWord
  src    : DWord
  count  : Nat
  alpha  : Word
  beta   : Word
  obj    : Option Nat
  txn    : Nat
  left   : List Nat
  parked : List Nat
  failed : Option (Nat × DWord × Option Nat)
  paid   : List Nat
  deriving DecidableEq, Repr

/-- A page that the thrash detector tracks (R377): its moves and when it was pinned. -/
structure Thrash where
  asid   : Nat
  page   : Nat
  moves  : List Nat
  pinned : Option Nat
  deriving DecidableEq, Repr

/-- A lane of a remote load: its address, the offset in its line, and whether its leaf's policy is KILL (R404). -/
structure RemoteLane where
  lane : Nat
  va   : DWord
  off  : Nat
  kill : Bool
  deriving DecidableEq, Repr

/-- What a remote request was made for (R401-R405). -/
inductive RemoteUse where
  | load (r : PathRef) (pend : Nat) (lanes : List RemoteLane) (dests : List Reg) (width : Nat) (sx : Bool)
  | atomic (r : PathRef) (pend lane : Nat) (dests : List Reg) (va : DWord)
  | atomicNoReply (cluster asid : Nat)
  | copy (cluster id : Nat)
  | waitAddr (r : PathRef)
  | migrate
  | launch (uid : Option Nat)
  deriving DecidableEq, Repr

/-- An outstanding remote request (R404). -/
structure RemoteReq where
  id   : Nat
  peer : Nat
  line : Nat
  sectors : BitVec 4
  port : Nat
  core : Nat
  txn  : Nat
  use  : RemoteUse
  deriving DecidableEq, Repr

/-- A write packet that awaits its acknowledgement (R402, R404, R413); `kind` is 0 for a notify write, 1 for a release
store, 2 for a copy, 3 for a page on its way to a peer (R376). -/
structure OutWrite where
  id      : Nat
  peer    : Nat
  line    : Nat
  port    : Nat
  kind    : Nat
  core    : Nat
  train   : Nat
  txn     : Nat
  paths   : List Nat
  holders : List Nat
  shver   : Option (Nat × Word)
  deriving DecidableEq, Repr

/-- A multicast in flight (R417, R418): `after` holds the accesses of its path that its read waits for (R274). -/
structure McstOp where
  id     : Nat
  train  : Nat
  who    : PathRef
  crew   : CrewRef
  asid   : Nat
  group  : Nat
  src    : DWord
  off    : Nat
  block  : DWord
  obj    : Option Nat
  port   : Nat
  after  : List Nat
  sent   : Bool
  atPage : Bool
  deriving DecidableEq, Repr

/-- The notify of one STN that has begun to arrive here (R413-R415): its item, whether every packet so far was applied, the line
of the latest, and the answer that the STN is to have. -/
structure NotifyIn where
  src  : Nat
  stn  : Nat
  tag  : Nat
  asid : Nat
  list : Nat
  item : DWord
  ok   : Bool
  last : Bool
  all  : Bool
  line : Nat
  answer : RemoteOutcome
  deriving DecidableEq, Repr

/-- The state of a group's view (R440). -/
inductive ViewState where
  | unbound | stable | changing | joining
  deriving DecidableEq, Repr

/-- A result that a COLL has yet to write: the tag and the live ranks of its view, its failure, and the bytes it receives
with their offsets, none where it has no bytes of a stated value. -/
structure CollResult where
  tag   : Nat
  nlive : Nat
  fail  : Option (Nat × DWord)
  parts : Option (List (Nat × List Byte))
  deriving DecidableEq, Repr

/-- A COLL in progress (R430): its parameters, where it has come to, the accesses of its path that its read waits for
(R274), its own failure, what it has sent, a result that it has yet to write, the receive bytes of an all-gather as it found them
(R436), and where its send bytes lie: offset, key and length of each part (R430). -/
structure CollOp where
  id      : Nat
  train   : Nat
  who     : PathRef
  crew    : CrewRef
  asid    : Nat
  kind    : Nat
  red     : Nat
  ty      : Nat
  send    : DWord
  recv    : DWord
  count   : Nat
  root    : Nat
  block   : DWord
  obj     : Option Nat
  txn     : Nat
  seq     : Nat
  tag     : Nat
  started : Bool
  sent    : Bool
  after   : List Nat
  atPage  : Bool
  failed  : Option (Nat × DWord)
  mine    : Option CollSend
  result  : Option CollResult
  was     : List (Option Byte)
  keys    : List (Nat × Nat × Nat)
  deriving DecidableEq, Repr

/-- A collective group on this package (R426, R427, R435, R440). `arrPhase` counts the FBAR phases whose arrival is due
or sent, `phase` those released, `held` the arrivals that wait for a JOIN (R438), and `gone` holds the paths of saved crews whose
phase was discarded, with the cause and the TRAPADDR that they are to trap with (R434, R443). -/
structure Group where
  id       : Nat
  m        : Nat
  rank     : Nat
  asid     : Nat
  dgrp     : Nat
  policy   : Nat
  fbexp    : Nat
  spread   : Nat
  view     : ViewState
  tag      : Nat
  live     : List Bool
  seq      : Nat
  colls    : List CollOp
  arrivals : Nat
  held     : Nat
  arrPhase : Nat
  phase    : Nat
  gone     : List (Nat × Nat × DWord)
  proposed : Nat
  propMask : List Bool
  leader   : Nat
  acks     : List Nat
  lost     : List Nat
  ackedAt  : Option Nat
  joiner   : Option (Nat × Bool)
  deriving DecidableEq, Repr

/-- What the package sends: packets of the fabric (Table Fabric packets), group messages, and control frames. -/
inductive OutMsg where
  | readReq (peer port id line : Nat) (sectors : BitVec 4)
  | readResp (peer tag : Nat) (outcome : RemoteOutcome) (data : List Byte)
  | write (peer port id line : Nat) (mask : BitVec 256) (data : List Byte)
  | writeAck (peer tag : Nat) (outcome : RemoteOutcome)
  | atomicReq (peer port id line : Nat) (op width ty : Nat) (addr : Nat) (b c : DWord) (rmode : Nat) (ftz : Bool)
      (draw : BitVec 24) (noReply : Bool) (asid : Nat)
  | atomicResp (peer tag : Nat) (outcome : RemoteOutcome) (old : DWord)
  | notify (peer port id stn line : Nat) (mask : BitVec 256) (data : List Byte) (list tag : Nat) (last : Bool)
  | multicast (group port id : Nat) (off : Nat) (data : List Byte)
  | memberAck (tag : Nat) (code : BitVec 2)
  | contribution (group seq tag : Nat) (x : CollSend)
  | fbarArrival (group tag : Nat)
  | propose (group tag : Nat) (mask : List Bool)
  | ack (group tag leader : Nat)
  | nack (group tag leader : Nat) (lost : List Nat)
  | commit (group tag : Nat) (mask : List Bool) (nextSeq : Nat)
  | join (group rank : Nat)
  | intentG (group : Nat) (ts : DWord) (watts : Nat)
  | push (lane seq off : Nat) (data : List Byte)
  | frameAck (lane seq : Nat)
  | frameNak (lane seq : Nat)
  deriving DecidableEq, Repr

/-- A fabric port (R396, R398): whether its link is up and since when it has been down. -/
structure Port where
  up     : Bool
  downAt : Nat
  failed : Bool
  deriving DecidableEq, Repr

/-- How far start-up has come (R392). -/
inductive Boot where
  | off | held | recovery | running
  deriving DecidableEq, Repr

/-- The control port and the conductor's rings (R386, R389, R391); `awake` tells that a doorbell has woken the
conductor, `waits` that it is parked at a page; `owed` is the answer that it gives once its TLBI has completed (R239); `forms` are the
old forms of records written again before they are consumed, where the old form is the one that is handled (R389). -/
structure Control where
  expect : List Nat
  nextSeq : List Nat
  unacked : List (Nat × Nat × Nat × List Byte)
  errors : Nat
  errLog : Option (Nat × Nat)
  ctxBase : Nat
  drops  : Nat
  held   : List (List Byte)
  iface  : Word
  awake  : Bool
  waits  : Bool
  owed   : Option (Nat × Nat × List Byte)
  forms  : List (Nat × List Byte)
  got    : List PeerGot
  deriving DecidableEq, Repr

/-- A page on its way to or from a peer (R376): the message that asked for it, the page's ASID and address, the key of
its leaf and the leaf as recorded, its size in bits, the leaf it is to have, the lines of a peer received so far, and the
failure. -/
structure Migration where
  seq   : Nat
  asid  : Nat
  va    : DWord
  leafK : Nat
  old   : Nat
  bits  : Nat
  new   : Nat
  got   : List (Nat × List Byte)
  sent  : Bool
  fail  : Option Nat
  deriving DecidableEq, Repr

/-- How a write stands in the order (R321, R323): a lane's store, sequenced or relaxed, by the path of a number; an atomic's, which
performs with its read, for paths of some numbers (R328); another agent's relaxed write; or one with each of its bytes written
singly, as the copy and matrix engines write. -/
inductive WriteKind where
  | lane (seqd : Bool) (uid : Nat)
  | update (uids : List Nat)
  | relaxed | singly
  deriving DecidableEq, Repr

/-- A write of the package (R324): its number in coherence order, its TIME, its key, the bytes that stood there before, how it
stands in the order, the paths among whose earlier accesses it counts, and the points of the logical order between which it
performs: no earlier than `lo`, no later than `hi` where that is settled (R327). -/
structure Past where
  point : Nat
  time  : Nat
  key   : Nat
  old   : List Byte
  kind  : WriteKind
  paths : List Nat
  lo    : Nat
  hi    : Option Nat
  deriving DecidableEq, Repr

/-- A TLBI that has dropped its translations and waits for the accesses that used them (R239): its issuer, none for the
conductor, what it covers, the cores in its scope, and the accesses, by their numbers. -/
structure Shootdown where
  who   : Option PathRef
  asid  : Option Nat
  va    : Option DWord
  cores : List Nat
  left  : List Nat
  deriving DecidableEq, Repr

/-- The whole package. `image` stands for the digests of the images that start-up loaded, and `signed` counts the identity key's
signatures (R392). `portQ` holds the packets that wait at the ports of a die whose bucket is at its floor, with their port
and flits (R362). `rate` is P and `bank` the charge of the capacitor banks, both in tokens: of a step of 1 µs, and in
all (R378, R382). `mem` holds package-local bytes at keys below 2^52, CXL-tier bytes at 2^52 and above, and
the control window at 2^53 and above; `past` holds the writes of the last 8,192 ns, newest first, and `point` the present of
the logical order (R324, R329); `sel`, `agenda` and `free` are this model's own: the path that the last
ISSUE_CYCLE chose, the steps to come, and the counter of free values. -/
structure State where
  cores    : List Core
  clusters : List Cluster
  dies     : List Die
  mem      : List Host.Cell
  past     : List Past
  point    : Nat
  knows    : List Known
  shoots   : List Shootdown
  poison   : List Nat
  latent   : List Nat
  l1       : List L1Sector
  correct  : List Nat
  logged   : List Nat
  time     : Nat
  boot     : Boot
  image    : Nat
  signed   : Nat
  ctxs     : List AsidCtx
  shardVer : List (Nat × Word)
  launches : List Launch
  crews    : List Crew
  nextCl   : Nat
  lists    : List WorkList
  saved    : List SavedCrew
  faults   : List FaultRec
  nmcs     : List NmcCmd
  thrash   : List Thrash
  migCtl   : Word
  rampset  : Word
  rate     : Nat
  gov      : GovState
  bank     : Nat
  govAt    : Nat
  badLanes : List (Nat × Nat)
  remapped : List (Nat × Nat)
  migration : Option Migration
  intents  : List Intent
  feature0 : Word
  pkgId    : Nat
  tier     : List Nat
  routes   : List (Nat × Word)
  groupRoutes : List (Nat × Word)
  fabCtl   : Word
  ports    : List Port
  remotes  : List RemoteReq
  outWrites : List OutWrite
  mcsts    : List McstOp
  notifies : List NotifyIn
  groups   : List Group
  meddled  : List (Nat × Nat)
  applying : List (Nat × Nat × List Byte)
  control  : Control
  outbox   : List OutMsg
  portQ    : List (Nat × Nat × OutMsg)
  nextId   : Nat
  free     : Nat
  sel      : Option PathRef
  agenda   : List Instr
  deriving DecidableEq, Repr

/-- Why a step stops. -/
inductive Fault where
  /-- An instruction was given to `exec` while no path is selected to issue it. Safe: the model stops. -/
  | noIssuer
  /-- The step of an agent was given to `exec` in a state in which that step cannot occur. Safe: it stops. -/
  | notEnabled
  /-- The package has no power or no valid image, so nothing issues (R392). Safe: it stops. -/
  | notRunning
  deriving DecidableEq, Repr

/-- Why an instruction has no meaning here. -/
inductive Refusal where
  /-- An instruction whose meaning is not written yet, by name. Safe: it stops. -/
  | notModelled (mnemonic : String)
  deriving DecidableEq, Repr

/-- An invalid activation bank (R112). -/
def ActBank.reset : ActBank := ⟨false, 0, 0, 0, 0, 0, 0, List.replicate 64 (0, 0, 0)⟩

/-- A core at reset: no train, no tokens, band 0, sampling off with K = 8 (R201, R202, R212). -/
def Core.reset : Core where
  slots := List.replicate 12 none
  lastEnd := List.replicate 12 none
  trackers := List.replicate 8 none
  actBanks := [ActBank.reset, ActBank.reset]
  actCur := 0
  tabld := none
  ftab := none
  balance := 0
  allot := 0
  band := 0
  raising := false
  bandMax := 0
  renewIn := 512
  heavy := []
  pipes := [0, 0, 0]
  sfu := 0
  banksTo := 0
  cycle := 0
  resv := none
  txResv := none
  txns := []
  sampctl := 16
  sampSlot := 0
  sampIn := 0
  issued := none
  ring := none
  tlb := []
  upper := []
  constants := []
  tiles := []
  icache := []
  wc := []
  tender := []
  iss := 0
  isl := 0
  mem := 0
  winEnd := 100000
  relock := false
  svcWait := 0
  gated := false

/-- A free accumulator holding +0 (R258). -/
def Acc.reset : Acc := ⟨none, List.replicate 96 (List.replicate 128 0)⟩

/-- A pair at reset: accumulators free, latch invalid (R258, R264). -/
def Pair.reset : Pair where
  queue := []
  accs := List.replicate 8 Acc.reset
  latch := ⟨false, ⟨0, 0⟩, 0, 0, List.replicate 96 (List.replicate 128 0), List.replicate 96 (List.replicate 8 0)⟩

/-- A cluster at reset: CURBUD 40, clock policy 64, 192, 4, 8, AUTO (R315, R318). -/
def Cluster.reset : Cluster where
  scratch := []
  unfenced := []
  allocs := []
  stash := []
  svc := []
  monitors := []
  curbud := 40
  sbq := []
  policy := 0x0184C040
  ratio := 0x00888888
  gate := .on
  idleFrom := some 0
  rosters := []
  copies := []
  bufs := List.replicate 8 none
  pairs := List.replicate 3 Pair.reset
  sampler := []
  cycle := 0

/-- A die at reset: CORESHARE 224, GATEDLY 20, GATEEN 1, F = 21, DAYS 0xFFFF (R364, R385, R394). -/
def Die.reset : Die where
  bucket := 0
  rd := 0
  rot := 0
  power := 0x010014E0
  clock := 21
  spent := 0
  paidIn := 0
  owed := 0
  share := 0
  below := 0
  hints := []
  scrubAt := 0
  ageind := 0xFFFF0000
  stretched := 0

/-- The package right after reset, before the boot ROM has run: no image loaded, nothing resident, memory with
nothing listed, P at 400 W (R378), RAMPSET 80, 1,000, 100, 1 (R380), migration control 8, 10, 100 (R377). A field with no
stated value is 0 (DESIGN CHOICE, unsafe: log entry 3). -/
def State.reset : State where
  cores := List.replicate 288 Core.reset
  clusters := List.replicate 48 Cluster.reset
  dies := List.replicate 4 Die.reset
  mem := []
  past := []
  point := 0
  knows := []
  shoots := []
  poison := []
  latent := []
  l1 := []
  correct := []
  logged := []
  time := 0
  boot := .held
  image := 0
  signed := 0
  ctxs := []
  shardVer := []
  launches := []
  crews := []
  nextCl := 0
  lists := []
  saved := []
  faults := []
  nmcs := []
  thrash := []
  migCtl := 0x00640A08
  rampset := 0x1193E850
  rate := 400000000
  gov := .steady
  bank := 0
  govAt := 0
  badLanes := []
  remapped := []
  migration := none
  intents := []
  feature0 := 0
  pkgId := 0
  tier := []
  routes := []
  groupRoutes := []
  fabCtl := 8
  ports := List.replicate 16 ⟨false, 0, false⟩
  remotes := []
  outWrites := []
  mcsts := []
  notifies := []
  groups := []
  meddled := []
  applying := []
  control := ⟨[0, 0], [0, 0], [], 0, none, 0, 0, [], 0, false, false, none, [], []⟩
  outbox := []
  portQ := []
  nextId := 0
  free := 0
  sel := none
  agenda := []

end Sys2Proof.Machine
end

