-- ==== Sys2Proof/Machine/Ops.lean ====
section
/-! DEFINITION. The named operations over the state that the meanings share: access to cores, trains and paths; memory,
poison and the write masks of the L1s; address translation; page-fault records; the life of a path; taking a trap, the
return from one, kills and the end of a train. -/
namespace Sys2Proof.Machine

/-- What a meaning answers. -/
abbrev Out := Host.Outcome State Fault Refusal

/-! ## Access to parts of the state -/

/-- Core `n` of the package. -/
def coreAt (s : State) (n : Nat) : Core := nth Core.reset s.cores n
/-- Change of one core. -/
def modCore (s : State) (n : Nat) (f : Core → Core) : State := { s with cores := updAt s.cores n f }
/-- Cluster `n` of the package. -/
def clusterAt (s : State) (n : Nat) : Cluster := nth Cluster.reset s.clusters n
/-- Change of one cluster. -/
def modCluster (s : State) (n : Nat) (f : Cluster → Cluster) : State := { s with clusters := updAt s.clusters n f }
/-- Die `n` of the package. -/
def dieAt (s : State) (n : Nat) : Die := nth Die.reset s.dies n
/-- Change of one die. -/
def modDie (s : State) (n : Nat) (f : Die → Die) : State := { s with dies := updAt s.dies n f }
/-- The cluster of a core (R39). -/
def clusterOf (core : Nat) : Nat := core / 6
/-- The die of a core (R39). -/
def dieOf (core : Nat) : Nat := core / 72
/-- The matrix pair of a core (R254). -/
def pairOf (core : Nat) : Nat := core / 2
/-- The train of a slot, where it holds one. -/
def trainAt (s : State) (core slot : Nat) : Option Train := nth none (coreAt s core).slots slot
/-- A slot's content. -/
def setTrain (s : State) (core slot : Nat) (t : Option Train) : State :=
  modCore s core fun c => { c with slots := updAt c.slots slot fun _ => t }
/-- Change of one train. -/
def modTrain (s : State) (core slot : Nat) (f : Train → Train) : State :=
  modCore s core fun c => { c with slots := updAt c.slots slot (Option.map f) }
/-- The path table that is in use: the train's own, or the handler's (R177). -/
def pathsOf (t : Train) (handler : Bool) : List (Option Path) :=
  if handler then (match t.handler with | some h => h.paths | none => []) else t.paths
/-- A train with another path table. -/
def withPaths (t : Train) (handler : Bool) (ps : List (Option Path)) : Train :=
  if handler then { t with handler := t.handler.map fun h => { h with paths := ps } } else { t with paths := ps }
/-- The path that a reference names. -/
def pathAt (s : State) (r : PathRef) : Option Path :=
  match trainAt s r.core r.slot with
  | some t => nth none (pathsOf t r.handler) r.entry
  | none => none
/-- Change of one path. -/
def modPath (s : State) (r : PathRef) (f : Path → Path) : State :=
  modTrain s r.core r.slot fun t =>
    withPaths t r.handler (updAt (pathsOf t r.handler) r.entry (Option.map f))
/-- The live paths of a table with their entries. -/
def livePaths (ps : List (Option Path)) : List (Nat × Path) :=
  (ps.zipIdx).filterMap fun (o, i) => o.map fun p => (i, p)
/-- A number that nothing in the package has used yet, and the state that has used it. -/
def fresh (s : State) : Nat × State := (s.nextId, { s with nextId := s.nextId + 1 })
/-- A free value, and the state that has drawn it. -/
def drawFree (s : State) : Word × State := (Config.freeWord s.free, { s with free := s.free + 1 })

/-! ## Memory -/

/-- Keys of the CXL tier's physical space begin here. -/
def tierBase : Nat := 2 ^ 52
/-- Keys of the control window begin here (R386). -/
def ctlBase : Nat := 2 ^ 53
/-- The byte at a key; a byte that is not listed reads as 0 (DESIGN CHOICE, unsafe: log entry 1). -/
def memRead (m : List Host.Cell) (k : Nat) : Byte :=
  match m with
  | [] => 0
  | (a, b) :: r => if a == k then b else if k < a then 0 else memRead r k
/-- The memory with one byte written; writing 0 removes the entry. -/
def memWrite (m : List Host.Cell) (k : Nat) (v : Byte) : List Host.Cell :=
  match m with
  | [] => if v == 0 then [] else [(k, v)]
  | (a, b) :: r =>
    if a < k then (a, b) :: memWrite r k v
    else if a == k then (if v == 0 then r else (k, v) :: r)
    else if v == 0 then (a, b) :: r else (k, v) :: (a, b) :: r
/-- The canonical form: keys strictly rising and no byte equal to 0. -/
def cellsWf (m : List Host.Cell) : Bool :=
  match m with
  | [] => true
  | (a, b) :: r => b != 0 && (match r with | [] => true | (c, _) :: _ => decide (a < c)) && cellsWf r
/-- `n` bytes from a key on. -/
def memBytes (m : List Host.Cell) (k n : Nat) : List Byte := (List.range n).map fun i => memRead m (k + i)
/-- The memory with bytes written from a key on. -/
def memPut (m : List Host.Cell) (k : Nat) (bs : List Byte) : List Host.Cell :=
  match bs with
  | [] => m
  | b :: r => memPut (memWrite m k b) (k + 1) r
/-- A little-endian number of bytes (R5). -/
def leNat (bs : List Byte) : Nat :=
  match bs with
  | [] => 0
  | b :: r => b.toNat + 256 * leNat r
/-- The `n` little-endian bytes of a number. -/
def leBytes (n x : Nat) : List Byte :=
  match n with
  | 0 => []
  | k + 1 => BitVec.ofNat 8 x :: leBytes k (x / 256)
/-- A little-endian number of `n` bytes in memory. -/
def memLe (m : List Host.Cell) (k n : Nat) : Nat := leNat (memBytes m k n)
/-- Bytes from an offset of a byte list, as a little-endian number. -/
def leAt (bs : List Byte) (off n : Nat) : Nat := leNat ((bs.drop off).take n)
/-- The 64-byte granule of a key (R243, R369). -/
def granuleOf (k : Nat) : Nat := k / 64
/-- The 256-byte line of a key. -/
def lineOf (k : Nat) : Nat := k / 256
/-- The granules that `n` bytes from a key touch. -/
def granulesOf (k n : Nat) : List Nat :=
  if n == 0 then [] else (List.range ((k + n - 1) / 64 - k / 64 + 1)).map fun i => k / 64 + i
/-- The bytes of the CXL tier (R370). -/
def tierSize (s : State) : Nat := s.tier.foldl (· + ·) 0
/-- Whether physical bytes exist: within the stacks, or within the tier (R367, R370). -/
def physOk (s : State) (k n : Nat) : Bool :=
  if k < tierBase then k + n ≤ 0x9000000000 else k < ctlBase && k - tierBase + n ≤ tierSize s
/-- The cluster that owns a line (R295). -/
def ownerCluster (k : Nat) : Nat :=
  let pa := k % 2 ^ 52
  (bitsOf pa 19 8 ^^^ bitsOf pa 31 20 ^^^ bitsOf pa 43 32 ^^^ bitsOf pa 51 44) % 48

/-- The mapped chunk that holds a global byte (R289). -/
def chunkOfKey (s : State) (k : Nat) : Option (Nat × StashChunk) :=
  (s.clusters.zipIdx).findSome? fun (x, i) =>
    if x.stash.isEmpty then none else (x.stash.find? fun ch => ch.key ≤ k && k < ch.key + 4096).map fun ch => (i, ch)

/-- The cluster whose service train owns a line: the stashing one, or that of R295. -/
def ownerOf (s : State) (k : Nat) : Nat :=
  match chunkOfKey s k with
  | some (cl, _) => cl
  | none => ownerCluster k

/-- A message to the outside is appended to what the package has sent. -/
def send (s : State) (m : OutMsg) : State := { s with outbox := s.outbox ++ [m] }

/-- A unit draws tokens from a die bucket, down to its floor; what the floor leaves undrawn is owed until the balance rises (R207,
R362). -/
def dieDraw (s : State) (die n : Nat) : State :=
  modDie s die fun d => { d with
    bucket := max (-(2 ^ 26 : Int)) (d.bucket - n), spent := d.spent + n,
    owed := d.owed + (-(2 ^ 26 : Int) - (d.bucket - n)).toNat }

/-- Whether a die's bucket stands above its floor, so that a unit need not wait with its work (R362). -/
def unitPaid (s : State) (die : Nat) : Bool := (dieAt s die).bucket > -(2 ^ 26 : Int)

/-- Whether nothing is owed for the work of a die's units, which waits otherwise (R362). -/
def workPaid (s : State) (die : Nat) : Bool := (dieAt s die).owed == 0

/-- The die that homes a key's line: the stack's quarter, or the tier's interleave (R367, R384). -/
def homeDie (k : Nat) : Nat := if k < tierBase then (k / 256) % 12 / 3 else (k / 256) % 4

/-- What the home of a granule draws for 64 bytes read or written there (R207): the CXL tier's price, or a Vollum stack's where
the last-level cache must go to the stack, which the specification does not settle. -/
def drawHome (s : State) (g : Nat) : State :=
  if g * 64 ≥ tierBase then dieDraw s (homeDie (g * 64)) 2600
  else
    let (w, s) := drawFree s
    dieDraw s (homeDie (g * 64)) (if w.getLsbD 0 then 1300 else 0)

/-- The mark of a performed write on every WAITADDR waiter of its lines (R307). -/
def wakeWaiters (s : State) (k n : Nat) : State :=
  let lines := lineOf k :: (if lineOf (k + n - 1) == lineOf k then [] else [lineOf (k + n - 1)])
  lines.foldl (fun s line =>
    ((clusterAt s (ownerCluster (line * 256))).monitors.filter fun m => m.line == line).foldl (fun s m =>
      modPath s m.who fun p =>
        match p.wake with
        | some (.waitAddr va pa c w e d t a _ l) => { p with wake := some (.waitAddr va pa c w e d t a true l) }
        | _ => p) s) s

/-- The line of a separately cached route after a write of its bytes: a read may return what they held at its fill or any
later value (R250). -/
def noteLater (m : List Host.Cell) (k n : Nat) (x : RouteLine) : RouteLine :=
  if k / 64 ≤ x.line && x.line ≤ (k + n - 1) / 64 then { x with later := memBytes m (x.line * 64) 64 :: x.later } else x

/-- The separately cached routes after a write (R220, R250). -/
def noteRoutes (s : State) (k n : Nat) : State :=
  let f (l : List RouteLine) : List RouteLine := l.map (noteLater s.mem k n)
  { s with
    cores := s.cores.map fun c => if c.constants.isEmpty && c.tiles.isEmpty && c.icache.isEmpty then c else
      { c with constants := f c.constants, tiles := f c.tiles, icache := f c.icache }
    clusters := s.clusters.map fun c => if c.sampler.isEmpty then c else { c with sampler := f c.sampler } }

/-- How long, in ns of TIME, a write may still be missed by a read (R329). -/
def visibleIn : Nat := 4096

/-- Whether a write touches some of `n` bytes from a key on. -/
def Past.touches (k n : Nat) (x : Past) : Bool := x.key < k + n && k < x.key + x.old.length

/-- Writes that satisfy a test and whose place in the logical order is open have performed by now (R327, R328). -/
def settleWrites (s : State) (test : Past → Bool) : State :=
  let mine (x : Past) : Bool := x.hi.isNone && test x
  let now := (s.past.filter mine).foldl (fun m x => max m (x.lo + 1)) s.point
  { s with point := now, past := s.past.map fun x => if mine x then { x with hi := some (now - 1) } else x }

/-- The writes of a path have performed: before a release, a fence, and whatever waits for its earlier accesses (R328, R332). -/
def settlePath (s : State) (uid : Nat) : State := settleWrites s fun x => x.paths.contains uid

/-- The writes on some bytes have performed: another agent reads or writes them (R324). -/
def settleBytes (s : State) (k n : Nat) : State := settleWrites s fun x => x.touches k n

/-- Whether a write is a sequenced one of a path. -/
def Past.seqOf (uid : Nat) (x : Past) : Bool :=
  match x.kind with | .lane true _ => x.paths.contains uid | _ => false

/-- A write enters the package's logical order (R324-R327): `old` are the `n` bytes from `k` on that it replaces. The writes that
it follows in coherence order have performed, and where it is sequenced those of its path that are sequenced. A store of a lane
may still be passed by later accesses of its path; any other write performs now. -/
def notePast (s : State) (kind : WriteKind) (k : Nat) (old : List Byte) : State :=
  let seqd (x : Past) : Bool := match kind with | .lane true u => x.seqOf u | _ => false
  let s := settleWrites s fun x => x.touches k old.length || seqd x
  let (paths, hi) : List Nat × Option Nat := match kind with
    | .lane _ u => ([u], none)
    | .update l => (l, some s.point)
    | _ => ([], some s.point)
  { s with
    point := s.point + 1,
    past := ⟨s.point, s.time, k, old, kind, paths, s.point, hi⟩ ::
      s.past.takeWhile fun x => s.time < x.time + 2 * visibleIn }

/-- A write to bytes that queued matrix operations of the crew may read (R267). -/
def dirtyOps (s : State) (cl : Nat) (crew : CrewRef) (off n : Nat) (omit_ : MatOp → Bool) : State :=
  if (clusterAt s cl).pairs.all fun p => p.queue.isEmpty then s
  else modCluster s cl fun k => { k with pairs := k.pairs.map fun p => { p with queue := p.queue.map fun o =>
    if o.crew == crew && !(omit_ o) then { o with dirty := (off, n) :: o.dirty } else o } }

/-- A write to a crew's scratchpad over some bytes, which operations may not yet see (R266, R267). -/
def noteWrite (s : State) (cl : Nat) (x : Unfenced) : State := modCluster s cl fun k => { k with unfenced := x :: k.unfenced }

/-- The writes that a test picks are complete, or fenced, from the present point on (R267). -/
def sealAll (s : State) (mine : Unfenced → Bool) : State :=
  let mark (x : Unfenced) : Unfenced := if mine x && x.fence.isNone then { x with fence := some s.point } else x
  let all (k : Cluster) : Cluster := if k.unfenced.isEmpty then k else { k with unfenced := k.unfenced.map mark }
  { s with clusters := s.clusters.map all }

/-- The train of a path. -/
def trainOfPath (s : State) (uid : Nat) : Option Nat :=
  s.cores.findSome? fun k => k.slots.findSome? fun o => o.bind fun t =>
    if (livePaths t.paths).any (fun (_, p) => p.uid == uid) || (livePaths (pathsOf t true)).any (fun (_, p) => p.uid == uid) then
      some t.uid
    else none

/-- Who makes a write of some standing: none for an engine, which tells so itself (R267). -/
def writerOf (s : State) (kind : WriteKind) : Option Writer :=
  let train (uid : Nat) : Writer := match trainOfPath s uid with | some t => .store t | none => .other
  match kind with
  | .lane _ uid => some (train uid)
  | .update (uid :: _) => some (train uid)
  | .update [] | .relaxed => some .other
  | .singly => none

/-- Bytes of a crew's scratchpad are written over those that stood there, but for an engine's (R267). -/
def noteOver (s : State) (kind : WriteKind) (cl : Nat) (crew : CrewRef) (off : Nat) (old : List Byte) : State :=
  match writerOf s kind with
  | none => s
  | some w => noteWrite (dirtyOps s cl crew off old.length fun _ => false) cl ⟨crew, w, off, old, none⟩

/-- Bytes of a stashed line are written over those that stood there (R267, R289). -/
def noteStash (s : State) (kind : WriteKind) (k n : Nat) : State :=
  match chunkOfKey s k with
  | none => s
  | some (cl, ch) => noteOver s kind cl ch.crew (ch.off + (k - ch.key)) (memBytes s.mem k n)

/-- The send bytes of COLLs that a write changes, by operation and offset (R430). -/
def sendHits (s : State) (m : List Host.Cell) (k n : Nat) : List (Nat × Nat) :=
  (s.groups.flatMap (·.colls)).flatMap fun o => o.keys.flatMap fun (off, key, len) =>
    ((List.range n).filter fun i => key ≤ k + i && k + i < key + len && memRead m (k + i) != memRead s.mem (k + i)).map
      fun i => (o.id, off + (k + i - key))

/-- A write lands: `m` is the memory with it, and `n` bytes from `k` on are what it writes (R324). -/
def landMem (s : State) (kind : WriteKind) (m : List Host.Cell) (k n : Nat) : State :=
  wakeWaiters (noteRoutes { notePast (noteStash s kind k n) kind k (memBytes s.mem k n) with
    mem := m, meddled := sendHits s m k n ++ s.meddled } k n) k n

/-! ### What is known of OPFENCEs and completions (R267, R334) -/

/-- A number with its point joins what is known. -/
def putKnow (l : List (Nat × Nat)) (x : Nat × Nat) : List (Nat × Nat) :=
  if l.any fun y => y.1 == x.1 then l.map fun y => if y.1 == x.1 then (y.1, max y.2 x.2) else y else l ++ [x]
/-- What is known in two places together. -/
def joinKnow (a b : List (Nat × Nat)) : List (Nat × Nat) := b.foldl putKnow a

/-- What a place passes on. -/
def knownAt (s : State) (place : Nat) : Known := (s.knows.find? fun x => x.place == place).getD ⟨place, [], []⟩
/-- Change of what a place passes on. -/
def modKnown (s : State) (place : Nat) (f : Known → Known) : State :=
  { s with knows := f (knownAt s place) :: s.knows.filter fun x => x.place != place }

/-- A path learns at the end of its wait what a place passes on, beside what it has waited for. -/
def learnPath (k : List (Nat × Nat)) (p : Path) : Path := { p with seen := joinKnow p.seen k }

/-- A ring's next record slot, none where it is full (R391): the key of the record. -/
def ringSlot (m : List Host.Cell) (base size recBytes : Nat) : Option Nat :=
  let head := memLe m base 4
  let tail := memLe m (base + 4) 4
  if size == 0 || (head + 2 ^ 32 - tail) % 2 ^ 32 ≥ size then none else some (base + 64 + recBytes * (head % size))
/-- A record appended to a ring that the device fills (R391); none where it is full. -/
def ringPush (m : List Host.Cell) (base size : Nat) (rec_ : List Byte) : Option (List Host.Cell) :=
  match ringSlot m base size rec_.length with
  | none => none
  | some k =>
    let m := memPut m k rec_
    some (memPut m base (leBytes 4 ((memLe m base 4 + 1) % 2 ^ 32)))

/-- OFF of a PUSH of a ring's record: the ring's number above its record's index (R386). Where the two stand in OFF the specification
does not give (DESIGN CHOICE: log entry 109). -/
def pushOff (ring index : Nat) : Nat := ring * 2 ^ 32 + index
/-- The error log's number (R388). -/
def errLogRing : Nat := 0x2000

/-- The next frame on a control lane, which PUSHes bytes to the host (R386). -/
def pushFrame (s : State) (lane off : Nat) (data : List Byte) : State :=
  let q := nth 0 s.control.nextSeq lane
  send { s with control := { s.control with
    nextSeq := updAt s.control.nextSeq lane fun _ => (q + 1) % 2 ^ 32,
    unacked := s.control.unacked ++ [(lane, q, off, data)] } } (.push lane q off data)

/-- The stack of a local key, as the error log names it, or the port of a tier key (R367, R369, R370). -/
def errSource (s : State) (k : Nat) : Nat :=
  if k < tierBase then (k / 256) % 12
  else
    let pa := k - tierBase
    let pops := (s.tier.zipIdx).filter fun (c, _) => c != 0
    match pops with
    | [] => 12
    | (c0, _) :: _ =>
      if pops.all fun (c, _) => c == c0 then 12 + (nth (0, 0) pops ((pa / 4096) % pops.length)).2
      else
        let hit := pops.foldl (fun (acc : Nat × Option Nat) (c, p) =>
          (acc.1 + c, if acc.2.isNone && pa < acc.1 + c then some p else acc.2)) (0, none)
        12 + hit.2.getD 0
/-- The channel of a local key, 0 for the tier. -/
def errDetail (k : Nat) : Nat := if k < tierBase then (k / 256 / 12) % 128 else 0

/-- The bytes of a record of the package error log (R369). -/
def errRecord (s : State) (pa kind source detail asid : Nat) : List Byte :=
  leBytes 8 s.time ++ leBytes 8 pa ++ leBytes 1 kind ++ leBytes 1 source ++ leBytes 2 detail ++ leBytes 4 asid ++ leBytes 8 0

/-- The record of an uncorrectable error in a granule (R369, R370). -/
def foundRecord (s : State) (asid g : Nat) : List Byte :=
  errRecord s ((g * 64) % 2 ^ 52) (if g * 64 < tierBase then 0 else 4) (errSource s (g * 64)) (errDetail (g * 64)) asid

/-- A latent uncorrectable error is found: the granule becomes poisoned, and its finding is noted as logged (R369). -/
def markFound (s : State) (g : Nat) : State :=
  { s with
    latent := s.latent.filter (· != g), poison := if s.poison.contains g then s.poison else g :: s.poison,
    logged := if s.logged.contains g then s.logged else g :: s.logged }

/-- One more lost record of the error log (R391). -/
def countLost (s : State) : State := { s with control := { s.control with drops := min (s.control.drops + 1) (2 ^ 32 - 1) } }

/-- A record of the package error log: appended to the ring and pushed, held before the ring is placed, or dropped and counted
(R391). The granules that it covers in part are merged, and an uncorrectable error met there is found in its turn, as many times
as there are latent errors at most (R369). -/
def logRecord (rec_ : List Byte) (s : State) : Nat → State
  | 0 => s
  | fuel + 1 =>
    match s.control.errLog with
    | none =>
      if s.control.held.length < 64 then { s with control := { s.control with held := s.control.held ++ [rec_] } }
      else countLost s
    | some (base, size) =>
      let touched (s : State) (gs : List Nat) : State :=
        (gs.filter s.latent.contains).foldl (fun s g =>
          let again := s.logged.contains g
          let r := foundRecord s 0xFFFFFFFF g
          if again then markFound s g else logRecord r (markFound s g) fuel) s
      match ringSlot s.mem base size rec_.length, ringPush s.mem base size rec_ with
      | some k, some m =>
        let i := memLe s.mem base 4 % size
        touched (pushFrame (landMem s .relaxed m base 8) 0 (pushOff errLogRing i) rec_) (uniq (granulesOf k rec_.length ++ [granuleOf base]))
      | _, _ =>
        let s := countLost s
        touched { s with mem := memPut s.mem (base + 8) (leBytes 4 s.control.drops) } [granuleOf base]

/-- An entry in the package error log (R369, R391). -/
def logError (s : State) (pa kind source detail asid : Nat) : State :=
  logRecord (errRecord s pa kind source detail asid) s (s.latent.length + 1)

/-- A demand access finds a latent uncorrectable error: the granule becomes poisoned and the finding is logged once
(R369). -/
def findError (s : State) (asid g : Nat) : State :=
  if s.logged.contains g then markFound s g
  else logRecord (foundRecord s asid g) (markFound s g) (s.latent.length + 1)

/-- Bytes of a granule reach its home: a whole granule clears poison and a latent error; part of a granule with a
latent error is merged by a demand read (R243, R369). -/
def homeMask (s : State) (asid g : Nat) (mask : BitVec 64) : State :=
  let s := drawHome s g
  if mask == BitVec.allOnes 64 then
    { s with poison := s.poison.filter (· != g), latent := s.latent.filter (· != g),
             logged := s.logged.filter (· != g) }
  else if s.latent.contains g then findError s asid g else s

/-- The bytes of a granule that a write of `n` bytes from a key covers. -/
def granuleMask (k n g : Nat) : BitVec 64 :=
  let lo := max k (g * 64) - g * 64
  let hi := min (k + n) (g * 64 + 64) - g * 64
  BitVec.ofNat 64 (2 ^ hi - 2 ^ lo)

/-- Change of one chunk. -/
def modChunk (s : State) (cl : Nat) (ch : StashChunk) (f : StashChunk → StashChunk) : State :=
  modCluster s cl fun k => { k with stash := k.stash.map fun x => if x.crew == ch.crew && x.off == ch.off then f x else x }

/-- The bytes that a write masks in a chunk. -/
def maskBytes (masked : List Nat) (lo n : Nat) : List Nat :=
  masked ++ ((List.range n).map fun i => lo + i).filter fun b => !masked.contains b

/-- Whether a byte of a chunk is held by the stash copy: filled or masked (R292). -/
def StashChunk.holds (ch : StashChunk) (i : Nat) : Bool := ch.filled.getLsbD (i / 256) || ch.masked.contains i

/-- The part of a write within a granule: its first byte and its length. -/
def granulePart (k n g : Nat) : Nat × Nat := (max k (g * 64), min (k + n) (g * 64 + 64) - max k (g * 64))

/-- A sector once its masked bytes have been written back: where they were all 64, its copy is poisoned no more (R243). -/
def L1Sector.cleaned (x : L1Sector) : L1Sector :=
  { x with mask := 0, poison := x.poison && x.mask != BitVec.allOnes 64 }

/-- The home recalls the masked bytes of a granule from every L1 but that of `keep`; a copy that was fetched keeps its
lease (R241). -/
def recallMasks (s : State) (asid g : Nat) (keep : Option Nat) : State :=
  let mine (x : L1Sector) : Bool := x.granule == g && keep != some x.core && x.mask != 0
  if !s.l1.any mine then s
  else
    (s.l1.filter mine).foldl (fun s x => homeMask s asid g x.mask)
      { s with l1 := (s.l1.filter fun x => !mine x || x.valid).map fun x => if mine x then x.cleaned else x }

/-- Bytes of a stashed line are masked in the stash copy, which serves every access to the line (R292); the others are none
of its business. -/
def stashMask (s : State) (k n : Nat) : State :=
  match chunkOfKey s k with
  | some (cl, ch) => modChunk s cl ch fun x => { x with masked := maskBytes x.masked (k - ch.key) n }
  | none => s

/-- The home's side of a write to part of a granule: masked bytes are recalled, and the bytes go to the stash copy where the
line is stashed, else to the granule (R241, R292, R369). -/
def homeGranule (s : State) (asid k n g : Nat) : State :=
  let s := recallMasks s asid g none
  let (a, len) := granulePart k n g
  if (chunkOfKey s (g * 64)).isSome then stashMask s a len else homeMask s asid g (granuleMask k n g)

/-- A write at the home, sequenced or not: engines, service trains, remote packets and write-through stores (R241, R298,
R369). -/
def homeWriteAs (kind : WriteKind) (s : State) (asid k : Nat) (bs : List Byte) : State :=
  if bs.isEmpty then s else
  let s := (granulesOf k bs.length).foldl (fun s g => homeGranule s asid k bs.length g) s
  landMem s kind (memPut s.mem k bs) k bs.length

/-- A relaxed write at the home (R323). -/
def homeWrite (s : State) (asid k : Nat) (bs : List Byte) : State := homeWriteAs .relaxed s asid k bs

/-! ## The L1 (R240-R244) -/

/-- The set of a line (R240). -/
def l1Set (line : Nat) : Nat := line % 128

/-- A line leaves a core's L1; its masked bytes are written back (R241, R253). -/
def evictLine (s : State) (core asid line : Nat) : State :=
  let mine (x : L1Sector) : Bool := x.core == core && x.granule / 4 == line
  (s.l1.filter mine).foldl (fun s x => if x.mask == 0 then s else homeMask s asid x.granule x.mask)
    { s with l1 := s.l1.filter fun x => !mine x }

/-- A line is allocated in a core's L1: where its set holds 8 other lines, the one in the least recently used position leaves,
else one that the pseudo-LRU replacement picks, which the specification does not compute (R240, R244). -/
def l1Alloc (s : State) (core asid line : Nat) : State :=
  let here := s.l1.filter fun x => x.core == core && l1Set (x.granule / 4) == l1Set line
  let lines := uniq (here.map fun x => x.granule / 4)
  if lines.contains line || lines.length < 8 then s
  else
    match here.find? (·.first) with
    | some x => evictLine s core asid (x.granule / 4)
    | none =>
      let (w, s) := drawFree s
      evictLine s core asid (nth 0 lines (w.toNat % lines.length))

/-- Change of a core's sector of a granule, which is added where its L1 holds none. -/
def modSector (s : State) (core g : Nat) (f : L1Sector → L1Sector) : State :=
  if s.l1.any fun x => x.core == core && x.granule == g then
    { s with l1 := s.l1.map fun x => if x.core == core && x.granule == g then f x else x }
  else { s with l1 := f ⟨core, g, 0, false, 0, false, false⟩ :: s.l1 }

/-- A core's sector of a granule. -/
def sectorAt (s : State) (core g : Nat) : Option L1Sector := s.l1.find? fun x => x.core == core && x.granule == g

/-- A store through a core's L1, sequenced or not: the bytes take effect, and their mask bits are set in the line, which is
allocated (R241, R244), or in the stash copy of a stashed line (R292). -/
def l1WriteAs (kind : WriteKind) (strm : Bool) (s : State) (core asid k : Nat) (bs : List Byte) : State :=
  if bs.isEmpty then s else
  let s := (granulesOf k bs.length).foldl (fun s g =>
    let s := recallMasks s asid g (some core)
    let (a, n) := granulePart k bs.length g
    if (chunkOfKey s (g * 64)).isSome then stashMask s a n
    else modSector (l1Alloc s core asid (g / 4)) core g fun x =>
      { x with mask := x.mask ||| granuleMask k bs.length g, first := strm }) s
  landMem s kind (memPut s.mem k bs) k bs.length

/-- A store through a core's L1 that is no path's. -/
def l1Write (s : State) (core asid k : Nat) (bs : List Byte) : State := l1WriteAs .relaxed false s core asid k bs

/-- Whether the stash copy of a granule's line holds every byte of a part of it (R292). -/
def stashHolds (s : State) (k n g : Nat) : Bool :=
  match chunkOfKey s (g * 64) with
  | some (_, ch) =>
    let (a, len) := granulePart k n g
    (List.range len).all fun i => ch.holds (a - ch.key + i)
  | none => false

/-- Whether a core's L1 serves a read of part of a granule without its home, and the cause of bad data: it holds a copy under
its lease, or has masked every byte read (R240, R242, R243). -/
def l1Hit (s : State) (core : Option Nat) (k n g : Nat) : Option (Option Nat) :=
  match core.bind fun c => sectorAt s c g with
  | some x =>
    if x.valid && s.time < x.lease then some (if x.poison then some 0x0A else none)
    else if granuleMask k n g &&& ~~~x.mask == 0 && !s.poison.contains g then some none
    else none
  | none => none

/-- The state of the bytes of one granule that a demand access reads: none where they are clean, else the cause (R228,
R369). -/
def demandGranule (s : State) (core : Option Nat) (asid k n g : Nat) : Option Nat × State :=
  if stashHolds s k n g then (none, s)
  else
    match l1Hit s core k n g with
    | some bad => (bad, s)
    | none =>
      let s := drawHome (recallMasks s asid g core) g
      if s.poison.contains g then (some 0x0A, s)
      else if s.latent.contains g then (some (if g * 64 < tierBase then 0x0B else 0x0A), findError s asid g)
      else (none, s)

/-- The state of the bytes that a demand access reads: none where they are clean, else the cause (R228, R369). The
reader's own masked bytes stay in its L1. -/
def demandRead (s : State) (core : Option Nat) (asid k n : Nat) : Option Nat × State :=
  (granulesOf k n).foldl (fun (acc : Option Nat × State) g =>
    let (bad, s) := demandGranule acc.2 core asid k n g
    (acc.1 <|> bad, s)) (none, s)

/-- What a demand access to bytes would find, without its effect. -/
def peekGranule (s : State) (core : Option Nat) (k n g : Nat) : Option Nat :=
  if stashHolds s k n g then none
  else
    match l1Hit s core k n g with
    | some bad => bad
    | none =>
      if s.l1.any fun x => x.granule == g && core != some x.core && x.mask == BitVec.allOnes 64 then none
      else if s.poison.contains g then some 0x0A
      else if s.latent.contains g then some (if g * 64 < tierBase then 0x0B else 0x0A)
      else none

/-- The sectors that a load's bytes lie in are fetched into a core's L1: a copy, its poison and a read lease, whose length
within the bound of R329 the specification does not give (R240, R242, R244). A stashed line is served by its stash copy. -/
def l1Fetch (s : State) (core asid k n : Nat) (strm : Bool) : State :=
  (granulesOf k n).foldl (fun s g =>
    if (chunkOfKey s (g * 64)).isSome then s
    else
      match l1Hit s (some core) k n g with
      | some _ => modSector s core g fun x => { x with first := strm }
      | none =>
        let s := l1Alloc s core asid (g / 4)
        let (w, s) := drawFree (dieDraw s (dieOf core) 90)
        modSector s core g fun x => { x with
          valid := true, lease := s.time + w.toNat % (visibleIn + 1), poison := s.poison.contains g, first := strm }) s

/-! ## Where a read stands in the logical order (R324-R329) -/

/-- Bytes with those that a write replaced put back. -/
def undo (bs : List Byte) (k : Nat) (x : Past) : List Byte :=
  bs.mapIdx fun i b => if x.key ≤ k + i && k + i < x.key + x.old.length then nth b x.old (k + i - x.key) else b

/-- The writes on some bytes that reads may still miss (R329), newest first. -/
def recentOn (s : State) (k n : Nat) : List Past := s.past.filter fun x => x.touches k n && s.time < x.time + visibleIn

/-- The points at which a read of bytes that some writes touch may perform so that what it returns differs: `lo` and the later
ones at which one of them comes to be seen, up to the present. -/
def readPoints (s : State) (lo : Nat) (l : List Past) : List Nat :=
  let ends := l.flatMap fun x => (x.lo + 1) :: (x.hi.map (· + 1)).toList
  uniq (lo :: (ends ++ [s.point]).filter fun pt => lo ≤ pt && pt ≤ s.point)

/-- What a read does to the places of the writes that it sees and misses (R324): those it has missed perform no earlier than it,
those it has seen earlier. -/
def placeWrites (s : State) (pt : Nat) (missed seen : List Nat) : State :=
  { s with
    point := max s.point pt,
    past := s.past.map fun x =>
      if missed.contains x.point then { x with lo := max x.lo pt }
      else if seen.contains x.point then { x with hi := some (min (pt - 1) (x.hi.getD (pt - 1))) }
      else x }

/-- A read of bytes that stand as `now` at a key, at a point of the order no earlier than `lo`: which of the points, and which of
the writes whose place is open it follows, the specification leaves open (R324, R327, R329). The writes of the reader's own path
precede it (R325). The bytes, the point, and the state. -/
def readAt (s : State) (lo : Nat) (own : Option Nat) (now : List Byte) (k : Nat) : List Byte × Nat × State :=
  let l := recentOn s k now.length
  if l.isEmpty then (now, lo, s)
  else
    let mine (x : Past) : Bool := own.any fun u => x.paths.contains u
    let lo := (l.filter mine).foldl (fun m x => max m (x.lo + 1)) lo
    let pts := readPoints s lo l
    let (w, s) := drawFree s
    let pt := nth lo pts (w.toNat % pts.length)
    let (missed, s) := l.foldl (fun (acc : List Nat × State) x =>
      if x.lo ≥ pt then (x.point :: acc.1, acc.2)
      else if mine x || x.hi.any (· < pt) then acc
      else
        let (w, s) := drawFree acc.2
        (if w.getLsbD 0 then x.point :: acc.1 else acc.1, s)) ([], s)
    let seen := (l.filter fun x => !missed.contains x.point).map (·.point)
    (l.foldl (fun bs x => if missed.contains x.point then undo bs k x else bs) now, pt, placeWrites s pt missed seen)

/-- The sequenced writes of a path have performed before its sequenced read (R326): the point after them. -/
def settleSeq (s : State) (uid : Nat) : Nat × State :=
  let l := s.past.filter (·.seqOf uid)
  if l.isEmpty then (0, s)
  else (l.foldl (fun m x => max m (x.lo + 1)) 0,
    { s with past := s.past.map fun x => if x.seqOf uid then { x with hi := some x.lo } else x })

/-- The earliest point at which a path's read of some bytes may perform (R325, R328). -/
def readFloor (p : Path) (seqd : Bool) (k n : Nat) : Nat :=
  p.locs.foldl (fun m (a, len, pt) => if a < k + n && k < a + len then max m pt else m)
    (if seqd then max p.floor p.seqFloor else p.floor)

/-- A path has read some bytes at a point (R325, R326, R328): an acquire performs before every later access. -/
def noteRead (seqd acq : Bool) (pt k n : Nat) (p : Path) : Path :=
  { p with
    floor := if acq then max p.floor pt else p.floor,
    seqFloor := if seqd then max p.seqFloor pt else p.seqFloor,
    locs := (k, n, pt) :: p.locs.filter fun x => x.2.2 > p.floor && !(x.1 == k && x.2.1 == n) }

/-- A path's read that is single-copy atomic. -/
def readOnce (s : State) (r : PathRef) (seqd acq : Bool) (now : List Byte) (k : Nat) : List Byte × State :=
  match pathAt s r with
  | none => (now, s)
  | some p =>
    let (after, s) := if seqd then settleSeq s p.uid else (0, s)
    let (bs, pt, s') := readAt s (max after (readFloor p seqd k now.length)) (some p.uid) now k
    (bs, if (recentOn s k now.length).isEmpty then s else modPath s' r (noteRead seqd acq pt k now.length))

/-- A path's read of at most 8 bytes, which are single-copy atomic (R321); where an engine has written some of them singly,
each byte is read at a point of its own. -/
def readAs (s : State) (r : PathRef) (seqd acq : Bool) (now : List Byte) (k : Nat) : List Byte × State :=
  if (recentOn s k now.length).any fun x => x.kind == .singly then
    (now.zipIdx).foldl (fun (acc : List Byte × State) (b, i) =>
      let (bs, s) := readOnce acc.2 r seqd acq [b] (k + i)
      (acc.1 ++ bs, s)) ([], s)
  else readOnce s r seqd acq now k

/-- Bytes that an engine reads singly, each at a point no earlier than `lo` (R321, R337). -/
def readSingly (s : State) (lo : Nat) (now : List Byte) (k : Nat) : List Byte × State :=
  if (recentOn s k now.length).isEmpty then (now, s)
  else (now.zipIdx).foldl (fun (acc : List Byte × State) (b, i) =>
    let (bs, _, s) := readAt acc.2 lo none [b] (k + i)
    (acc.1 ++ bs, s)) ([], s)

/-- Change of the paths of a core that have some numbers. -/
def notePaths (s : State) (core : Nat) (uids : List Nat) (g : Path → Path) : State :=
  let f (o : Option Path) : Option Path := o.map fun p => if uids.contains p.uid then g p else p
  modCore s core fun c => { c with slots := c.slots.map fun o => o.map fun t =>
    { t with paths := t.paths.map f, handler := t.handler.map fun h => { h with paths := h.paths.map f } } }

/-- What paths of a core read from now on follows what they have waited for (R328, R334). -/
def raiseFloors (s : State) (core : Nat) (uids : List Nat) : State :=
  notePaths s core uids fun p => { p with floor := max p.floor s.point }

/-! ## ASID contexts, pages and translation -/

/-- The context of an ASID (R390). -/
def ctxOf (s : State) (asid : Nat) : List Byte :=
  match s.ctxs.find? fun c => c.asid == asid with
  | some c => c.bytes
  | none => []
/-- Whether the context is valid. -/
def ctxValid (s : State) (asid : Nat) : Bool := (leAt (ctxOf s asid) 44 4) % 2 == 1
/-- PTROOT. -/
def ctxRoot (s : State) (asid : Nat) : Nat := leAt (ctxOf s asid) 0 8
/-- TVEC. -/
def ctxTvec (s : State) (asid : Nat) : Nat := leAt (ctxOf s asid) 8 8
/-- DVEC. -/
def ctxDvec (s : State) (asid : Nat) : Nat := leAt (ctxOf s asid) 16 8
/-- STATUS. -/
def ctxStatus (s : State) (asid : Nat) : Nat := leAt (ctxOf s asid) 24 8
/-- FAULTQ. -/
def ctxFaultq (s : State) (asid : Nat) : Nat := leAt (ctxOf s asid) 32 8
/-- FQSIZE. -/
def ctxFqsize (s : State) (asid : Nat) : Nat := leAt (ctxOf s asid) 40 4
/-- The LAUNCH right. -/
def ctxLaunch (s : State) (asid : Nat) : Bool := (leAt (ctxOf s asid) 44 4).testBit 1

/-- Whether an index has a route-table entry (R397). -/
def routeValid (s : State) (peer : Nat) : Bool := s.routes.any fun (i, w) => i == peer && w.getLsbD 8
/-- Whether an index is lost (R405). -/
def routeLost (s : State) (peer : Nat) : Bool := s.routes.any fun (i, w) => i == peer && w.getLsbD 10
/-- The port that reaches an index. -/
def routePort (s : State) (peer : Nat) : Nat :=
  match s.routes.find? fun (i, _) => i == peer with
  | some (_, w) => bitsOf w.toNat 3 0
  | none => 0

/-- What translating an address gives: a leaf and its page's size in bits; a non-present entry's policy and level; or a
cause, with the granule where an uncorrectable error was found (R229-R231). -/
inductive Xlat where
  | leaf (w : Nat) (bits : Nat)
  | absent (pol lvl : Nat)
  | bad (cause : Nat) (err : Option Nat)
  deriving DecidableEq, Repr

/-- Whether a leaf at a level breaks no rule of R231. -/
def leafOk (s : State) (w lvl : Nat) : Bool :=
  lvl != 3 && bitsOf w 15 12 == 0 &&
  (if lvl == 1 then bitsOf w 20 16 == 0 else if lvl == 2 then bitsOf w 29 16 == 0 else true) &&
  !(w.testBit 9 && w.testBit 10) &&
  (if w.testBit 10 then routeValid s (bitsOf w 63 52) else bitsOf w 63 52 == 0)

/-- The index of a level's table (R229). -/
def levelIndex (va lvl : Nat) : Nat :=
  match lvl with
  | 3 => bitsOf va 55 39
  | 2 => bitsOf va 38 30
  | 1 => bitsOf va 29 21
  | _ => bitsOf va 20 16

/-- One entry of the walk (R230, R231), which a core's walker reads through its load-store route (R229): an outcome, or the
next table. -/
def walkEntry (s : State) (core : Option Nat) (va table lvl : Nat) : Xlat ⊕ Nat :=
  let k := table + 8 * levelIndex va lvl
  if !physOk s k 8 || k ≥ tierBase then .inl (.bad 0x07 none)
  else
    match peekGranule s core k 8 (granuleOf k) with
    | some cause => .inl (.bad cause (if cause == 0x0B then some (granuleOf k) else none))
    | none =>
      let w := memLe s.mem k 8
      let next := bitsOf w 51 8 * 256
      if !w.testBit 0 then .inl (.absent (bitsOf w 7 6) lvl)
      else if w.testBit 1 then
        .inl (if leafOk s w lvl then .leaf w (if lvl == 2 then 30 else if lvl == 1 then 21 else 16) else .bad 0x07 none)
      else if lvl == 0 || bitsOf w 7 2 != 0 || bitsOf w 63 52 != 0 || (lvl ≥ 2 && next % 4096 != 0) then
        .inl (.bad 0x07 none)
      else .inr next

/-- The walk from a level down (R229). -/
def walk (s : State) (core : Option Nat) (va : Nat) : Nat → Nat → Xlat
  | 0, table => match walkEntry s core va table 0 with | .inl x => x | .inr _ => .bad 0x07 none
  | l + 1, table => match walkEntry s core va table (l + 1) with | .inl x => x | .inr next => walk s core va l next

/-- The tables that a walk from a level down reads, each with its level. -/
def walkTables (s : State) (core : Option Nat) (va : Nat) : Nat → Nat → List (Nat × Nat)
  | 0, table => [(0, table)]
  | l + 1, table => (l + 1, table) ::
    (match walkEntry s core va table (l + 1) with | .inl _ => [] | .inr next => walkTables s core va l next)

/-- The walk of an ASID's table by a core or another agent; an ASID with no valid context maps nothing. -/
def walkOf (s : State) (core : Option Nat) (asid : Nat) (va : DWord) : Xlat :=
  if ctxValid s asid then walk s core va.toNat 3 (ctxRoot s asid) else .bad 0x07 none

/-- The walk of an ASID's table by an agent that no core's L1 serves. -/
def walkAsid (s : State) (asid : Nat) (va : DWord) : Xlat := walkOf s none asid va

/-- Whether a held translation is of an address of an ASID. -/
def TlbEntry.covers (asid : Nat) (va : DWord) (e : TlbEntry) : Bool := e.asid == asid && va.toNat / 2 ^ e.bits == e.vbase

/-- The bits of an address that an entry of a level's table leaves to lower levels. -/
def levelBits (lvl : Nat) : Nat := if lvl == 3 then 39 else if lvl == 2 then 30 else if lvl == 1 then 21 else 16

/-- The walk that a core's walker makes from the lowest table that it keeps (R238). -/
def walkKept (s : State) (core asid : Nat) (va : DWord) : Option Xlat :=
  let mine := (coreAt s core).upper.filter fun u => u.asid == asid && va.toNat / 2 ^ levelBits u.lvl == u.vbase
  match mine.find? (fun u => u.lvl == 1) <|> mine.find? (fun u => u.lvl == 2) <|> mine.find? (fun u => u.lvl == 3) with
  | some u => some (walk s (some core) va.toNat (u.lvl - 1) u.next)
  | none => none

/-- The last-page register of a lane of a slot. -/
def lanePage (s : State) (core : Nat) (who : Option (Nat × Nat)) : Option TlbEntry :=
  who.bind fun (slot, l) => (trainAt s core slot).bind fun t => (t.lanes[l]?).bind (·.page)

/-- Whether a lane's last-page register covers an address (R237). -/
def pageHit (s : State) (core : Nat) (who : Option (Nat × Nat)) (asid : Nat) (va : DWord) : Bool :=
  (lanePage s core who).any (·.covers asid va)

/-- Whether a walk has met bad data in a table (R231). -/
def Xlat.poisoned (x : Xlat) : Bool := match x with | .bad 0x0A _ | .bad 0x0B _ => true | _ => false

/-- The forms in which a core may use the entry of an address (R237, R238): as the lane's last-page register holds it; else as the
core TLB holds it, or as a walk finds it where software has changed it since; else as a walk from a kept table or from the root
finds it. -/
def xlatForms (s : State) (core : Nat) (who : Option (Nat × Nat)) (asid : Nat) (va : DWord) : List Xlat :=
  let held (e : TlbEntry) : Xlat := .leaf e.leaf.toNat e.bits
  let walks := (walkKept s core asid va).toList ++ [walkOf s (some core) asid va]
  match (lanePage s core who).toList.filter (·.covers asid va) with
  | e :: _ => [held e]
  | [] =>
    match (coreAt s core).tlb.find? (·.covers asid va) with
    | some e => uniq (held e :: walks.filter (!·.poisoned))
    | none => uniq walks

/-- Translation by a core for a lane of a slot, or for another agent. An entry that software has changed is used in its old
or its new form, separately for each lane, until a TLBI (R238): which of them the specification leaves open. -/
def xlateFor (s : State) (core : Nat) (who : Option (Nat × Nat)) (asid : Nat) (va : DWord) : Xlat :=
  match xlatForms s core who asid va with
  | [x] => x
  | l =>
    let lane := match who with | some (slot, i) => 96 * slot + i + 1 | none => 0
    nth (.bad 0x07 none) l ((Config.freeForm (coreAt s core).cycle lane va.toNat).toNat % l.length)

/-- Translation by a core for an agent that is no lane (R238). -/
def xlate (s : State) (core asid : Nat) (va : DWord) : Xlat := xlateFor s core none asid va

/-- A list with one more entry, which takes the place of one that the replacement picks where the list is full. -/
def takeIn {α : Type} (cap pick : Nat) (x : α) (l : List α) : List α :=
  if l.length < cap then x :: l else x :: l.eraseIdx (pick % l.length)

/-- The set of a core TLB that a translation goes to: which one the specification does not give (R238). -/
def TlbEntry.set (e : TlbEntry) : Nat := Config.tlbSet e.asid e.vbase e.bits % 128

/-- A core TLB with one more translation, in a set of 16 (R238). -/
def tlbTake (pick : Nat) (e : TlbEntry) (l : List TlbEntry) : List TlbEntry :=
  let (mine, rest) := l.partition fun x => x.set == e.set
  takeIn 16 pick e mine ++ rest

/-- The translation and the tables that a walk found are kept (R238). -/
def tlbFill (s : State) (core asid : Nat) (va : DWord) (w bits : Nat) : State :=
  if (coreAt s core).tlb.any (·.covers asid va) then s
  else
    let tables := (walkTables s (some core) va.toNat 3 (ctxRoot s asid)).filter fun x => x.1 != 3
    let (x, s) := drawFree s
    modCore s core fun c =>
      { c with
        tlb := tlbTake x.toNat ⟨asid, va.toNat / 2 ^ bits, bits, BitVec.ofNat 64 w⟩ c.tlb,
        upper := tables.foldl (fun l (lvl, next) =>
          let u : UpperEntry := ⟨asid, lvl + 1, va.toNat / 2 ^ levelBits (lvl + 1), next⟩
          if l.contains u then l else takeIn 256 x.toNat u l) c.upper }

/-- The physical key of an address on a leaf of this package. -/
def leafKey (w bits : Nat) (va : DWord) : Nat :=
  (if w.testBit 9 then tierBase else 0) + bitsOf w 51 bits * 2 ^ bits + va.toNat % 2 ^ bits
/-- The physical address at the peer of an address on a leaf with PEER = 1. -/
def leafPa (w bits : Nat) (va : DWord) : Nat := bitsOf w 51 bits * 2 ^ bits + va.toNat % 2 ^ bits

/-- What an access to memory needs of a leaf (R232). -/
inductive Need where
  | read | write | fetch | route | update
  deriving DecidableEq, Repr

/-- What one lane's checks give (R222); `idle` is a lane that makes no access and reads zero (R249). -/
inductive LaneOut where
  | idle
  | ok (key : Nat)
  | peer (id pa : Nat) (kill : Bool)
  | zero
  | park (lvl : Nat)
  | trap (cause : Nat)
  deriving DecidableEq, Repr

/-- The checks of a translated address (R157, R232, R233, R367). -/
def leafCheck (s : State) (priv : Bool) (need : Need) (size : Nat) (va : DWord) (x : Xlat) : LaneOut :=
  match x with
  | .bad c _ => .trap c
  | .absent pol lvl => if pol == 0 then .park lvl else if pol == 1 then .zero else if pol == 2 then .trap 0x0A
      else .trap 0x06
  | .leaf w bits =>
    let permitted := match need with
      | .read | .route => w.testBit 2
      | .write => w.testBit 3
      | .update => w.testBit 2 && w.testBit 3
      | .fetch => w.testBit 4
    if w.testBit 5 && !priv && need != .fetch then .trap 0x09
    else if !permitted || (w.testBit 11 && !priv) then .trap 0x07
    else if w.testBit 10 then
      if need == .fetch || need == .route then .trap 0x07
      else .peer (bitsOf w 63 52) (leafPa w bits va) (bitsOf w 7 6 == 3)
    else if physOk s (leafKey w bits va) size then .ok (leafKey w bits va) else .trap 0x07

/-- The checks of one address of a lane of a slot, or of another agent, in the order of R222. -/
def checkFor (s : State) (core : Nat) (who : Option (Nat × Nat)) (asid : Nat) (priv : Bool) (need : Need) (size : Nat)
    (va : DWord) : LaneOut :=
  if !canonical va then .trap 0x07
  else if va.toNat % size != 0 then .trap 0x05
  else leafCheck s priv need size va (xlateFor s core who asid va)

/-- The checks of one address of an agent that is no lane, in the order of R222. -/
def checkLane (s : State) (core asid : Nat) (priv : Bool) (need : Need) (size : Nat) (va : DWord) : LaneOut :=
  checkFor s core none asid priv need size va

/-- The entries that a walk reads are demand reads of the load-store route: through the core's L1, which fetches them, or at their
home; one with an uncorrectable error is found (R207, R229, R231, R241). -/
def readTables (s : State) (core : Option Nat) (asid : Nat) (va : DWord) : State :=
  if !ctxValid s asid then s
  else ((walkTables s core va.toNat 3 (ctxRoot s asid)).map fun (lvl, t) => t + 8 * levelIndex va.toNat lvl).foldl (fun s k =>
    if !physOk s k 8 || k ≥ tierBase then s
    else
      let (_, s) := demandRead s core asid k 8
      match core with
      | some c => l1Fetch s c asid k 8 false
      | none => s) s

/-- The last-page register of a lane of a slot after a translation (R237). -/
def setPage (s : State) (core : Nat) (who : Option (Nat × Nat)) (e : TlbEntry) : State :=
  match who with
  | some (slot, l) => if lanePage s core who == some e then s else
      modTrain s core slot fun t => { t with lanes := updAt t.lanes l fun ln => { ln with page := some e } }
  | none => s

/-- The effect of a translation on the state: a lane whose last-page register covers the address consults nothing; else the tables
are read on a miss, and the translation is kept in the core's TLB and in the lane's last-page register (R231, R237, R238). -/
def walkEffectFor (s : State) (core : Nat) (who : Option (Nat × Nat)) (asid : Nat) (va : DWord) : State :=
  if pageHit s core who asid va then s
  else
    let x := xlateFor s core who asid va
    let s := if (coreAt s core).tlb.any (·.covers asid va) then s else readTables s (some core) asid va
    match x with
    | .leaf w bits =>
      setPage (tlbFill s core asid va w bits) core who ⟨asid, va.toNat / 2 ^ bits, bits, BitVec.ofNat 64 w⟩
    | _ => s

/-- The effect of a translation for an agent that is no lane (R231, R238). -/
def walkEffect (s : State) (core asid : Nat) (va : DWord) : State := walkEffectFor s core none asid va

/-- The effect of a walk by an agent that keeps no translation: the conductor, the work distributor, the Tender's records and
near-memory engines find an uncorrectable entry (R231). -/
def walkTouch (s : State) (asid : Nat) (va : DWord) : State := readTables s none asid va

/-- A record goes to a ring in memory that has room, and HEAD moves on (R369, R391). -/
def writeRing (s : State) (asid base size : Nat) (rec_ : List Byte) : State :=
  match ringSlot s.mem base size rec_.length with
  | some k => homeWrite (homeWrite s asid k rec_) asid base (leBytes 4 ((memLe s.mem base 4 + 1) % 2 ^ 32))
  | none => s

/-- A page-fault record goes to the ASID's fault queue, or waits for room (R235). -/
def faultRecord (s : State) (asid : Nat) (va : DWord) (kind lvl : Nat) (trainId : Word) (path : Nat) : State :=
  let rec_ := leBytes 8 va.toNat ++ leBytes 2 asid ++ leBytes 1 kind ++ leBytes 1 lvl ++ leBytes 4 trainId.toNat ++
    leBytes 1 path ++ leBytes 7 0 ++ leBytes 8 s.time
  let wait : State := { s with faults := s.faults ++ [⟨asid, rec_⟩] }
  if s.faults.any fun f => f.asid == asid then wait
  else
    match ringSlot s.mem (ctxFaultq s asid) (ctxFqsize s asid) rec_.length with
    | some _ => writeRing s asid (ctxFaultq s asid) (ctxFqsize s asid) rec_
    | none => wait

/-! ## Program order and reports -/

/-- A path that takes part in another's program order from now on: every earlier access that counted for `old` counts
for `new` too (R131). -/
def inherit (s : State) (old new : Nat) : State :=
  let f (l : List Nat) : List Nat := if l.contains old && !l.contains new then new :: l else l
  { s with
    cores := s.cores.map fun c => if c.txns.isEmpty && c.wc.isEmpty then c else
      { c with txns := c.txns.map fun x => { x with paths := f x.paths },
               wc := c.wc.map fun x => { x with paths := f x.paths } }
    outWrites := s.outWrites.map fun x => { x with paths := f x.paths }
    past := s.past.map fun x => { x with paths := f x.paths }
    nmcs := s.nmcs.map fun x => { x with paths := f x.paths } }

/-- The reports that would reach `old` reach `new` (R408). -/
def handReports (s : State) (old new : Nat) : State :=
  let f (l : List Nat) : List Nat := if l.contains old then (l.filter (· != old)) ++ [new] else l
  { s with
    cores := s.cores.map fun c => if c.wc.isEmpty then c else
      { c with wc := c.wc.map fun x => { x with holders := f x.holders } }
    outWrites := s.outWrites.map fun x => { x with holders := f x.holders } }

/-! ## The life of a path -/

/-- DEPTH (R154). -/
def depthOf (p : Path) : Nat := bitsOf p.wbase.toNat 15 0
/-- RES (R154). -/
def resOf (p : Path) : Nat := bitsOf p.wbase.toNat 17 16
/-- A window base of a depth and resident callers (R154). -/
def mkWbase (depth res : Nat) : Word := BitVec.ofNat 32 (depth % 65536 + res % 4 * 65536)
/-- FRAMES (R155). -/
def framesOf (t : Train) : Nat := bitsOf t.winstack.toNat 15 0
/-- BASE, a canonical address (R155). -/
def winBase (t : Train) : DWord := sext64 56 (bitsOf t.winstack.toNat 55 16 * 65536)

/-- The lanes in which a region has written a register. -/
def Region.wrote (g : Region) (x : Reg) : LaneSet := (g.written.find? fun y => y.1 == x).elim 0 (·.2)

/-- A new region record: broken, with its entry at a PC (R188). -/
def brokenRegion (pc : DWord) : Region := ⟨pc, 0, 0, false, true, [], [], [], [], [], false⟩

/-- A path that starts at a PC with a mask, its other fields as at placement (R18). -/
def newPath (uid : Nat) (pc : DWord) (mask : LaneSet) : Path where
  uid := uid
  got := []
  pc := pc
  lastPc := pc
  mask := mask
  mode := 0
  wbase := 0
  jids := 0
  pending := []
  pstate := .active
  wake := none
  frozen := .none
  stop := .running
  stall := 0
  delay := 0
  waitc := 0
  fetched := none
  producers := []
  region := brokenRegion pc
  reports := []
  trapDue := none
  unf := none
  xfers := []
  errDue := false
  woken := false
  flushWait := false
  cold := false
  full := none
  raced := []
  floor := 0
  seqFloor := 0
  seen := []
  learn := []
  locs := []

/-- The lanes that other live or deferred paths own, or that have retired (R17, R25). -/
def takenLanes (t : Train) (entry : Nat) : LaneSet :=
  let live := (livePaths t.paths).foldl (fun m (i, p) => if i == entry then m else m ||| p.mask) (0 : LaneSet)
  let held := t.deferred.foldl (fun m d => m ||| d.mask) live
  let back := t.refills.foldl (fun m r => m ||| r.what.mask) held
  back ||| t.retired

/-- The idle lanes of a train: owned by no path and not retired (R17). -/
def idleLanes (t : Train) : LaneSet := ~~~(takenLanes t 8)

/-- A path whose wait is over (R40, R198): Active, or still held by the agent that runs on it (R192). What it reads from now on
follows what it waited for, which stands before a point of the order (R334). -/
def wakePath (pt : Nat) (p : Path) : Path :=
  { p with wake := none, woken := false, waitc := 0, got := [], floor := max p.floor pt,
           pstate := if p.pstate == .parked then .active else p.pstate }

/-- Whether a parked path is held, so that what it waits for is only noted (R41, R192). -/
def heldPath (p : Path) : Bool := p.pstate != .parked || p.frozen != .none

/-- Whether a path waits at JWAIT j. -/
def atJwait (j : Nat) (p : Path) : Bool := p.wake == some (.jwait j)

/-- Whether a path, or a deferred path, carries j (R136). -/
def carriers (ps : List (Option Path)) (defs : List (BitVec 16)) (j : Nat) : Nat :=
  ((livePaths ps).filter fun (_, p) => p.jids.getLsbD j).length + (defs.filter fun d => d.getLsbD j).length

/-- Completion of every JWAIT whose path is the only carrier of its id (R136), with the delay of R130 wherever the
reconvergence PC lies (DESIGN CHOICE, unsafe: log entry 86). -/
def settleJwaits (ps : List (Option Path)) (defs : List (BitVec 16)) (jtab : Nat → DWord) : List (Option Path) :=
  ps.map fun o => o.map fun p =>
    match p.wake with
    | some (.jwait j) =>
      if carriers ps defs j == 1 then
        { wakePath p.floor p with jids := p.jids &&& ~~~(BitVec.ofNat 16 (2 ^ j)), pc := jtab j, delay := 4, fetched := none }
      else p
    | _ => p

/-- The reconvergence PC of an id in the table in use (R135, R177). -/
def jtabOf (t : Train) (handler : Bool) (j : Nat) : DWord :=
  if handler then (match t.handler with | some h => (nth none h.jtab j).getD 0 | none => 0) else nth 0 t.jtab j
/-- The ids that deferred records carry; none in a handler (R136, R177). -/
def deferredJids (t : Train) (handler : Bool) : List (BitVec 16) :=
  if handler then [] else t.deferred.map (·.jids) ++ t.refills.map (·.what.jids)
/-- A train whose completed JWAITs have resumed (R136). -/
def settleTrain (t : Train) (handler : Bool) : Train :=
  withPaths t handler (settleJwaits (pathsOf t handler) (deferredJids t handler) (jtabOf t handler))

/-- The entries that a split may take: free, and not reserved for a record (R129), and none inside the table's
records' reach (R22). -/
def freeEntries (t : Train) (handler : Bool) : List Nat :=
  ((pathsOf t handler).zipIdx).filterMap fun (o, i) =>
    if o.isNone && (handler || !(t.refills.any fun r => r.entry == i)) then some i else none

/-- The newest deferred record is taken for an entry that has become free; the Tender refills it (R22, R129). -/
def reactivate (s : State) (core slot entry : Nat) : State :=
  match trainAt s core slot with
  | some t =>
    match t.deferred with
    | [] => s
    | d :: rest =>
      let s := modTrain s core slot fun t => { t with deferred := rest, refills := t.refills ++ [⟨entry, d, false⟩] }
      modCore s core fun c => { c with tender := c.tender ++ [⟨⟨core, slot, entry, false⟩, .refill, false⟩] }
  | none => s

/-- Lanes retire with their statuses; their holds end (R148, R359). -/
def retireLanes (t : Train) (m : LaneSet) (status : Nat → BitVec 16) : Train :=
  { t with retired := t.retired ||| m,
           lanes := t.lanes.mapIdx fun l ln => if m.has l then { ln with status := status l, hold := none } else ln }

/-- The end of a train (R149): a train that ends by TAIL leaves its slot at once when a tracker entry is free. -/
def endTrain (s : State) (core slot : Nat) (how : TrainEnd) (rep : EndReport) : State :=
  match trainAt s core slot with
  | none => s
  | some t =>
    let t' := { t with ended := some how, endReport := some rep, handler := none, deferred := [], refills := [],
                       paths := List.replicate 8 none, drainErr := t.drainErr || !t.reports.isEmpty, reports := [] }
    let s := modCore s core fun c => { c with tender := c.tender.filter fun j => j.who.slot != slot }
    let trackers := (coreAt s core).trackers
    match (trackers.zipIdx).find? fun (o, _) => o.isNone with
    | some (_, i) =>
      if how == .byTail then
        modCore s core fun c => { c with
          slots := updAt c.slots slot fun _ => none,
          lastEnd := updAt c.lastEnd slot fun _ => some rep,
          trackers := updAt c.trackers i fun _ => some ⟨slot, t'⟩ }
      else setTrain s core slot (some t')
    | none => setTrain s core slot (some t')

/-- A train with no live or deferred path ends, its idle lanes retiring with 0xFFFF (R27, R148). -/
def checkEnd (s : State) (core slot : Nat) (how : TrainEnd) (rep : EndReport) : State :=
  match trainAt s core slot with
  | none => s
  | some t =>
    if t.ended.isNone && (livePaths t.paths).isEmpty && t.deferred.isEmpty && t.refills.isEmpty then
      let idle := idleLanes t
      let s := setTrain s core slot (some { retireLanes t idle (fun _ => 0xFFFF) with
        idleOut := t.idleOut || idle != 0 })
      endTrain s core slot how { rep with mask := rep.mask ||| idle }
    else s

/-- A path is freed (R23): its entry takes a deferred record, waits at JWAIT may complete, its reports go to the train
(R408), and a train with no path left ends. -/
def freePath (s : State) (r : PathRef) (how : TrainEnd) (rep : EndReport) : State :=
  match pathAt s r with
  | none => s
  | some p =>
    let s := modTrain s r.core r.slot fun t =>
      let t := withPaths t r.handler (updAt (pathsOf t r.handler) r.entry fun _ => none)
      settleTrain { t with reports := t.reports ++ p.reports } r.handler
    if r.handler then s else checkEnd (reactivate s r.core r.slot r.entry) r.core r.slot how rep

/-- A kill record goes to the train's mailbox where the write can perform (R180). -/
def writeKill (s : State) (core : Nat) (t : Train) (kcause : Nat) (kpc : DWord) (kmask : LaneSet) : State :=
  let tcause := match t.handler with | some h => h.cause | none => 0
  let rec_ := leBytes 2 kcause ++ leBytes 2 tcause ++ leBytes 4 0 ++ leBytes 8 kpc.toNat ++ leBytes 8 t.trapPc.toNat ++
    leBytes 12 kmask.toNat ++ leBytes 4 0 ++ leBytes 8 s.time ++ leBytes 16 0
  let va := t.mailbox + 128
  match xlate s core t.asid va with
  | .leaf w bits =>
    if canonical va && w.testBit 3 && !w.testBit 5 && !w.testBit 10 && physOk s (leafKey w bits va) 64 then
      l1Write s core t.asid (leafKey w bits va) rec_
    else s
  | _ => s

/-- A request joins the queue of the service train that owns a line (R295, R296). -/
def svcPush (s : State) (cluster : Nat) (q : SvcReq) : State :=
  modCluster s cluster fun k => { k with svc := k.svc ++ [q] }

/-- A completion of an operation that names an object: its update is queued at the object's home (R272). -/
def signalObj (s : State) (asid : Nat) (key : Option Nat) (failed : Option (Nat × DWord)) (know : List (Nat × Nat)) : State :=
  match key with
  | none => s
  | some k =>
    let (errs, cause, addr) : Nat × Nat × DWord := match failed with
      | some (cause, addr) => (1, cause, addr)
      | none => (0, 0, 0)
    svcPush s (ownerOf s k) (.complete k 1 errs cause addr asid know)

/-- The numbers of a train's engine operations that have not started. -/
def unstarted (k : Cluster) (uid : Nat) : List Nat :=
  ((k.pairs.flatMap (·.queue)).filter fun o => o.train == uid && !o.started).map (·.id) ++
  (k.copies.filter fun o => o.train == uid && !o.started).map (·.id)

/-- The objects of a cluster's operations of some numbers. -/
def objsOf (k : Cluster) (ids : List Nat) : List (Nat × Option Nat) :=
  ((k.pairs.flatMap (·.queue)).filter fun o => ids.contains o.id).map (fun o => (o.asid, o.obj)) ++
  (k.copies.filter fun o => ids.contains o.id).map (fun o => (o.asid, o.obj))

/-- Whether a slot of a buffer waits for no earlier copy and holds nothing, so that a copy of some number may have it
(R279). -/
def slotOpen (k : Cluster) (q id slot : Nat) (b : Buffer) : Bool :=
  !(k.copies.any fun o => o.queue == some q && o.arrived && o.qslot == slot && o.id < id) &&
  !(b.ghosts.any fun x => x.2 == slot && x.1 < id) &&
  (match nth SlotState.empty b.slots slot with | .empty | .reserved => true | _ => false)

/-- The slots of dropped pushes whose turn has come become full (R279, R281). -/
def settleGhosts (k : Cluster) : Cluster :=
  { k with bufs := k.bufs.mapIdx fun q o => o.map fun b =>
      let due := b.ghosts.filter fun x => slotOpen k q x.1 x.2 b
      { b with
        ghosts := b.ghosts.filter fun x => !due.contains x,
        slots := b.slots.mapIdx fun i x => if due.any fun y => y.2 == i then .full else x } }

/-- The pushes of a killed train that have reserved slots of a buffer leave their marks in it. -/
def leaveGhosts (k : Cluster) (ids : List Nat) (q : Nat) (b : Buffer) : Buffer :=
  { b with ghosts := b.ghosts ++
      (k.copies.filter fun o => o.queue == some q && o.arrived && ids.contains o.id).map fun o => (o.id, o.qslot) }

/-- A killed train's operations that have not started are dropped, each completing as a failure with cause 0x10; the
specification names no address for it (R281). -/
def dropEngines (s : State) (core uid : Nat) : State :=
  let cl := clusterOf core
  let k := clusterAt s cl
  let ids := unstarted k uid
  if ids.isEmpty then s
  else
    let keep (n : Nat) : Bool := !ids.contains n
    let s := modCluster s cl fun k => settleGhosts { k with
      bufs := k.bufs.mapIdx fun q o => o.map (leaveGhosts k ids q),
      pairs := k.pairs.map fun p => { p with queue := p.queue.filter fun o => keep o.id },
      copies := k.copies.filter fun o => keep o.id,
      sbq := k.sbq.filter fun x => match x.kind with | .matrix _ n | .copy n => keep n | .band _ => true }
    let s := modCore s core fun k => { k with txns := k.txns.filter fun x => !(x.kind == .engine && ids.contains x.id) }
    (objsOf k ids).foldl (fun s (asid, obj) =>
      let (lo, s) := drawFree s
      let (hi, s) := drawFree s
      signalObj s asid obj (some (0x10, DWord.ofHalves lo hi)) []) s

/-- A killed train's COLLs are no longer in progress, and its multicasts that have not been sent are dropped (R281,
R433). -/
def dropColls (s : State) (core uid : Nat) : State :=
  let mine := (s.groups.flatMap (·.colls)).filter fun o => o.train == uid
  let mcs := s.mcsts.filter fun o => o.train == uid && !o.sent
  if mine.isEmpty && mcs.isEmpty then s
  else
    let ids := mine.map (·.id) ++ mcs.map (·.id)
    let s := { s with
      groups := s.groups.map fun g => { g with colls := g.colls.filter fun o => !ids.contains o.id },
      mcsts := s.mcsts.filter fun o => !ids.contains o.id }
    let s := modCore s core fun k => { k with txns := k.txns.filter fun x => !(x.kind == .engine && ids.contains x.id) }
    (mine.map (fun o => (o.asid, o.obj)) ++ mcs.map fun o => (o.asid, o.obj)).foldl (fun s (asid, obj) =>
      let (lo, s) := drawFree s
      let (hi, s) := drawFree s
      signalObj s asid obj (some (0x10, DWord.ofHalves lo hi)) []) s

/-- A kill (R151, R180): every lane not yet retired retires with 0xFFFE, and the train ends. Of its writes that have not performed,
each of which R341 lets perform or be dropped, every one performs (DESIGN CHOICE, unsafe: log entry 116). -/
def killTrain (s : State) (core slot kcause : Nat) (kpc : DWord) (kmask : LaneSet) : State :=
  match trainAt s core slot with
  | none => s
  | some t =>
    if t.ended.isSome then s else
    let s := writeKill s core t kcause kpc kmask
    let left := ~~~t.retired
    let own := match t.handler with | some h => livePaths h.paths | none => []
    let reports := t.reports ++ (livePaths t.paths ++ own).flatMap fun (_, p) => p.reports
    let s := setTrain s core slot (some { retireLanes t left (fun _ => 0xFFFE) with killed := true, reports := reports })
    let s := modCore s core fun c =>
      { c with txns := c.txns.filter fun x => !(x.train == t.uid && x.kind == .load) }
    let here (r : PathRef) : Bool := r.core == core && r.slot == slot
    let s := { s with remotes := s.remotes.filter fun q => match q.use with | .waitAddr r => !here r | _ => true }
    endTrain (dropColls (dropEngines s core t.uid) core t.uid) core slot .byExit ⟨kpc, left, t.lastEntry⟩

/-! ## Traps -/

/-- DBGCTL's FREEZE (R191). -/
def dbgFreeze (t : Train) : Bool := t.dbgctl.getLsbD 0
/-- DBGCTL's LACHK. -/
def dbgLachk (t : Train) : Bool := t.dbgctl.getLsbD 1
/-- DBGCTL's STEP. -/
def dbgStep (t : Train) : Bool := t.dbgctl.getLsbD 2

/-- The train with its halt request taken (R191). -/
def clearHalt (t : Train) : Train := { t with pendHalt := false, dbgctl := t.dbgctl &&& ~~~(0x8 : Word) }

/-- What an entry of the agent takes from the train (R185, R191, R192): a step is over, and a halt, which REASON 1 names, is
no longer pending. -/
def agentTaken (agent : Bool) (addr : DWord) (t : Train) : Train :=
  if !agent then t
  else
    let t := { t with stepArmed := none, stepOwed := false }
    if addr.toNat % 16 == 1 then clearHalt t else t

/-- Entry of a handler or of the debug agent on a path (R175, R176, R192): the trap registers are written, the path
stops, and the handler's first path starts at the vector with MODE 0 in the path's window. -/
def enterHandler (s : State) (core slot entry : Nat) (rc : TrapRec) : State :=
  match trainAt s core slot, pathAt s ⟨core, slot, entry, false⟩ with
  | some t, some p =>
    let agent := rc.cause == 0x0F
    let vec := if agent then ctxDvec s t.asid else ctxTvec s t.asid
    let t := { t with
      trapCause := BitVec.ofNat 32 (rc.cause + entry * 256 + p.mode.toNat % 2 ^ 21 * 2048),
      trapPc := rc.pc, trapMask := rc.lanes, trapAddr := rc.addr }
    let s := setTrain s core slot (some t)
    if vec == 0 then killTrain s core slot rc.cause rc.pc rc.lanes
    else
      let (uid, s) := fresh s
      let hp := { newPath uid (BitVec.ofNat 64 vec) rc.lanes with
        wbase := p.wbase, floor := p.floor, seqFloor := p.seqFloor, seen := p.seen, locs := p.locs }
      let keep := agent || p.stop == .inFull
      let h : Handler := ⟨agent, entry, keep && p.pstate == .parked, rc.lanes, [some hp, none, none, none],
        List.replicate 16 none, s.time, rc.cause, rc.pc⟩
      let stop (q : Path) : Path := if q.frozen != .none then q else
        if agent then (if dbgFreeze t then { q with frozen := .halt } else q) else { q with frozen := .siblingTrap }
      let s := modTrain s core slot fun t => { agentTaken agent rc.addr t with
        handler := some h,
        taking := none,
        paths := t.paths.mapIdx fun i o => o.map fun q =>
          if i == entry then { q with pstate := if agent then .halted else .trapped, trapDue := none, frozen := .none,
                                      xfers := [], got := [], errDue := false, fetched := none, wake := if keep then q.wake else none,
                                      unf := if keep then q.unf else none }
          else stop q }
      inherit s p.uid uid
  | _, _ => s

/-- The pending trap that comes next (R184, R185): the one that waits for its path's results, else that of the lowest entry. -/
def dueTrap (t : Train) : Option (Nat × Path × TrapRec) :=
  let due := (livePaths t.paths).filterMap fun (i, p) => p.trapDue.map fun rc => (i, p, rc)
  (due.find? fun x => t.taking == some x.1) <|> due.head?

/-- Delivery of the next pending trap once its path's long-latency results have landed; its siblings freeze meanwhile
(R176, R184, R185). One that arrives while the core's clock relocks is taken after it (R320). -/
def deliver (s : State) (core slot : Nat) : State :=
  match trainAt s core slot with
  | none => s
  | some t =>
    if t.handler.isSome || t.ended.isSome || (coreAt s core).relock then s
    else
      match dueTrap t with
      | none => s
      | some (i, p, rc) =>
        if p.pending.isEmpty then enterHandler s core slot i rc
        else modTrain s core slot fun t => { t with
          taking := some i,
          paths := t.paths.mapIdx fun k o => o.map fun q =>
            if k == i || q.frozen != .none || (rc.cause == 0x0F && !dbgFreeze t) then q
            else { q with frozen := .siblingTrap } }

/-- A double fault of a train's handler (R179, R180). -/
def doubleFault (s : State) (core slot : Nat) (pc : DWord) : State :=
  let mask := match trainAt s core slot with
    | some t => (match t.handler with | some h => h.hmask | none => 0)
    | none => 0
  killTrain s core slot 0x10 pc mask

/-- What a slot's train takes once its core's clock has relocked (R320): a double fault of its handler, or its next trap. -/
def takeDelayed (s : State) (core slot : Nat) : State :=
  match (trainAt s core slot).bind (·.handler) with
  | some h =>
    (match (livePaths h.paths).findSome? fun (_, p) => p.trapDue with
     | some rc => doubleFault s core slot rc.pc
     | none => s)
  | none => deliver s core slot

/-- Taking a trap (R176, R184): a trap inside a handler is a double fault (R179); else it is pending on its path and
is delivered as soon as it can be. -/
def takeTrap (s : State) (r : PathRef) (rc : TrapRec) : State :=
  if r.handler then
    if (coreAt s r.core).relock then modPath s r fun p => { p with trapDue := some rc, frozen := .pendingTrap, xfers := [] }
    else doubleFault s r.core r.slot rc.pc
  else
    deliver (modPath s r fun p => { p with trapDue := some rc, frozen := .pendingTrap, xfers := [] })
      r.core r.slot

/-- A halt or a step enters the agent on a path (R185, R192). -/
def enterAgent (s : State) (core slot entry reason : Nat) : State :=
  match pathAt s ⟨core, slot, entry, false⟩ with
  | some p => takeTrap s ⟨core, slot, entry, false⟩ ⟨0x0F, p.mask, p.pc, BitVec.ofNat 64 reason⟩
  | none => s

/-- The path entry that a halt of HSEL finds: the entry named, or the lowest Active path for 8 (R191, R192). HSEL is read when the
halt is taken, so writing it again while a halt is pending aims that halt anew, which the specification leaves open (DESIGN
CHOICE, unsafe: log entry 104). -/
def haltTarget (t : Train) : Option Nat :=
  let sel := bitsOf t.dbgctl.toNat 7 4
  if sel < 8 then (if (nth none t.paths sel).isSome then some sel else none)
  else ((livePaths t.paths).find? fun (_, p) => p.pstate == .active && p.frozen == .none).map (·.1)

/-- Whether a pending halt is on a path that has no trap pending (R185, R192). -/
def haltNames (t : Train) (entry : Nat) : Bool :=
  t.pendHalt && haltTarget t == some entry && (match nth none t.paths entry with | some p => p.trapDue.isNone | none => false)

/-- The entry of the path that a STEP has let issue. -/
def stepEntry (t : Train) : Option Nat :=
  ((livePaths t.paths).find? fun (_, p) => t.stepArmed == some p.uid).map (·.1)

/-- What follows the end of a handler before a path of the train issues (R185): a halt pending on the returning path, else a
pending trap, else the agent's entry after a step. -/
def takeNext (s : State) (core slot entry : Nat) : State :=
  match trainAt s core slot with
  | none => s
  | some t =>
    if haltNames t entry then enterAgent (modTrain s core slot fun t => { t with taking := some entry }) core slot entry 1
    else if (dueTrap t).isSome then deliver s core slot
    else if t.stepOwed then (match stepEntry t with | some e => enterAgent s core slot e 2 | none => s)
    else s

/-- A sibling that the end of a handler thaws (R41, R184, R198). -/
def thawPath (q : Path) : Path :=
  if q.frozen == .pendingTrap then q
  else { q with frozen := .none, waitc := if q.frozen != .none && q.pstate == .active then 0 else q.waitc }

/-- A path whose program order another's has gone on in (R322): its reads follow what the other's do. -/
def followOrder (q p : Path) : Path :=
  { p with floor := max p.floor q.floor, seqFloor := max p.seqFloor q.seqFloor, seen := joinKnow p.seen q.seen, locs := p.locs ++ q.locs }

/-- The path of a handler as an ERET leaves it (R182, R192): one that was Parked stays so unless it has been woken, in which
case it goes on where its wake put it unless the agent has changed TRAPPC. -/
def returnPath (t : Train) (h : Handler) (mode wbase : Word) (p : Path) : Path :=
  { p with
    mode := mode, wbase := wbase, pc := if h.wasParked && t.trapPc == h.haltPc then p.pc else t.trapPc,
    fetched := none, delay := 4, waitc := 0, frozen := .none,
    pstate := if h.wasParked && p.wake.isSome then .parked else .active }

/-- The return from a handler (R182, R185): MODE, window, PC and state of the path, the siblings' freeze ends, and a
pending halt, a pending trap or a step is taken; a reserved RMODE or a TRAPPC that fails R67 kills the train. -/
def leaveHandler (s : State) (core slot : Nat) (wbase : Word) (huid : Nat) (kpc : DWord) : State :=
  match trainAt s core slot with
  | none => s
  | some t =>
    match t.handler with
    | none => s
    | some h =>
      let mode : Word := BitVec.ofNat 32 (t.trapCause.toNat / 2048)
      if bitsOf mode.toNat 13 11 ≥ 6 || t.trapPc.toNat % 4 != 0 || !canonical t.trapPc then
        killTrain s core slot 0x10 kpc h.hmask
      else
        let uid := match nth none t.paths h.entry with | some p => p.uid | none => 0
        let own := (livePaths h.paths).flatMap fun (_, q) => q.reports
        let s := modTrain s core slot fun t => { t with
          handler := none,
          stepArmed := if h.agent then (if dbgStep t then some uid else none) else t.stepArmed,
          paths := t.paths.mapIdx fun i o => o.map fun q =>
            if i == h.entry then (livePaths h.paths).foldl (fun p x => followOrder x.2 p) { returnPath t h mode wbase q with reports := q.reports ++ own }
            else thawPath q }
        takeNext (handReports (inherit s huid uid) huid uid) core slot h.entry

end Sys2Proof.Machine
end

