-- ==== Sys2Proof/Machine/Operands.lean ====
section
/-! DEFINITION. Operands: the registers that fields name (R29, R31, R32, R153), immediates (R77, R78), active sets
(R28), packed elements (R43), and the writes of lane registers, predicates, scalars and the path mask (R25, R29). -/
namespace Sys2Proof.Machine

/-- What an instruction is executed with: the path and its train as they stand before it, its decoded form, the type
in force and its active set. -/
structure Ctx where
  r   : PathRef
  f   : Fields
  sp  : OpSpec
  t   : Train
  p   : Path
  ty  : ETy
  act : LaneSet
  len : Nat

/-- Predicate `n` of a lane; p0 reads 1 (R29). -/
def predOf (ln : Lane) (n : Nat) : Bool := n == 0 || ln.preds.getLsbD n

/-- A lane with predicate `n` written; a write to p0 is discarded (R29). -/
def setPred (ln : Lane) (n : Nat) (v : Bool) : Lane :=
  if n == 0 then ln
  else { ln with preds := if v then ln.preds ||| BitVec.ofNat 64 (2 ^ n) else ln.preds &&& ~~~(BitVec.ofNat 64 (2 ^ n)) }

/-- The active set of an instruction (R28). -/
def activeSet (t : Train) (p : Path) (f : Fields) : LaneSet :=
  let e := ext0Of f
  let (g, neg) := if e.go then (e.gp.toNat, e.gn) else (bitsOf p.mode.toNat 5 0, p.mode.getLsbD 6)
  if g == 0 then (if neg then 0 else p.mask)
  else
    LaneSet.ofPred fun l => p.mask.has l &&
      (match t.lanes[l]? with | some ln => predOf ln g != neg | none => false)

/-- The ring register of wK at a depth (R153). -/
def ringIx (depth k : Nat) : Nat := 8 * ((3 * depth + k / 8) % 13) + k % 8

/-- The register that a vector field code names at a depth (R32). -/
def regOfCode (depth code : Nat) : Option Reg :=
  if code < 16 then some (.fixed code) else if code < 48 then some (.ring (ringIx depth (code - 16))) else none

/-- The value of a register of a lane. -/
def laneReg (ln : Lane) (r : Reg) : Word :=
  match r with
  | .fixed n => nth 0 ln.v n
  | .ring n => nth 0 ln.ring n
  | .pred n => if predOf ln n then 1 else 0
  | .scalar _ => 0

/-- A lane with a register written. -/
def setLaneReg (ln : Lane) (r : Reg) (x : Word) : Lane :=
  match r with
  | .fixed n => { ln with v := updAt ln.v n fun _ => x }
  | .ring n => { ln with ring := updAt ln.ring n fun _ => x }
  | .pred n => setPred ln n (x != 0)
  | .scalar _ => ln

/-- A vector source of a lane: a register, a pair where `wide`, or the value of a code (R31, R32). -/
def rdV (t : Train) (depth l : Nat) (ln : Lane) (code : Nat) (wide : Bool) : Nat :=
  match regOfCode depth code with
  | some a =>
    let lo := (laneReg ln a).toNat
    if wide then
      match regOfCode depth (code + 1) with
      | some b => lo + 2 ^ 32 * (laneReg ln b).toNat
      | none => lo
    else lo
  | none =>
    match code with
    | 49 => l
    | 50 => l / 32
    | 51 => bitsOf t.trainId.toNat 4 0 * 96 + l
    | _ => 0

/-- A vector destination of a lane; code 48 discards (R32). -/
def wrV (depth : Nat) (ln : Lane) (code : Nat) (wide : Bool) (x : Nat) : Lane :=
  match regOfCode depth code with
  | some a =>
    let ln := setLaneReg ln a (BitVec.ofNat 32 x)
    if wide then
      match regOfCode depth (code + 1) with
      | some b => setLaneReg ln b (BitVec.ofNat 32 (x / 2 ^ 32))
      | none => ln
    else ln
  | none => ln

/-- DEPTH of the executing path. -/
def Ctx.depth (c : Ctx) : Nat := depthOf c.p
/-- A vector source field in the instruction's context. -/
def Ctx.v (c : Ctx) (l : Nat) (ln : Lane) (code : BitVec 6) (wide : Bool) : Nat := rdV c.t c.depth l ln code.toNat wide
/-- Lane `l` as it stands before the instruction. -/
def Ctx.lane (c : Ctx) (l : Nat) : Lane := nth ⟨[], [], 0, 0, 0, none, 0, [], none⟩ c.t.lanes l
/-- The crew-lane index of a lane (R39). -/
def Ctx.crewLane (c : Ctx) (l : Nat) : Nat := c.t.tix * 96 + l

/-- A scalar source: s0-s60 of the train, s61-s63 the path's mask (R24, R29). -/
def rdS (t : Train) (p : Path) (n : Nat) : Word :=
  if n < 61 then nth 0 t.scalars n else BitVec.ofNat 32 (p.mask.toNat >>> (32 * (n - 61)))
/-- A scalar source or pair (R31). -/
def rdS64 (t : Train) (p : Path) (n : Nat) (wide : Bool) : Nat :=
  if wide then (rdS t p n).toNat + 2 ^ 32 * (rdS t p (n + 1)).toNat else (rdS t p n).toNat
/-- A scalar source field in the instruction's context. -/
def Ctx.s (c : Ctx) (code : BitVec 6) (wide : Bool) : Nat := rdS64 c.t c.p code.toNat wide

/-- The immediate of an instruction, expanded by the row of a type (R77). -/
def expandImm (f : Fields) (row : ETy) : Option Nat :=
  match f.ext with
  | .l1 imm _ =>
    let x := imm.toNat
    some (match row with
      | .i32 | .n32 => wrapTo 32 (signedOf 16 x)
      | .i64 | .n64 | .fx64 => wrapTo 64 (signedOf 16 x)
      | .fp32 => x * 2 ^ 16
      | .fp64 => x * 2 ^ 48
      | _ => x * 2 ^ 16 + x)
  | .w _ lit =>
    let x := lit.toNat
    some (match row with
      | .i64 | .n64 | .fx64 => wrapTo 64 (signedOf 32 x)
      | .fp64 => x * 2 ^ 32
      | _ => x)
  | _ => none

/-- The immediate sign-extended to 64 bits: a displacement, or an offset in words (R78, R115, R221); 0 where there is
none. -/
def dispOf (f : Fields) : DWord :=
  match f.ext with
  | .l1 imm _ => sext64 16 imm.toNat
  | .w _ lit => sext64 32 lit.toNat
  | _ => 0

/-- The target of a PC-relative operand (R78). -/
def pcTarget (pc : DWord) (f : Fields) : DWord := pc + 4 * dispOf f

/-- The integer view of a type (R96). -/
def viewOf : ETy → ETy
  | .fx64 => .i64 | .fp64 => .n64 | .fp32 => .n32 | .fp16 | .bf16 => .n16 | .e5m2 | .e4m3 | .e2m1 => .n8 | t => t

/-- Source B of a lane: the immediate by the row of a type where there is one, else the field (R77). -/
def Ctx.vb (c : Ctx) (l : Nat) (ln : Lane) (row : ETy) (wide : Bool) : Nat :=
  match expandImm c.f row with
  | some x => x
  | none => c.v l ln c.f.b wide
/-- Source B of a scalar instruction (R77, R104). -/
def Ctx.sb (c : Ctx) (row : ETy) (wide : Bool) : Nat :=
  match expandImm c.f row with
  | some x => x
  | none => c.s c.f.b wide
/-- The third source of a lane: field C with a KIND-0 word, else the old value of D (R95). -/
def Ctx.vc (c : Ctx) (l : Nat) (ln : Lane) (wide : Bool) : Nat :=
  if hasExt0 c.f then c.v l ln (ext0Of c.f).c wide else c.v l ln c.f.d wide

/-- The number of elements of width `w` in a register (R43). -/
def elemCount (w : Nat) : Nat := if w ≥ 32 then 1 else 32 / w
/-- Element `e` of width `w` (R43). -/
def elemOf (w x e : Nat) : Nat := (x >>> (w * e)) % 2 ^ w
/-- A register made of its elements, by index (R43). -/
def packElems (w : Nat) (g : Nat → Nat) : Nat :=
  (List.range (elemCount w)).foldl (fun acc e => acc + (g e % 2 ^ w) * 2 ^ (w * e)) 0

/-- Change of the lanes of a set, each from its own state. -/
def mapLanes (lanes : List Lane) (m : LaneSet) (g : Nat → Lane → Lane) : List Lane :=
  lanes.mapIdx fun l ln => if m.has l then g l ln else ln

/-- The lanes of the active set are changed. -/
def Ctx.onLanes (c : Ctx) (s : State) (g : Nat → Lane → Lane) : State :=
  modTrain s c.r.core c.r.slot fun t => { t with lanes := mapLanes t.lanes c.act g }

/-- Each active lane's destination D is written (R93). -/
def Ctx.writeD (c : Ctx) (s : State) (wide : Bool) (g : Nat → Lane → Nat) : State :=
  c.onLanes s fun l ln => wrV c.depth ln c.f.d.toNat wide (g l ln)

/-- Each active lane's predicate D is written. -/
def Ctx.writeP (c : Ctx) (s : State) (g : Nat → Lane → Bool) : State :=
  c.onLanes s fun l ln => setPred ln c.f.d.toNat (g l ln)

/-- `n` free values, and the counter after them. -/
def freeList (k n : Nat) : List Word := (List.range n).map fun i => Config.freeWord (k + i)

/-- Whether a fill of a register of a frame gives a lane an unpredictable value (R167, R168). -/
def Lane.lostAt (ln : Lane) (frame k : Nat) : Bool :=
  frame < ln.lost && !(ln.kept.any fun x => x.1 == frame && x.2.testBit k)

/-- Some registers of a frame of a lane hold what the program last spilled or stored there (R157, R158). -/
def keepRegs (frame mask : Nat) (ln : Lane) : Lane :=
  if frame < ln.lost then
    { ln with kept := (frame, mask ||| (match ln.kept.find? fun x => x.1 == frame with | some x => x.2 | none => 0)) ::
        ln.kept.filter fun x => x.1 != frame }
  else ln

/-- Free values for the rings of some lanes, whose frames below a depth hold unpredictable values when they are next filled
(R167, R168). -/
def blankRings (s : State) (core slot : Nat) (m : LaneSet) (depth : Nat) : State :=
  let k0 := s.free
  let s := { s with free := s.free + 104 * m.card }
  modTrain s core slot fun t => { t with lanes := mapLanes t.lanes m fun l ln =>
    { ln with ring := freeList (k0 + 104 * (m.toList.takeWhile fun i => i < l).length) 104, lost := depth, kept := [] } }

/-- A write to the mask registers `lo` to `lo + n - 1`, which are s61-s63 less 61, of the path's mask (R25): lanes
written 0 are released, idle lanes written 1 are claimed, with windows that hold unpredictable values (R168). It breaks
the region (R188). In a handler it is discarded (R177). -/
def maskWrite (s : State) (r : PathRef) (lo n : Nat) (val : Nat) : State :=
  match trainAt s r.core r.slot, pathAt s r with
  | some t, some p =>
    if r.handler then s
    else
      let field : LaneSet := BitVec.ofNat 96 ((2 ^ (32 * n) - 1) * 2 ^ (32 * lo))
      let want : LaneSet := BitVec.ofNat 96 (val % 2 ^ (32 * n) * 2 ^ (32 * lo))
      let idle := (~~~(takenLanes t r.entry)).diff p.mask
      let mask := p.mask.diff field ||| (want &&& (p.mask ||| idle))
      let s := blankRings s r.core r.slot (mask.diff p.mask) (depthOf p)
      let s := modPath s r fun p => { p with mask := mask, region := { p.region with broken := true } }
      if mask == 0 then freePath s r .byExit ⟨p.lastPc, 0, r.entry⟩ else s
  | _, _ => s

/-- A scalar destination, or a pair where `wide`; s61-s63 are the path's mask (R25, R29). -/
def writeS (s : State) (r : PathRef) (n : Nat) (wide : Bool) (x : Nat) : State :=
  if n ≥ 61 then maskWrite s r (n - 61) (if wide then 2 else 1) x
  else
    modTrain s r.core r.slot fun t =>
      let l := updAt t.scalars n (fun _ => BitVec.ofNat 32 x)
      { t with scalars := if wide then updAt l (n + 1) (fun _ => BitVec.ofNat 32 (x / 2 ^ 32)) else l }

/-- The rounding environment of a lane: RMODE, FTZ and the inputs of Hash24, the count as it stands before the
instruction (R53-R56). -/
def Ctx.env (c : Ctx) (l : Nat) : FEnv :=
  ⟨bitsOf c.p.mode.toNat 13 11, c.p.mode.getLsbD 14, c.t.seed, c.crewLane l, (c.lane l).dic⟩

/-- Whether saturation is in force: ST in forms L and W, SATDEF in form S (R57); KIND 1 saturates per SATDEF (R75). -/
def Ctx.satOn (c : Ctx) : Bool := if hasExt0 c.f then (ext0Of c.f).sat else c.p.mode.getLsbD 15

/-- Whether the type in force is 64 bits wide. -/
def Ctx.wide (c : Ctx) : Bool := tyIs64 c.ty

/-- The registers that a vector field names, `n` of them. -/
def regsOf (depth code n : Nat) : List Reg := (List.range n).filterMap fun i =>
  if code < 48 then regOfCode depth (code + i) else none

/-- The number of 32-bit registers of an operand width. -/
def opRegs (w : OpW) (ty : ETy) : Nat :=
  match w with
  | .w32 => 1 | .w64 => 2 | .w128 => 4 | .ty => if tyIs64 ty then 2 else 1

/-- The registers of a field of a class: sources, or destinations. -/
def clsRegs (depth : Nat) (ty : ETy) (c : Cls) (v : Nat) : List Reg × List Reg :=
  match c with
  | .vdst w => ([], regsOf depth v (opRegs w ty))
  | .vsrc w => (regsOf depth v (opRegs w ty), [])
  | .vindex => (regsOf depth v 1, [])
  | .ssrc w => ((List.range (opRegs w ty)).map fun i => .scalar (v + i), [])
  | .sdst w | .sdstNoMask w => ([], (List.range (opRegs w ty)).map fun i => .scalar (v + i))
  | .ballot => ([], (List.range 3).map fun i => .scalar (v + i))
  | .pred => ([.pred v], [])
  | .predHalf => ((List.range 32).map fun i => .pred (v + i), [])
  | .desc m _ => (if m == 1 then [] else (List.range m).map fun i => .scalar (v + i), [])
  | _ => ([], [])

/-- The opcodes with a third source, or that keep part of their destination (R95, R110). -/
def readsOld (op : Nat) : Bool := [0x24, 0x31, 0x3B, 0x3C, 0x53, 0x58, 0x59, 0x5A, 0x5D, 0xC2].contains op

/-- Whether field C names the third source (R95). -/
def thirdIsC (c : Ctx) : Bool := hasExt0 c.f && c.sp.c != .unused

/-- What the fields of an instruction leave unsaid: the predicate of a SEL (R100), the flag of a WLPOP (R357), the link pair
of a RET (R163). -/
def impliedUses (c : Ctx) : List Reg × List Reg :=
  match c.sp.op with
  | 0x36 => (if hasExt0 c.f then [] else [.pred c.f.x.toNat], [])
  | 0xE6 => ([], [.pred (subOf c.f)])
  | 0x16 => (regsOf c.depth 38 2, [])
  | _ => ([], [])

/-- The registers that an instruction's fields name as sources and as destinations. -/
def fieldUses (c : Ctx) : List Reg × List Reg :=
  let f := c.f
  let e := ext0Of f
  let d0 := clsRegs c.depth c.ty c.sp.d f.d.toNat
  let d : List Reg × List Reg := match c.sp.d with
    | .pred => ([], [.pred f.d.toNat])
    | .predHalf => ([], (List.range 32).map fun i => .pred (f.d.toNat + i))
    | _ => d0
  let a := if c.sp.immA && hasImm f then ([], []) else clsRegs c.depth c.ty c.sp.a f.a.toNat
  let b := if c.sp.immB && hasImm f then ([], []) else clsRegs c.depth c.ty c.sp.b f.b.toNat
  let x := if readsOld c.sp.op then (if thirdIsC c then clsRegs c.depth c.ty c.sp.c e.c.toNat else (d.2, []))
    else if hasExt0 f then clsRegs c.depth c.ty c.sp.c e.c.toNat else ([], [])
  let g := if e.go then e.gp.toNat else bitsOf c.p.mode.toNat 5 0
  ([.pred g] ++ a.1 ++ b.1 ++ x.1 ++ d.1, d.2)

/-- The registers that an instruction reads and those it writes (R142, R200); p0 is a constant, which no write changes
(R29). -/
def regUses (c : Ctx) : List Reg × List Reg :=
  let u := fieldUses c
  let v := impliedUses c
  ((u.1 ++ v.1).filter (· != .pred 0), (u.2 ++ v.2).filter (· != .pred 0))

end Sys2Proof.Machine
end

