-- ==== Sys2Proof/Machine/Prices.lean ====
section
/-! DEFINITION. What issue needs to know of each instruction: its price (R126, R203-R206), whether it is heavy (R201),
when a dependent may issue (R200), whether it breaks a region (R188), whether it is privileged (R37, R38), whether it
is long-latency (R72), and whether its entry is a double fault inside a handler (R179). -/
namespace Sys2Proof.Machine

/-- The price classes of R126 and R205, and the flat prices. -/
inductive PClass where
  | simple | product | float | fused | special | table | cross | flat (n : Nat)
  deriving DecidableEq, Repr

/-- The column of a width: 8-bit, 16-bit, 32-bit, 64-bit (R204). -/
def colOf (w : Nat) : Nat := if w ≤ 8 then 0 else if w == 16 then 1 else if w == 32 then 2 else 3

/-- The price of a class in a column (R205). -/
def classPrice (k : PClass) (col : Nat) : Nat :=
  match k with
  | .simple => nth 0 [48, 48, 48, 80] col
  | .product => nth 0 [110, 100, 96, 200] col
  | .float => nth 0 [120, 120, 110, 220] col
  | .fused => nth 0 [0, 160, 150, 300] col
  | .special => nth 0 [0, 640, 600, 1800] col
  | .table => nth 0 [0, 700, 700, 0] col
  | .cross => nth 0 [180, 180, 160, 260] col
  | .flat n => n

/-- A memory price by width code (R206). -/
def byWidth (w : Width) (a b c : Nat) : PClass :=
  .flat (match w with | .w64 => b | .w128 => c | _ => a)

/-- The price of an MMA by its format code (R206). -/
def mmaPrice (x : Nat) : Nat := if x ≤ 1 then 472000 else if x ≤ 5 then 496000 else if x == 6 then 520000 else 640000

/-- The class of each instruction; a step that is no instruction costs nothing. -/
def priceClass (i : Instr) : PClass :=
  match i with
  | .nop _ | .setmode _ | .getsp _ | .setsp _ | .winstackWrite _ | .windepthWrite _ | .rampsetWrite _
  | .sampctlWrite _ | .dbgctlWrite _ => .flat 8
  | .region _ | .trap _ | .eret _ | .brk _ | .yield _ | .waitl _ | .bra _ | .brx _ | .jset _ | .jwait _ | .exit _
  | .tail _ => .flat 16
  | .call _ | .callx _ | .ret _ | .wflush _ => .flat 24
  | .iadd _ | .isub _ | .imin _ | .imax _ | .iabs _ | .and _ | .or _ | .xor _ | .andn _ | .shl _ | .shr _ | .sha _
  | .rot _ | .bfe _ | .bfi _ | .popc _ | .clz _ | .brev _ | .icmp _ | .sel _ | .mov _ | .movi _ | .lea _ | .iadds _
  | .bysel _ | .s2v _ | .plut _ | .p2v _ | .v2p _ => .simple
  | .imul _ | .imulhi _ | .imad _ | .idot4 _ => .product
  | .sadd _ | .ssub _ | .smul _ | .sand _ | .sor _ | .sxor _ | .sshl _ | .sshr _ | .scmp _ | .smov _ | .smovi _
  | .slea _ | .smin _ | .smax _ => .flat 12
  | .fadd _ | .fsub _ | .fmul _ | .fmin _ | .fmax _ | .fcmp _ | .fclass _ | .fcvt _ | .icvtf _ | .fcvti _ | .frnd _
  | .fscale _ => .float
  | .ffma _ | .fdot2 _ => .fused
  | .frcp _ | .frsq _ | .fsqrt _ | .fdiv _ | .fexp2 _ | .flog2 _ | .fsin _ | .fcos _ | .ftanh _ | .fsigm _ => .special
  | .ftab _ => .table
  | .tabld _ => .flat 4000
  | .lxch _ | .vote _ | .match _ | .reduce _ | .scan _ | .v2s _ => .cross
  | .ld w _ => byWidth w 240 320 480
  | .st w _ => byWidth w 200 260 400
  | .lds w _ => byWidth w 100 140 220
  | .sts w _ => byWidth w 90 120 200
  | .ldc w _ => byWidth w 140 180 280
  | .ldi w _ => byWidth w 360 440 600
  | .ldl w _ => byWidth w 260 340 520
  | .ldt w _ => byWidth w 420 500 660
  | .stt w _ => byWidth w 380 440 580
  | .atom _ => .flat 320
  | .red _ => .flat 280
  | .cas _ => .flat 340
  | .fxadd _ => .flat 300
  | .waitaddr _ => .flat 40
  | .fence _ => .flat 20
  | .rfence _ => .flat 60
  | .opfence _ => .flat 20
  | .pref _ => .flat 80
  | .cacheopWb _ | .cacheopEvict _ | .cacheopZero _ => .flat 200
  | .smap _ | .sunmap _ => .flat 2000
  | .tlbiPage _ | .tlbiAsid _ | .tlbiAll _ => .flat 1000
  | .mma f => .flat (mmaPrice f.x.toNat)
  | .mmag f => .flat (mmaPrice f.x.toNat + 24000)
  | .gather _ => .flat 12000
  | .mwait _ | .mwaitAll _ | .cwait _ | .cwaitAll _ | .ctest _ => .flat 16
  | .cpy _ => .flat 600
  | .cpyx _ => .flat 800
  | .qbind _ | .qfree _ => .flat 400
  | .nmc _ => .flat 800
  | .nmfence _ => .flat 40
  | .accrd _ | .accwrLoad _ | .accwrLoad64 _ | .accwrZero _ | .accwrFree _ => .flat 3000
  | .bararv _ => .flat 60
  | .barwt _ => .flat 40
  | .barsync _ => .flat 80
  | .rbarSync _ | .rbarArv _ | .rbarWt _ => .flat 200
  | .launch _ => .flat 4000
  | .wlpush _ | .wlpop _ | .wlpopDone _ => .flat 200
  | .quiesce _ | .quiesceTest _ => .flat 100
  | .intent _ | .intentG _ => .flat 400
  | .tokqBal _ | .tokqRate _ | .tokqChg _ | .tokqRsv _ | .curq _ => .flat 12
  | .stn _ => .flat 1200
  | .mcst _ => .flat 2000
  | .collAr _ | .collRs _ | .collAg _ | .collBc _ | .collBar _ => .flat 2400
  | .fbar _ => .flat 400
  | .viewqTag _ | .viewqState _ | .viewqLive _ | .viewqSeq _ => .flat 100
  | .vjoin _ => .flat 2000
  | .shsyncWait _ | .shsyncPub _ => .flat 100
  | _ => .flat 0

/-- The width that chooses the column (R204). -/
def priceWidth (i : Instr) (ty : ETy) : Nat :=
  match i with
  | .lea _ => 64
  | .bysel _ | .idot4 _ | .s2v _ | .v2s _ | .vote _ | .plut _ | .p2v _ | .v2p _ => 32
  | .fdot2 _ => 16
  | .fcvt f => if f.x.toNat < 2 then 32 else max (tyBits ty) (tyBits (ETy.ofCode f.x.toNat))
  | .icvtf f | .fcvti f => max (tyBits ty) (tyBits (ETy.ofCode f.x.toNat))
  | _ => tyBits ty

/-- The price of an instruction under the type in force (R203-R206). -/
def priceOf (i : Instr) (ty : ETy) : Nat := classPrice (priceClass i) (colOf (priceWidth i ty))

/-- The price of a frame transfer (R206). -/
def framePrice : Nat := 6000
/-- Whether a transfer is one of a frame, which is charged (R159). -/
def TenderKind.isFrame (k : TenderKind) : Bool := match k with | .spill _ _ | .fill _ _ => true | _ => false

/-- Whether an instruction is heavy (R201). -/
def isHeavy (i : Instr) (ty : ETy) : Bool :=
  match priceClass i with
  | .fused | .special | .table => true
  | .product | .float | .cross => priceWidth i ty == 64
  | _ => false

/-- The distance at which a dependent of a short-latency instruction may issue; none for a long-latency one (R200). -/
def depDistance (i : Instr) : Option Nat :=
  match priceClass i with
  | .special | .table => none
  | .product | .float | .fused => some 4
  | .cross => some 6
  | .simple => some 1
  | .flat n => if n == 8 || n == 12 || n == 16 || n == 24 then some 1 else none

/-- Whether an opcode is long-latency (R72). -/
def longLatency (op : Nat) : Bool := (0x60 ≤ op && op ≤ 0x6B) || (0x80 ≤ op && op ≤ 0xC9) || (0xF0 ≤ op && op ≤ 0xF6)

/-- Whether issuing the instruction breaks the path's region; a remote store and a mask write break it too, where they
take effect (R188). -/
def breaksRegion (i : Instr) : Bool :=
  match i with
  | .atom _ | .red _ | .cas _ | .fxadd _ | .bararv _ | .barsync _ | .rbarSync _ | .rbarArv _ | .rbarWt _ | .fbar _
  | .wlpush _ | .wlpop _ | .wlpopDone _ | .launch _ | .waitaddr _ | .yield _ | .mma _ | .mmag _ | .gather _ | .cpy _
  | .cpyx _ | .qbind _ | .qfree _ | .nmc _ | .accwrLoad _ | .accwrLoad64 _ | .accwrZero _ | .accwrFree _ | .stn _
  | .mcst _ | .collAr _ | .collRs _ | .collAg _ | .collBc _ | .collBar _ | .smap _ | .sunmap _ | .tlbiPage _
  | .tlbiAsid _ | .tlbiAll _ | .call _ | .callx _ | .ret _ | .exit _ | .tail _ => true
  | _ => false

/-- Whether the special register of an index may be read by an unprivileged path (R38). -/
def spReadAll (n : Nat) : Bool := n != 0x08 && !(0x0B ≤ n && n ≤ 0x12)
/-- Whether an index names a special register (R38). -/
def spAssigned (n : Nat) : Bool := n ≤ 0x13 || (0x20 ≤ n && n ≤ 0x2B)
/-- Whether the write of a special register is privileged (R38). -/
def spWritePriv (n : Nat) : Bool := 0x08 ≤ n && n ≤ 0x12

/-- Whether an instruction is privileged (R37, R38, R182, R239, R425, R438). -/
def isPrivileged (i : Instr) : Bool :=
  match i with
  | .eret _ | .tlbiPage _ | .tlbiAsid _ | .tlbiAll _ | .vjoin _ | .shsyncPub _ | .winstackWrite _ | .windepthWrite _
  | .rampsetWrite _ | .sampctlWrite _ | .dbgctlWrite _ => true
  | .getsp f => spAssigned f.a.toNat && !spReadAll f.a.toNat
  | .setsp f => spWritePriv f.d.toNat
  | _ => false

/-- Whether the instruction is a double fault inside a handler or the agent (R179). -/
def doubleFaults (i : Instr) : Bool :=
  match i with
  | .trap _ | .brk _ | .yield _ | .bararv _ | .barwt _ | .barsync _ | .rbarSync _ | .rbarArv _ | .rbarWt _ | .fbar _
  | .wlpop _ | .wlpopDone _ | .quiesce _ | .quiesceTest _ | .collAr _ | .collRs _ | .collAg _ | .collBc _
  | .collBar _ => true
  | _ => false

end Sys2Proof.Machine
end

