-- ==== Sys2Proof/Machine/Address.lean ====
section
/-! DEFINITION. Lane addresses and their checks: effective addresses (R221, R286, R249, R422), the outcome of each lane
(R222), the lanes that trap, park or are done (R174, R224), page-fault parking (R234), and reads through the separately
cached routes (R220, R250). -/
namespace Sys2Proof.Machine

/-- One lane of a memory instruction: its address and the outcome of its checks. For a trap outcome `ea` is what
TRAPADDR takes. -/
structure LaneAcc where
  lane : Nat
  ea   : DWord
  out  : LaneOut
  deriving DecidableEq, Repr

/-- The active lanes with their registers before the instruction, ascending. -/
def Ctx.actLanes (c : Ctx) : List (Nat × Lane) := c.act.toList.map fun l => (l, c.lane l)

/-- The index term of a lane, extended to 64 bits (R221). -/
def Ctx.index (c : Ctx) (l : Nat) (ln : Lane) : DWord :=
  let x := c.v l ln c.f.b false
  if (subOf c.f).testBit 2 then BitVec.ofNat 64 (x % 2 ^ 32) else sext64 32 x

/-- The base of a lane (R221). -/
def Ctx.base (c : Ctx) (l : Nat) (ln : Lane) : DWord :=
  if (subOf c.f).testBit 0 then BitVec.ofNat 64 (c.s c.f.a true) else BitVec.ofNat 64 (c.v l ln c.f.a true)

/-- The effective address of a lane (R221); `unit` is the entry's scale factor. -/
def Ctx.ea (c : Ctx) (unit : Nat) (l : Nat) (ln : Lane) : DWord :=
  let scale : DWord := if (subOf c.f).testBit 1 then BitVec.ofNat 64 unit else 1
  c.base l ln + c.index l ln * scale + dispOf c.f

/-- The address of an atomic: base and displacement, no index (R300). FXADD's immediate is no displacement. -/
def Ctx.atomEa (c : Ctx) (disp : Bool) (l : Nat) (ln : Lane) : DWord :=
  c.base l ln + (if disp then dispOf c.f else 0)

/-- The 32-bit base of a scratchpad operand (R285, R300). -/
def Ctx.scrBase (c : Ctx) (l : Nat) (ln : Lane) : Nat :=
  if (subOf c.f).testBit 0 then c.s c.f.a false else c.v l ln c.f.a false

/-- The scratchpad offset of a lane (R286). -/
def Ctx.scrOff (c : Ctx) (unit : Nat) (l : Nat) (ln : Lane) : Nat :=
  let scale := if (subOf c.f).testBit 1 then unit else 1
  (c.scrBase l ln + (c.index l ln).toNat * scale + (dispOf c.f).toNat) % 2 ^ 32

/-- The scratchpad offset of an atomic lane (R300). -/
def Ctx.atomOff (c : Ctx) (disp : Bool) (l : Nat) (ln : Lane) : Nat :=
  (c.scrBase l ln + (if disp then (dispOf c.f).toNat else 0)) % 2 ^ 32

/-- A crew's allocation: base and size in its cluster (R284). -/
def allocOf (s : State) (cluster : Nat) (crew : CrewRef) : Nat × Nat :=
  match (clusterAt s cluster).allocs.find? fun a => a.crew == crew with
  | some a => (a.base, a.size)
  | none => (0, 0)

/-- The check of a scratchpad offset (R286); the key of a passing lane is the offset itself. -/
def checkOff (s : State) (cluster : Nat) (crew : CrewRef) (size off : Nat) : LaneOut :=
  if off % size != 0 then .trap 0x05
  else if off + size > (allocOf s cluster crew).2 then .trap 0x07
  else .ok off

/-- The lanes of a scratchpad access. -/
def scrLanes (s : State) (c : Ctx) (size : Nat) (off : Nat → Lane → Nat) : List LaneAcc :=
  c.actLanes.map fun (l, ln) =>
    let o := off l ln
    ⟨l, BitVec.ofNat 64 o, checkOff s (clusterOf c.r.core) c.t.crew size o⟩

/-- Whether a path runs privileged (R37). -/
def Ctx.priv (c : Ctx) : Bool := c.r.handler

/-- The lanes of an access with their checks (R222). -/
def memLanes (s : State) (c : Ctx) (need : Need) (size : Nat) (ea : Nat → Lane → DWord) : List LaneAcc :=
  c.actLanes.map fun (l, ln) =>
    let a := ea l ln
    ⟨l, a, checkFor s c.r.core (some (c.r.slot, l)) c.t.asid c.priv need size a⟩

/-- The trap of a memory instruction: the lowest failing lane's cause and address, and the lanes with that cause
(R174). -/
def trapOf (l : List LaneAcc) : Option (Nat × LaneSet × DWord) :=
  (l.findSome? fun x => match x.out with | .trap k => some (k, x.ea) | _ => none).map fun (k, ea) =>
    (k, l.foldl (fun m x => if x.out == .trap k then m ||| LaneSet.single x.lane else m) 0, ea)

/-- Whether a lane's outcome is PARK. -/
def LaneAcc.parks (x : LaneAcc) : Bool := match x.out with | .park _ => true | _ => false

/-- The lanes that perform (R224). -/
def doneOf (relaxed : Bool) (l : List LaneAcc) : List LaneAcc :=
  if relaxed then l.filter fun x => !x.parks else l.takeWhile fun x => !x.parks

/-- The lanes left unfinished (R224). -/
def unfinished (relaxed : Bool) (l : List LaneAcc) : List LaneAcc :=
  if relaxed then l.filter LaneAcc.parks else l.dropWhile fun x => !x.parks

/-- A set of lanes from a list. -/
def lanesOf (l : List LaneAcc) : LaneSet := l.foldl (fun m x => m ||| LaneSet.single x.lane) 0

/-- The page of a parked address: the span of its non-present entry (R229, R235). -/
def pageOf (ea : DWord) (lvl : Nat) : Nat × Nat :=
  (lvl, ea.toNat / 2 ^ (if lvl == 3 then 39 else if lvl == 2 then 30 else if lvl == 1 then 21 else 16))

/-- The pages of the parked lanes, each with its lowest lane's address (R234). -/
def parkedPages (l : List LaneAcc) : List (DWord × Nat) :=
  (l.foldl (fun (acc : List (Nat × Nat) × List (DWord × Nat)) x =>
    match x.out with
    | .park lvl =>
      let pg := pageOf x.ea lvl
      if acc.1.contains pg then acc else (pg :: acc.1, acc.2 ++ [(x.ea, lvl)])
    | _ => acc) ([], [])).2

/-- A path parks for pages with an unfinished mask; a fault record is written for each page (R234, R235). -/
def parkForPages (s : State) (r : PathRef) (pc : DWord) (unf : LaneSet) (pages : List (DWord × Nat)) (kind : Nat) :
    State :=
  match trainAt s r.core r.slot with
  | none => s
  | some t =>
    let s := modPath s r fun p => { p with
      pc := pc, fetched := none, pstate := .parked, wake := some (.pageFault unf false), unf := none, stall := 0x0D,
      xfers := [] }
    pages.foldl (fun s (va, lvl) =>
      faultRecord s t.asid va kind lvl t.trainId (if r.handler then 0 else r.entry)) s

/-- Whether a lane's address came to be translated: it passed the checks before that, and the lane makes an access (R222,
R249); a lane whose index lies beyond its shard has no address (R422). -/
def LaneAcc.walks (x : LaneAcc) : Bool := canonical x.ea && x.out != .trap 0x05 && x.out != .trap 0x16 && x.out != .idle

/-- The effects on the state of translating the addresses of a path's lanes (R231, R237, R238). -/
def walkLanes (s : State) (c : Ctx) (l : List LaneAcc) : State :=
  l.foldl (fun s x => if x.walks then walkEffectFor s c.r.core (some (c.r.slot, x.lane)) c.t.asid x.ea else s) s

/-- The effects on the state of translating addresses that are no lane's (R231, R238). -/
def walkEffects (s : State) (core asid : Nat) (l : List LaneAcc) : State :=
  l.foldl (fun s x => if x.walks then walkEffect s core asid x.ea else s) s

/-- The number of distinct 256-byte virtual lines of a list of addresses (R245). -/
def lineCount (l : List DWord) : Nat := (uniq (l.map fun a => a.toNat / 256)).length

/-- The transaction entries in use on a core (R245). -/
def entriesUsed (k : Core) : Nat := k.txns.foldl (fun n x => n + x.entries) 0

/-- A holding is recorded. -/
def addTxn (s : State) (core : Nat) (x : Txn) : State := modCore s core fun k => { k with txns := x :: k.txns }
/-- A holding ends. -/
def dropTxn (s : State) (core id : Nat) : State :=
  modCore s core fun k => { k with txns := k.txns.filter fun x => x.id != id }

/-! ## Separately cached routes -/

/-- The separately cached routes (R220). -/
inductive Route where
  | constant | tile | instr | sampler
  deriving DecidableEq, Repr

/-- The lines that a route's cache holds. -/
def routeLines (s : State) (core : Nat) (g : Route) : List RouteLine :=
  match g with
  | .constant => (coreAt s core).constants
  | .tile => (coreAt s core).tiles
  | .instr => (coreAt s core).icache
  | .sampler => (clusterAt s (clusterOf core)).sampler

/-- The 64-byte lines that a route's cache has room for (R220). -/
def Route.capacity : Route → Nat
  | .constant => 512
  | .tile => 1024
  | .instr => 1024
  | .sampler => 4096

/-- A line enters a route's cache, in the place of one that the replacement picks where it is full. -/
def routeFill (s : State) (core : Nat) (g : Route) (x : RouteLine) : State :=
  let full := (routeLines s core g).length ≥ g.capacity
  let f := takeIn g.capacity (Config.freeWord s.free).toNat x
  let s := if full then { s with free := s.free + 1 } else s
  match g with
  | .constant => modCore s core fun k => { k with constants := f k.constants }
  | .tile => modCore s core fun k => { k with tiles := f k.tiles }
  | .instr => modCore s core fun k => { k with icache := f k.icache }
  | .sampler => modCluster s (clusterOf core) fun k => { k with sampler := f k.sampler }

/-- The bytes of a route that one choice covers: a word of an instruction (R69), a byte else (R250). -/
def Route.unit (g : Route) : Nat := if g == .instr then 4 else 1

/-- `n` bytes of a held line from an offset on: for each unit, its value at the fill or a later one, by the free value of a
number (R69, R250). -/
def RouteLine.pick (x : RouteLine) (unit seed off n : Nat) : List Byte :=
  if x.later.isEmpty then (x.data.drop off).take n
  else (List.range n).map fun i =>
    let u := (off + i) / unit
    match uniq ((x.data :: x.later).map fun v => (v.drop (u * unit)).take unit) with
    | [v] => nth 0 v ((off + i) % unit)
    | vs => nth 0 (nth [] vs ((Config.freeWord (seed + u)).toNat % vs.length)) ((off + i) % unit)

/-- The line of a route's cache that holds a key. -/
def routeAt (s : State) (core : Nat) (g : Route) (k : Nat) : Option RouteLine :=
  (routeLines s core g).find? fun x => x.line == k / 64

/-- A read of bytes inside one 64-byte line through a route: from the cache, or from the home, which is then cached.
The second component is the cause of bad data (R228). -/
def routeRead (s : State) (core asid : Nat) (g : Route) (k n : Nat) : List Byte × Option Nat × State :=
  match routeAt s core g k with
  | some x => (x.pick g.unit s.free (k % 64) n, none, if x.later.isEmpty then s else { s with free := s.free + 64 })
  | none =>
    let (bad, s) := demandRead s none asid k n
    match bad with
    | some cause => (memBytes s.mem k n, some cause, s)
    | none =>
      let data := memBytes s.mem (k / 64 * 64) 64
      ((data.drop (k % 64)).take n, none, routeFill s core g ⟨k / 64, data, []⟩)

/-! ## Tile layouts (R249) -/

/-- Whether an LDL descriptor breaks a rule of R249. -/
def ldlBad (w1 w3 : Nat) : Bool :=
  let kind := bitsOf w1 3 0
  let lbh := bitsOf w1 7 4
  let lbw := bitsOf w1 11 8
  let sw := bitsOf w1 14 12
  kind ≥ 4 || bitsOf w1 31 15 != 0 || w3 != 0 || (kind != 2 && (lbh != 0 || lbw != 0)) || lbh > 7 || lbw > 7 ||
  (kind != 3 && sw != 0)

/-- The byte offset of element (r, c) of size e. -/
def ldlOff (pitch w1 e r c : Nat) : Nat :=
  let lbh := bitsOf w1 7 4
  let lbw := bitsOf w1 11 8
  match bitsOf w1 3 0 with
  | 0 => r * pitch + c * e
  | 1 => c * pitch + r * e
  | 2 => (r >>> lbh) * pitch +
      ((c >>> lbw) * 2 ^ (lbh + lbw) + (r % 2 ^ lbh) * 2 ^ lbw + c % 2 ^ lbw) * e
  | _ => r * pitch + (((c * e) >>> 4) ^^^ (r % 2 ^ bitsOf w1 14 12)) * 16 + (c * e) % 16

/-- The descriptor words of an LDL. -/
def Ctx.ldlDesc (c : Ctx) : Nat × Nat × Nat × Nat :=
  let k := (ext0Of c.f).c.toNat
  let g (i : Nat) := (rdS c.t c.p (k + i)).toNat
  (g 0, g 1, g 2, g 3)

/-- The lanes of an LDL; a lane outside the tile reads zero and is checked for nothing. -/
def ldlLanes (s : State) (c : Ctx) (e : Nat) : List LaneAcc :=
  let (pitch, w1, rc, _) := c.ldlDesc
  c.actLanes.map fun (l, ln) =>
    let b := c.v l ln c.f.b false
    let r := b % 65536
    let col := b / 65536
    if r ≥ rc % 65536 || col ≥ rc / 65536 then ⟨l, 0, .idle⟩
    else
      let a : DWord := BitVec.ofNat 64 (c.s c.f.a true) + dispOf c.f + BitVec.ofNat 64 (ldlOff pitch w1 e r col)
      ⟨l, a, checkFor s c.r.core (some (c.r.slot, l)) c.t.asid c.priv .route e a⟩

/-! ## The shard table (R419-R423) -/

/-- A shard descriptor's fields. -/
structure ShardDsc where
  rank  : Nat
  elog  : Nat
  dims  : List Nat
  grid  : List Nat
  shmap : Nat
  deriving DecidableEq, Repr

/-- What binding a descriptor gives. -/
inductive ShardBind where
  | dsc (d : ShardDsc)
  | absent
  | malformed
  | bad (cause : Nat) (key : Nat)
  deriving DecidableEq, Repr

/-- Whether a physical range holds good data for a core's read: none, or a cause (R228). -/
def peekBad (s : State) (core : Option Nat) (k n : Nat) : Option Nat :=
  if !physOk s k n then some 0x07 else (granulesOf k n).findSome? fun g => peekGranule s core k n g

/-- The key of an ASID's entry of the shard directory (R419). -/
def shardDir (asid : Nat) : Nat := ctlBase + 0xF01000 + 16 * asid

/-- Descriptor `k` of an ASID (R420, R423). -/
def bindShard (s : State) (core : Option Nat) (asid k : Nat) : ShardBind :=
  let table := memLe s.mem (shardDir asid) 8
  match (granulesOf (shardDir asid) 16).findSome? fun g => peekGranule s core (shardDir asid) 16 g with
  | some c => .bad c (shardDir asid)
  | none =>
  if k ≥ memLe s.mem (shardDir asid + 8) 2 then .absent
  else if table % 4096 != 0 || leNat (memBytes s.mem (shardDir asid + 10) 6) != 0 then .malformed
  else
    let a := table + 64 * k
    match peekBad s core a 64 with
    | some c => .bad c a
    | none =>
      let b := memBytes s.mem a 64
      let rank := leAt b 0 1
      let elog := leAt b 1 1
      let dims := (List.range 5).map fun i => leAt b (4 + 4 * i) 4
      let grid := (List.range 5).map fun i => leAt b (24 + 2 * i) 2
      let above (l : List Nat) : Bool := (l.drop rank).all fun x => x == 1
      let prod := grid.foldl (· * ·) 1
      if leAt b 2 2 % 2 == 0 then .absent
      else if leAt b 2 2 != 1 || rank == 0 || rank > 5 || elog < 2 || elog > 4 || dims.any (· == 0) || grid.any (· == 0) ||
          !above dims || !above grid || (dims.zip grid).any (fun (d, g) => d % g != 0) || leAt b 34 6 != 0 ||
          leAt b 40 8 % 32 != 0 || leAt b 48 4 != prod || prod > 65536 || leAt b 52 12 != 0 then .malformed
      else .dsc ⟨rank, elog, dims, grid, leAt b 40 8⟩

/-- The shard that an index falls in, and the index within it (R422). -/
def shardOf (d : ShardDsc) (ix : List Nat) : Nat × List Nat :=
  let blk := (d.dims.zip d.grid).map fun (m, g) => m / g
  let co := (ix.zip blk).map fun (i, b) => i / b
  let sh := ((co.zip d.grid).foldl (fun (acc : Nat × Nat) (x, g) => (acc.1 + x * acc.2, acc.2 * g)) (0, 1)).1
  (sh, (ix.zip blk).map fun (i, b) => i % b)

/-- What an LDT or STT finds before its lanes are checked (R422, R423). -/
inductive ShardOut where
  | trapAll (cause : Nat) (addr : DWord)
  | lanes (l : List LaneAcc)
  deriving DecidableEq, Repr

/-- The lanes of an LDT or STT (R422). -/
def shardLanes (s : State) (c : Ctx) (need : Need) (size : Nat) : ShardOut :=
  let k := c.s c.f.b false % 4096
  let a := c.f.a.toNat
  let bad15 (mal : Bool) : ShardOut := .trapAll 0x15 (BitVec.ofNat 64 (k + if mal then 4096 else 0))
  match bindShard s (some c.r.core) c.t.asid k with
  | .absent => bad15 false
  | .malformed => bad15 true
  | .bad cause key => .trapAll cause (BitVec.ofNat 64 (key % 2 ^ 52))
  | .dsc d =>
    if 2 ^ d.elog != size || (if a < 16 then a + d.rank > 16 else a + d.rank > 48) then .trapAll 0x07 (BitVec.ofNat 64 k)
    else
      let ixs := c.actLanes.map fun (l, ln) =>
        (l, (List.range d.rank).map fun i => c.v l ln (BitVec.ofNat 6 (a + i)) false)
      let beyond (ix : List Nat) : Option (Nat × Nat) :=
        ((ix.zip d.dims).zipIdx).findSome? fun ((i, m), j) => if i ≥ m then some (i, j) else none
      let recs := uniq ((ixs.filter fun (_, ix) => (beyond ix).isNone).map fun (_, ix) => d.shmap + 32 * (shardOf d ix).1)
      match recs.findSome? fun r => (peekBad s (some c.r.core) r 32).map fun k => (k, r) with
      | some (cause, key) => .trapAll cause (BitVec.ofNat 64 (key % 2 ^ 52))
      | none =>
        if recs.any fun r => memLe s.mem (r + 10) 2 != 0 || memLe s.mem r 8 % 2 ^ d.elog != 0 then bad15 true
        else
          .lanes (ixs.map fun (l, ix) =>
            match beyond ix with
            | some (i, j) => ⟨l, BitVec.ofNat 64 (i + j * 2 ^ 32 + k * 2 ^ 36), .trap 0x16⟩
            | none =>
              let (sh, loc) := shardOf d ix
              let r := d.shmap + 32 * sh
              let off := ((loc.zipIdx).foldl (fun n (i, j) => n + i * memLe s.mem (r + 12 + 4 * j) 4) 0) * 2 ^ d.elog
              let ea := BitVec.ofNat 64 (memLe s.mem r 8 + off)
              ⟨l, ea, checkFor s c.r.core (some (c.r.slot, l)) c.t.asid c.priv need size ea⟩)

/-- SHARDVER of an ASID (R419, R425). -/
def shardVerOf (s : State) (asid : Nat) : Word :=
  match s.shardVer.find? fun (a, _) => a == asid with
  | some (_, v) => v
  | none => 0

end Sys2Proof.Machine
end

