-- ==== Sys2Proof/Machine/Divide.lean ====
section
/-! DEFINITION. How a path divides (R127), the targets of branches, calls and returns (R133, R134, R161, R163), the
transfers that window instructions, merges and deferred records demand of the Tender (R158, R161-R167), and the merge at
JWAIT (R136). -/
namespace Sys2Proof.Machine

/-- A group of a dividing path's lanes: its next PC, its lanes, its window base, and whether its PC is redirected
(R130). -/
structure PGroup where
  pc    : DWord
  mask  : LaneSet
  wbase : Word
  redir : Bool
  deriving DecidableEq, Repr

/-- A division: the keeping group, the groups that take entries, and those that become records, in the order in which
their records are written. -/
structure Division where
  keep    : PGroup
  entries : List (Nat × PGroup)
  recs    : List (TenderKind × PGroup)
  deriving DecidableEq, Repr

/-- The address of the next instruction. -/
def Ctx.nextPc (c : Ctx) : DWord := c.p.pc + BitVec.ofNat 64 (4 * c.len)

/-- The PC-relative target of the instruction. -/
def Ctx.relTarget (c : Ctx) : DWord := pcTarget c.p.pc c.f

/-- The lanes on which a BRA is taken (R133). -/
def Ctx.taken (c : Ctx) : LaneSet :=
  let neg := c.f.x.toNat.testBit 0
  let cond := LaneSet.ofPred fun l => c.act.has l && (predOf (c.lane l) c.f.a.toNat != neg)
  match bitsOf c.f.x.toNat 2 1 with
  | 0 => cond
  | 1 => if cond == 0 then 0 else c.p.mask
  | _ => if c.act != 0 && cond == c.act then c.p.mask else 0

/-- The target of a lane of BRX or CALLX (R134). -/
def Ctx.regTarget (c : Ctx) (l : Nat) : DWord :=
  if c.f.x.toNat.testBit 0 then BitVec.ofNat 64 (c.s c.f.a true)
  else BitVec.ofNat 64 (c.v l (c.lane l) c.f.a true)

/-- The link pair w22:w23 of a lane (R162). -/
def Ctx.linkOf (c : Ctx) (l : Nat) : DWord := BitVec.ofNat 64 (rdV c.t c.depth l (c.lane l) 38 true)

/-- The check of the targets of the active lanes, as BRX makes it (R134). -/
def checkTargets (c : Ctx) (target : Nat → DWord) : Option (Nat × LaneSet × DWord) :=
  let odd (l : Nat) : Bool := (target l).toNat % 4 != 0
  let far (l : Nat) : Bool := !canonical (target l)
  match c.act.toList.find? fun l => odd l || far l with
  | none => none
  | some l =>
    if odd l then some (0x05, LaneSet.ofPred fun k => c.act.has k && odd k, target l)
    else some (0x07, LaneSet.ofPred fun k => c.act.has k && far k, target l)

/-- Insertion of a lane into the groups by target. -/
def groupInsert (gs : List (DWord × LaneSet)) (pc : DWord) (l : Nat) : List (DWord × LaneSet) :=
  match gs with
  | [] => [(pc, LaneSet.single l)]
  | (q, m) :: r => if q == pc then (q, m ||| LaneSet.single l) :: r else (q, m) :: groupInsert r pc l

/-- The lanes of a set grouped by target, in the order of their lowest lanes. -/
def groupBy (m : LaneSet) (target : Nat → DWord) : List (DWord × LaneSet) :=
  m.toList.foldl (fun gs l => groupInsert gs (target l) l) []

/-- The lowest lane of a group, for ordering. -/
def PGroup.low (g : PGroup) : Nat := g.mask.lowest.getD 96

/-- A group put in its place among groups in ascending order of their lowest lanes. -/
def insertGroup (g : PGroup) (gs : List PGroup) : List PGroup :=
  match gs with
  | [] => [g]
  | x :: r => if g.low ≤ x.low then g :: x :: r else x :: insertGroup g r

/-- Groups in ascending order of their lowest lane. -/
def sortGroups (gs : List PGroup) : List PGroup := gs.foldr insertGroup []

/-- The groups of a BRA: the taken lanes keep the entry; where their target is the next address, all lanes have one next PC
(R19, R127). -/
def braGroups (c : Ctx) : List PGroup :=
  let t := c.taken
  let taken : PGroup := ⟨c.relTarget, t, c.p.wbase, c.relTarget != c.nextPc⟩
  let fall : PGroup := ⟨c.nextPc, c.p.mask.diff t, c.p.wbase, false⟩
  if t == 0 then [fall] else if fall.mask == 0 then [taken]
  else if c.relTarget == c.nextPc then [{ fall with mask := c.p.mask }] else [taken, fall]

/-- The groups of a BRX: the keeping group holds the lowest lane of the active set (R127, R134). -/
def brxGroups (c : Ctx) : List PGroup :=
  let dest (l : Nat) : DWord := if c.act.has l then c.regTarget l else c.nextPc
  let gs := (groupBy c.p.mask dest).map fun (pc, m) => (⟨pc, m, c.p.wbase, pc != c.nextPc⟩ : PGroup)
  match c.act.lowest with
  | none => gs
  | some l => (gs.filter fun g => g.mask.has l) ++ gs.filter fun g => !g.mask.has l

/-- The window base after a call (R161). -/
def calledBase (p : Path) : Word := mkWbase (depthOf p + 1) (min (resOf p) 2 + 1)
/-- The window base after a return (R163). -/
def returnedBase (p : Path) : Word := mkWbase (depthOf p - 1) (resOf p - 1)

/-- The groups of a call or a return: the moving groups with their targets, the one that holds the lowest active lane
first, then the lanes that do not move (R161, R163). -/
def movingGroups (c : Ctx) (target : Nat → DWord) (wbase : Word) : List PGroup :=
  let gs := (groupBy c.act target).map fun (pc, m) => (⟨pc, m, wbase, pc != c.nextPc⟩ : PGroup)
  let stay := c.p.mask.diff c.act
  let rest := gs.drop 1 ++ (if stay == 0 then [] else [⟨c.nextPc, stay, c.p.wbase, false⟩])
  gs.take 1 ++ sortGroups rest

/-- The target of a call's lane. -/
def callTarget (c : Ctx) (indirect : Bool) (l : Nat) : DWord := if indirect then c.regTarget l else c.relTarget

/-- The record indices in use, other than those of a path's own records under way (R155). -/
def usedRecs (s : State) (r : PathRef) (t : Train) : List Nat :=
  let ix : TenderKind → Option Nat := fun k => match k with | .record _ _ _ i => some i | _ => none
  t.deferred.map (·.idx) ++ t.refills.map (·.what.idx) ++
  ((coreAt s r.core).tender.filterMap fun j =>
    if j.who.slot == r.slot && j.who != r && !j.who.handler then ix j.kind else none) ++
  ((livePaths t.paths).flatMap fun (i, p) => if i == r.entry then [] else p.xfers.filterMap ix)

/-- The lowest index not in a list; 88 records exist (R21). -/
def lowestUnused (used : List Nat) : Nat := ((List.range 96).find? fun i => !used.contains i).getD 96

/-- The division of a path into groups, the keeping group first (R127); none where a handler lacks entries (R177). -/
def divide (s : State) (c : Ctx) (groups : List PGroup) : Option Division :=
  match groups with
  | [] => none
  | keep :: rest =>
    let rest := sortGroups rest
    let free := freeEntries c.t c.r.handler
    let placed := free.zip rest
    let left := (rest.drop free.length).reverse
    if c.r.handler && !left.isEmpty then none
    else
      let mine := c.p.xfers ++ ((coreAt s c.r.core).tender.filterMap fun j => if j.who == c.r then some j.kind else none)
      let used := usedRecs s c.r c.t
      let recs := (left.foldl (fun (acc : List Nat × List (TenderKind × PGroup)) g =>
        let same (k : TenderKind) : Bool := match k with
          | .record m pc w i => m == g.mask && pc == g.pc && w == g.wbase && !acc.1.contains i
          | _ => false
        match mine.find? same with
        | some (.record m pc w i) => (i :: acc.1, acc.2 ++ [(TenderKind.record m pc w i, g)])
        | _ =>
          let i := lowestUnused acc.1
          (i :: acc.1, acc.2 ++ [(TenderKind.record g.mask g.pc g.wbase i, g)])) (used, [])).2
      some ⟨keep, placed, recs⟩

/-- The transfers not yet made for the next instruction of the path. -/
def missing (c : Ctx) (jobs : List TenderKind) : List TenderKind := jobs.filter fun j => !c.p.xfers.contains j

/-- The spills of the resident caller frames of a path, oldest first (R165). -/
def flushJobs (p : Path) (lanes : LaneSet) : List TenderKind :=
  (List.range (resOf p)).map fun i => .spill (depthOf p - resOf p + i) lanes

/-- The spills and the fill of a call or return with an active set (R161, R163). -/
def callJobs (c : Ctx) (groups : List PGroup) : List TenderKind :=
  if resOf c.p == 3 then
    groups.filterMap fun g => if g.mask &&& c.act == 0 then none else some (.spill (depthOf c.p - 3) g.mask)
  else []
/-- The fill of a return (R163). -/
def retJobs (c : Ctx) : List TenderKind := if resOf c.p == 0 then [.fill (depthOf c.p - 1) c.act] else []

/-- The path of a group that leaves its parent's entry (R127). -/
def splitPath (p : Path) (uid : Nat) (g : PGroup) : Path :=
  { p with uid := uid, pc := g.pc, mask := g.mask, wbase := g.wbase, pending := [], delay := if g.redir then 4 else 0,
           fetched := none, reports := [], trapDue := none, unf := none, xfers := [], got := [], waitc := 0, stall := 0 }

/-- All groups of a division take their PCs and masks at once (R127 step 6). -/
def commitDivision (s : State) (r : PathRef) (d : Division) : State :=
  match pathAt s r with
  | none => s
  | some p =>
    let s := modPath s r fun p => { p with pc := d.keep.pc, mask := d.keep.mask, wbase := d.keep.wbase,
                                           delay := if d.keep.redir then 4 else 0, fetched := none }
    let s := d.entries.foldl (fun s (e, g) =>
      let (uid, s) := fresh s
      let s := inherit s p.uid uid
      modTrain s r.core r.slot fun t =>
        withPaths t r.handler (updAt (pathsOf t r.handler) e fun _ => some (splitPath p uid g))) s
    d.recs.foldl (fun s (k, g) =>
      match k with
      | .record _ _ _ i =>
        let (uid, s) := fresh s
        let s := inherit s p.uid uid
        modTrain s r.core r.slot fun t => { t with deferred := ⟨uid, g.mask, p.jids, i⟩ :: t.deferred }
      | _ => s) s

/-- The 64-byte record of a deferred path (R20). -/
def recordBytes (pc : DWord) (mask : LaneSet) (mode wbase : Word) (jids : BitVec 16) : List Byte :=
  leBytes 8 pc.toNat ++ leBytes 12 mask.toNat ++ leBytes 4 mode.toNat ++ leBytes 4 wbase.toNat ++
  leBytes 2 jids.toNat ++ leBytes 34 0

/-- The virtual address of a frame's slot (R155). -/
def slotVa (t : Train) (frame : Nat) : DWord := winBase t + BitVec.ofNat 64 (9216 * frame)
/-- The virtual address of a record (R155). -/
def recordVa (t : Train) (idx : Nat) : DWord := winBase t + BitVec.ofNat 64 (9216 * framesOf t + 64 * idx)
/-- The address of register K of a lane in a frame's slot (R155). -/
def slotRegVa (t : Train) (frame k l : Nat) : DWord := slotVa t frame + BitVec.ofNat 64 (384 * k + 4 * l)

/-! ## JWAIT -/

/-- The other path of the table that is Parked at JWAIT j (R136). -/
def jwaitPeer (t : Train) (handler : Bool) (entry j : Nat) : Option (Nat × Path) :=
  (livePaths (pathsOf t handler)).find? fun (i, p) => i != entry && p.pstate == .parked && atJwait j p

/-- The transfers that a merge demands (R167). -/
def mergeJobs (p q : Path) : List TenderKind :=
  if depthOf p == depthOf q then
    let (big, small) := if resOf p ≥ resOf q then (p, q) else (q, p)
    (flushJobs big big.mask).take (resOf big - resOf small)
  else flushJobs p p.mask ++ flushJobs q q.mask

/-- Whether two region records are identical (R188); what each has seen of its obligations aside. -/
def Region.same (a b : Region) : Bool :=
  a == { b with preds := a.preds, loaded := a.loaded, hit := a.hit, written := a.written, breach := a.breach }

/-- A region record with what another path has seen of the same region's obligations. -/
def Region.join (a b : Region) : Region :=
  { a with preds := uniq (a.preds ++ b.preds), loaded := uniq (a.loaded ++ b.loaded), hit := uniq (a.hit ++ b.hit),
           written := a.written.map (fun x => (x.1, x.2 ||| b.wrote x.1)) ++ b.written.filter (fun x => a.wrote x.1 == 0),
           breach := a.breach || b.breach }

/-- The merged path of two that meet at JWAIT, in the lower entry (R35, R136, R167, R188). -/
def mergedPath (low high : Path) : Path :=
  let owner := if (low.mask.lowest.getD 96) < (high.mask.lowest.getD 96) then low else high
  let wbase := if depthOf low == depthOf high then mkWbase (depthOf low) (min (resOf low) (resOf high))
    else mkWbase (depthOf owner) 0
  { followOrder high low with
    mask := low.mask ||| high.mask, jids := low.jids ||| high.jids, mode := owner.mode, wbase := wbase,
    reports := low.reports ++ high.reports, pending := [], producers := low.producers ++ high.producers,
    region := if low.region.same high.region then low.region.join high.region else { owner.region with broken := true } }

/-- The lanes whose windows a merge of unequal depths leaves unpredictable (R167). -/
def mergeLost (p q : Path) : LaneSet :=
  if depthOf p == depthOf q then 0
  else if (p.mask.lowest.getD 96) < (q.mask.lowest.getD 96) then q.mask else p.mask

/-- A carrier arrives at JWAIT j: it merges with the path parked there, or parks, and the wait may complete (R136). -/
def arriveJwait (s : State) (r : PathRef) (j : Nat) : State :=
  match trainAt s r.core r.slot, pathAt s r with
  | some t, some p =>
    let park (p : Path) : Path := { p with pstate := .parked, wake := some (.jwait j), stall := 0x10 }
    match jwaitPeer t r.handler r.entry j with
    | none =>
      modTrain (modPath s r park) r.core r.slot fun t => settleTrain t r.handler
    | some (i, q) =>
      let (lo, hi, pl, ph) := if r.entry < i then (r.entry, i, p, q) else (i, r.entry, q, p)
      let m := park (mergedPath pl ph)
      let s := blankRings s r.core r.slot (mergeLost p q) (depthOf m)
      let s := handReports (inherit s ph.uid pl.uid) ph.uid pl.uid
      let s := modTrain s r.core r.slot fun t =>
        let ps := updAt (updAt (pathsOf t r.handler) lo fun _ => some m) hi fun _ => none
        settleTrain (withPaths t r.handler ps) r.handler
      if r.handler then s else reactivate s r.core r.slot hi
  | _, _ => s

end Sys2Proof.Machine
end

