-- ==== Sys2Proof/Machine/Remote.lean ====
section
/-! DEFINITION. Traffic to peer packages: flits and their tokens (R396, R207), the write-combining buffer (R406, R407),
failure reports (R405, R408), and remote requests (R401, R402, R409). -/
namespace Sys2Proof.Machine

/-- The ASID that the error log names for a request through a fabric port (R369). -/
def fabricAsid : Nat := 0xFFFFFFFE

/-- A packet of some flits leaves through a port (R396); it waits behind the port's earlier packets, and while the die's bucket
stands at its floor (R362). -/
def sendPacket (s : State) (port flits : Nat) (m : OutMsg) : State :=
  if unitPaid s (port / 4) && !(s.portQ.any fun x => x.1 == port) then send (dieDraw s (port / 4) (1000 * flits)) m
  else { s with portQ := s.portQ ++ [(port, flits, m)] }

/-- The packets that wait at a die's ports leave in order, as long as its bucket stands above its floor (R362). -/
def flushPorts (s : State) (die : Nat) : State :=
  s.portQ.foldl (fun s x =>
    if x.1 / 4 == die && unitPaid s die then send (dieDraw { s with portQ := s.portQ.erase x } die (1000 * x.2.1)) x.2.2
    else s) s

/-- The entry of a depot group in the group route table (R397). -/
def groupRoute (s : State) (g : Nat) : Option Word := (s.groupRoutes.find? fun x => x.1 == g).map (·.2)
/-- Whether a depot group is valid. -/
def groupRouted (s : State) (g : Nat) : Bool := match groupRoute s g with | some w => w.getLsbD 8 | none => false
/-- The port towards a group's root depot. -/
def groupPort (s : State) (g : Nat) : Nat := match groupRoute s g with | some w => bitsOf w.toNat 3 0 | none => 0

/-- The port towards the root depot of a collective group: that of its depot group, DGRP (R397, R426). -/
def collPort (s : State) (group : Nat) : Nat :=
  match s.groups.find? fun x => x.id == group with | some x => groupPort s x.dgrp | none => 0

/-- Whether the port of a collective group works (R434). -/
def groupUp (s : State) (group : Nat) : Bool := !(nth ⟨false, 0, false⟩ s.ports (collPort s group)).failed

/-- A message of a group leaves: a header flit and the flits of its data (R396). One whose port has failed goes nowhere (R434). -/
def sendGroup (s : State) (group bytes : Nat) (m : OutMsg) : State :=
  if groupUp s group then sendPacket s (collPort s group) (1 + (bytes + 63) / 64) m else s

/-- A message of a group arrives: a header flit and the flits of its data (R396, R207). -/
def takeGroup (s : State) (group bytes : Nat) : State :=
  dieDraw s (collPort s group / 4) (1000 * (1 + (bytes + 63) / 64))

/-- Whether the port of a group takes messages (R362). -/
def groupTakes (s : State) (group : Nat) : Bool := unitPaid s (collPort s group / 4)

/-- The 64-byte sectors of a line that hold a masked byte (R396). -/
def sectorsOf (mask : BitVec 256) : Nat :=
  ((List.range 4).filter fun i => (mask >>> (64 * i)).setWidth 64 != (0 : BitVec 64)).length

/-- A step that the package itself will take next is queued. -/
def queueStep (s : State) (i : Instr) : State := { s with agenda := s.agenda ++ [i] }

/-- The peer that a packet is for, where it is a request to a peer or an answer to one. -/
def OutMsg.towards (m : OutMsg) : Option Nat :=
  match m with
  | .readReq p _ _ _ _ | .readResp p _ _ _ | .write p _ _ _ _ _ | .writeAck p _ _ | .atomicReq p _ _ _ _ _ _ _ _ _ _ _ _ _ _
  | .atomicResp p _ _ _ | .notify p _ _ _ _ _ _ _ _ _ => some p
  | _ => none

/-- The package's own answer to a request of its that a packet carries, the peer being lost (R409). -/
def lostAnswer (s : State) (m : OutMsg) : Option Instr :=
  match m with
  | .readReq _ _ id _ _ | .atomicReq _ _ id _ _ _ _ _ _ _ _ _ _ _ _ => some (.remoteResponse id .lost [])
  | .write _ _ id _ _ _ =>
    if s.outWrites.any fun w => w.id == id then some (.writeAcknowledgement id .lost)
    else (s.cores.zipIdx).findSome? fun (k, i) => if k.wc.any fun e => e.id == id then some (.wcAck i id .lost) else none
  | .notify _ _ id _ _ _ _ _ _ last => if last then some (.writeAcknowledgement id .lost) else none
  | _ => none

/-- Packets towards a lost peer that still wait at a port are not sent: the package answers its requests itself, and its answers
to that peer fall away (R409, R410). -/
def dropQueued (s : State) (peer : Nat) : State :=
  let mine := s.portQ.filter fun x => x.2.2.towards == some peer
  { s with portQ := s.portQ.filter fun x => x.2.2.towards != some peer,
           agenda := s.agenda ++ mine.filterMap fun x => lostAnswer s x.2.2 }

/-- The reasons of R405 for an outcome of a write, none where it was applied (R404). -/
def failReason (o : RemoteOutcome) : Option Nat :=
  match o with
  | .performed | .poisoned => none
  | .lost => some 0
  | .refused | .refusedWs => some 1
  | .uncorrectable => some 2

/-- The cause that an outcome gives a lane or a copy; `loss` is that of a lost peer (R404). -/
def outcomeCause (o : RemoteOutcome) (loss : Nat) : Option Nat :=
  match o with
  | .performed => none
  | .refused => some 0x07
  | .refusedWs => some 0x09
  | .poisoned => some 0x0A
  | .uncorrectable => some 0x0B
  | .lost => some loss

/-- TRAPADDR for cause 0x14 (R405). -/
def lossAddr (line peer reason kind : Nat) : DWord :=
  BitVec.ofNat 64 (line % 2 ^ 44 + peer % 4096 * 2 ^ 44 + reason % 16 * 2 ^ 56 + kind % 16 * 2 ^ 60)

/-- A failure report reaches the paths that hold it; where none of them lives, their trains, and where a train has
ended, its drain error (R408, R149). -/
def giveReport (s : State) (holders trains : List Nat) (rep : Report) : State :=
  let add (p : Path) : Path := if holders.contains p.uid then { p with reports := p.reports ++ [rep] } else p
  let has (t : Train) : Bool := (livePaths t.paths).any (fun (_, p) => holders.contains p.uid) ||
    (match t.handler with | some h => (livePaths h.paths).any fun (_, p) => holders.contains p.uid | none => false)
  let take (t : Train) : Train :=
    if has t then { t with paths := t.paths.map (Option.map add),
                           handler := t.handler.map fun h => { h with paths := h.paths.map (Option.map add) } }
    else if trains.contains t.uid then
      if t.ended.isSome then { t with drainErr := true } else { t with reports := t.reports ++ [rep] }
    else t
  { s with cores := s.cores.map fun k => { k with
      slots := k.slots.map (Option.map take),
      trackers := k.trackers.map (Option.map fun x => { x with train := take x.train }) } }

/-- The draining entries of a core that may be sent are sent: each waits until no older entry of its line awaits
acknowledgement; towards a lost peer the answer is the package's own (R407, R409). -/
def wcSend (s : State) (core : Nat) : State :=
  let wc := (coreAt s core).wc.take 64
  let (_, s) := wc.foldl (fun (acc : List (Nat × Nat) × State) e =>
    let (seen, s) := acc
    let key := (e.peer, e.line)
    if e.draining && !e.sent && !seen.contains key then
      let s := modCore s core fun k => { k with wc := k.wc.map fun x => if x.id == e.id then { x with sent := true } else x }
      let port := routePort s e.peer
      (key :: seen,
        if routeLost s e.peer then queueStep s (.wcAck core e.id .lost)
        else sendPacket s port (1 + sectorsOf e.mask) (.write e.peer port e.id e.line e.mask e.data))
    else (key :: seen, s)) ([], s)
  s

/-- Entries begin to drain; a lane that stands behind the 64 has no entry yet (R407). -/
def wcDrain (s : State) (core : Nat) (which : WcEntry → Bool) : State :=
  if ((coreAt s core).wc.take 64).any fun e => which e && !e.draining then
    wcSend (modCore s core fun k => { k with
      wc := (k.wc.take 64).map (fun e => if which e then { e with draining := true } else e) ++ k.wc.drop 64 }) core
  else s

/-- The mask of bytes [off, off + n) of a line. -/
def lineMask (off n : Nat) : BitVec 256 := BitVec.ofNat 256 ((2 ^ n - 1) * 2 ^ off)

/-- A line's data with bytes merged in. -/
def mergeBytes (data : List Byte) (off : Nat) (bs : List Byte) : List Byte :=
  data.take off ++ bs ++ data.drop (off + bs.length)

/-- A store lane enters the write-combining buffer (R407). Beyond 64 entries a lane waits for one to be free: it stands
in the list behind them, and the oldest open entry drains. -/
def wcStore (s : State) (core peer pa : Nat) (bs : List Byte) (uid train : Nat) (ver : Option (Nat × Word)) : State :=
  let line := pa / 256
  let off := pa % 256
  let vers := match ver with | some v => [v] | none => []
  let add (l : List Nat) (x : Nat) : List Nat := if l.contains x then l else x :: l
  let isOpen (e : WcEntry) : Bool := e.peer == peer && e.line == line && !e.draining
  let wc := (coreAt s core).wc
  if wc.any isOpen then
    let merge (e : WcEntry) : WcEntry := { e with
      mask := e.mask ||| lineMask off bs.length, data := mergeBytes e.data off bs, paths := add e.paths uid,
      holders := add e.holders uid, trains := add e.trains train, shver := e.shver ++ vers }
    let s := modCore s core fun k => { k with wc := k.wc.map fun e => if isOpen e then merge e else e }
    wcDrain s core fun e => e.mask == BitVec.allOnes 256
  else
    let (id, s) := fresh s
    let e : WcEntry := ⟨id, peer, line, lineMask off bs.length, mergeBytes (List.replicate 256 0) off bs, [uid], [uid],
      [train], s.time, false, false, vers⟩
    let s := modCore s core fun k => { k with wc := k.wc ++ [e] }
    if wc.length < 64 then s
    else
      match wc.find? fun x => !x.draining with
      | some o => wcDrain s core fun x => x.id == o.id
      | none => s

/-- A remote request leaves the package; towards a lost peer the answer is the package's own (R401, R402, R409). -/
def sendRemote (s : State) (q : RemoteReq) (m : Nat → OutMsg) : State :=
  let port := routePort s q.peer
  let s := { s with remotes := s.remotes ++ [{ q with port := port }] }
  if routeLost s q.peer then queueStep s (.remoteResponse q.id .lost []) else sendPacket s port 1 (m port)

/-- Whether a granule of a peer has been asked for. -/
def asked (l : List PeerGot) (peer gran : Nat) : Bool := l.any fun x => x.peer == peer && x.gran == gran

/-- A remote load of one granule for LAUNCH (R346, R401): of a path, or of the conductor. -/
def askLaunch (s : State) (core : Nat) (uid : Option Nat) (peer gran : Nat) : State :=
  let (id, s) := fresh s
  let sec : BitVec 4 := BitVec.ofNat 4 (2 ^ (gran % 4))
  sendRemote s ⟨id, peer, gran / 4, sec, 0, core, id, .launch uid⟩ fun port => .readReq peer port id (gran / 4) sec

/-- A write packet of its own, a release store's or a notify write's, leaves the package (R402, R413). -/
def sendOutWrite (s : State) (w : OutWrite) (mask : BitVec 256) (m : Nat → OutMsg) : State :=
  let port := routePort s w.peer
  let s := { s with outWrites := s.outWrites ++ [{ w with port := port }] }
  if routeLost s w.peer then queueStep s (.writeAcknowledgement w.id .lost)
  else sendPacket s port (1 + sectorsOf mask) (m port)

/-- The entries that hold bytes of a path. -/
def wcOf (s : State) (core uid : Nat) : List WcEntry := (coreAt s core).wc.filter fun e => e.paths.contains uid

/-- The failure report that a FENCE takes: the lowest peer, then the lowest line, among the path's reports and its
train's (R405, R408). -/
def takenReport (t : Train) (p : Path) : Option Report :=
  (p.reports ++ t.reports).foldl (fun (b : Option Report) x =>
    match b with
    | none => some x
    | some y => if x.peer < y.peer || (x.peer == y.peer && x.line < y.line) then some x else some y) none

end Sys2Proof.Machine
end

