-- ==== Sys2Proof/Machine/Issue.lean ====
section
/-! DEFINITION. Issue (R195, R196, R203, R466): the checks and waits that come before an instruction's charge, the charge
itself, and what becomes of an instruction that traps, waits or parks before it. -/
namespace Sys2Proof.Machine

/-- What the checks and waits before an instruction's charge give (R196, R466): nothing holds it; a wait with its stall
code and the write-combining entries that must drain for it; transaction entries that are not free; transfers demanded of
the Tender; an absent page; an uncharged trap; one that meets an uncorrectable error in a granule of memory; a failure report
taken by a FENCE; a granule of a peer that LAUNCH has yet to read; or a double fault. -/
inductive Entry where
  | ok
  | wait (code : Nat) (drain : List Nat)
  | entries (need : Nat)
  | demand (jobs : List TenderKind)
  | park (pages : List (DWord × Nat)) (kind : Nat) (unf : LaneSet)
  | trap (cause : Nat) (lanes : LaneSet) (addr : DWord)
  | found (asid g : Nat) (cause : Nat) (lanes : LaneSet) (addr : DWord)
  | report (lanes : LaneSet) (addr : DWord)
  | ask (peer gran : Nat)
  | kill
  deriving DecidableEq, Repr

/-- The first of two stages that does not pass. -/
def Entry.andThen (a b : Entry) : Entry :=
  match a with
  | .ok => b
  | e => e

/-- A wait while a condition holds. -/
def waitIf (b : Bool) (code : Nat) : Entry := if b then .wait code [] else .ok

/-- The first word of an instruction that a path is to issue. -/
def word0 (c : Ctx) (i : Instr) : Word :=
  match c.p.fetched, encodeWords i with
  | some (w, _, _), _ => w
  | none, some (w, _, _, _) => w
  | none, none => 0

/-- TRAPADDR of a failed decode check (R79). -/
def decodeAddr (c : Ctx) (i : Instr) (idx : Nat) : DWord :=
  let ws : Word × Word × Word := match c.p.fetched, encodeWords i with
    | some w, _ => w
    | none, some (w0, w1, w2, _) => (w0, w1, w2)
    | none, none => (0, 0, 0)
  let w := match idx with | 0 => ws.1 | 1 => ws.2.1 | _ => ws.2.2
  BitVec.ofNat 64 (w.toNat + idx * 2 ^ 32)

/-- A check at issue of the word of some index, with the properties of a decode trap (R79, R94). -/
def atIssueOf (c : Ctx) (i : Instr) (idx : Nat) (bad : Bool) : Entry :=
  if bad then .trap 0x02 c.p.mask (decodeAddr c i idx) else .ok

/-- A check at issue of the first word. -/
def atIssue (c : Ctx) (i : Instr) (bad : Bool) : Entry := atIssueOf c i 0 bad

/-- The number of words of an instruction (R66). -/
def lenOf (f : Fields) : Nat := match f.ext with | .s => 1 | .l0 _ => 2 | .l1 _ _ => 2 | .w _ _ => 3

/-- The context of an instruction that a path is to issue. A replay takes its unfinished mask (R234). -/
def mkCtx (s : State) (r : PathRef) (i : Instr) : Option Ctx :=
  match trainAt s r.core r.slot, pathAt s r, fieldsOf i, specOf i with
  | some t, some p, some f, some sp =>
    some { r := r, f := f, sp := sp, t := t, p := p, ty := tyInForce sp p.mode f,
           act := match p.unf with | some u => u | none => activeSet t p f, len := lenOf f }
  | _, _, _, _ => none

/-- Whether a path may issue at all (R40). -/
def issuable (p : Path) : Bool :=
  p.pstate == .active && p.frozen == .none && p.trapDue.isNone && (p.stop == .running || p.stop == .awaitingRegion)

/-- The encoding checks with the type in force (R80 step 5, R94). -/
def typeEntry (c : Ctx) (i : Instr) : Entry :=
  if !tyAccepted c.sp c.ty then .trap 0x02 c.p.mask (decodeAddr c i 0)
  else
    match fieldCheck c.sp (some c.ty) c.f with
    | some idx => .trap 0x02 c.p.mask (decodeAddr c i idx)
    | none => .ok

/-- The privilege check (R80 step 6). -/
def privEntry (c : Ctx) (i : Instr) : Entry :=
  if isPrivileged i && !c.priv then .trap 0x03 c.p.mask (decodeAddr c i 0) else .ok

/-- Whether a window lets the path's next instruction issue (R141). -/
def windowOpen (q : Pending) : Bool := match q.win with | .count n => n != 0 | .untilWaitl => true

/-- Whether the instruction will hold an outstanding result: it is long-latency and names a destination (R142). -/
def opensResult (c : Ctx) : Bool := longLatency c.sp.op && !(fieldUses c).2.isEmpty

/-- The lookahead windows (R141). -/
def windowEntry (c : Ctx) : Entry := waitIf (c.p.pending.any fun q => !windowOpen q) 0x01

/-- The limit of 16 outstanding results (R143): a 17th waits until the oldest of them is written. -/
def roomEntry (c : Ctx) : Entry :=
  waitIf (opensResult c && (c.p.pending.length ≥ 16 || c.p.pending.any fun q => c.p.full == some q.id)) 0x01

/-- The wait for every outstanding result of the path (R143). -/
def drainEntry (c : Ctx) : Entry := waitIf (!c.p.pending.isEmpty) 0x01

/-- Whether an instruction writes a mask register while results of its path are outstanding; a handler's write is discarded
(R25, R177). -/
def maskPending (c : Ctx) : Bool :=
  !c.r.handler && !c.p.pending.isEmpty && (regUses c).2.any fun r => match r with | .scalar n => n ≥ 61 | _ => false

/-- Whether what an instruction has done released a lane of its path (R25). -/
def released (c : Ctx) (t : State) : Bool :=
  match pathAt t c.r with | some p => p.uid != c.p.uid || c.p.mask.diff p.mask != 0 | none => true

/-- The lookahead check of DBGCTL (R142, R179). Where several outstanding instructions conflict, TRAPADDR names the oldest: the
specification does not say which (DESIGN CHOICE: log entry 102). -/
def lachkEntry (c : Ctx) : Entry :=
  if dbgLachk c.t then
    let (rd, wr) := regUses c
    match c.p.pending.find? fun q => q.dests.any fun d => rd.contains d || wr.contains d with
    | some q => .trap 0x11 (if c.act == 0 then c.p.mask else c.act) q.pc
    | none => .ok
  else .ok

/-- Whether a store lane of a path still waits for a write-combining entry (R407). -/
def wcHeld (s : State) (core uid : Nat) : Bool := ((coreAt s core).wc.drop 64).any fun e => e.paths.contains uid

/-- The wait of a path for its store lanes' write-combining entries (R407). -/
def wcWaits (s : State) (c : Ctx) : Entry := waitIf (wcHeld s c.r.core c.p.uid) 0x14

/-- The place of a wait's stall reason in R211's table. -/
def stallRow (code : Nat) : Nat :=
  match code with
  | 0x02 => 16 | 0x01 => 19 | 0x05 => 20 | 0x14 => 21 | 0x16 => 22 | 0x06 => 23 | 0x07 => 24 | 0x04 => 25 | 0x03 => 26 | _ => 27

/-- A wait of the path beside the stage of an instruction's own checks and waits: of the stall reasons the first row of R211's
table is the one reported. -/
def Entry.behind (w e : Entry) : Entry :=
  match w, e with
  | .wait a _, .wait b _ => if stallRow b < stallRow a then e else w
  | .wait _ _, .demand _ => e
  | _, _ => w.andThen e

/-- What an entry makes an instruction wait for, its checks aside. -/
def Entry.waits (e : Entry) : Entry :=
  match e with
  | .wait code drain => .wait code drain
  | .entries n => .entries n
  | .ask peer gran => .ask peer gran
  | _ => .ok

/-- The decode checks made at issue (R80). -/
def decodeEntry (i : Instr) (c : Ctx) : Entry := (typeEntry c i).andThen (privEntry c i)

/-- The waits of every instruction for its path's results: the windows (R141) and the limit (R143). -/
def resultsEntry (c : Ctx) : Entry := (windowEntry c).andThen (roomEntry c)

/-- The checks of every instruction before its own: what a handler may not issue (R179), and the lookahead check (R142). -/
def guardEntry (i : Instr) (c : Ctx) : Entry :=
  (if c.r.handler && doubleFaults i then Entry.kill else Entry.ok).andThen (lachkEntry c)

/-- The checks and waits of an instruction, its own `own` among them, in order. One that fails a decode check traps once its waits
are over (R80, R196). -/
def orderedEntry (i : Instr) (own : Entry) (c : Ctx) : Entry :=
  (resultsEntry c).andThen
    (if decodeEntry i c == .ok then (guardEntry i c).andThen own else own.waits.andThen (decodeEntry i c))

/-- The wait of a path whose TLBI has yet to complete (R239). -/
def shootEntry (s : State) (c : Ctx) : Entry := waitIf (s.shoots.any fun x => x.who == some c.r) 0x05

/-- Everything before the charge but the wait for tokens. -/
def checksEntry (i : Instr) (entry : State → Ctx → Entry) (s : State) (c : Ctx) : Entry :=
  (shootEntry s c).behind ((wcWaits s c).behind (orderedEntry i (entry s c) c))

/-- The free transaction entries that an instruction may take: a reservation held for another path is left (R245). -/
def entriesFree (s : State) (r : PathRef) : Nat :=
  let k := coreAt s r.core
  let held := match k.txResv with
    | some v => if v.slot == r.slot && v.entry == r.entry && v.handler == r.handler then 0 else v.amount
    | none => 0
  256 - entriesUsed k - held

/-- The wait for transaction entries (R245). -/
def txnEntry (s : State) (c : Ctx) (need : Nat) : Entry :=
  if need > entriesFree s c.r then .entries need else .ok

/-- Whether a path holds the core's token reservation. -/
def holdsResv (s : State) (r : PathRef) : Bool :=
  match (coreAt s r.core).resv with
  | some v => v.slot == r.slot && v.entry == r.entry && v.handler == r.handler
  | none => false

/-- The tokens that a path may spend: the balance less another path's reservation (R196, R209). -/
def tokensFor (s : State) (r : PathRef) : Nat :=
  let k := coreAt s r.core
  match k.resv with
  | some v => if holdsResv s r then k.balance else k.balance - v.amount
  | none => k.balance

/-- The wait for tokens. -/
def tokenEntry (i : Instr) (s : State) (c : Ctx) : Entry := waitIf (tokensFor s c.r < priceOf i c.ty) 0x03

/-- Everything before the charge. -/
def wholeEntry (i : Instr) (entry : State → Ctx → Entry) (s : State) (c : Ctx) : Entry :=
  (checksEntry i entry s c).andThen (tokenEntry i s c)

/-- A window after one more issued instruction (R141). -/
def nextWindow (w : Window) : Window := match w with | .count n => .count (n - 1) | .untilWaitl => .untilWaitl

/-- The first free vector pipe is taken for three cycles (R199). -/
def takePipe (cycle : Nat) : List Nat → List Nat
  | [] => []
  | x :: r => if x ≤ cycle then (cycle + 3) :: r else x :: takePipe cycle r

/-- The core's side of an issue: the charge, the pipe, the heavy count, the reservations that end (R195, R199, R201,
R203, R209). -/
def chargeCore (i : Instr) (c : Ctx) (k : Core) : Core :=
  let mine (v : Reservation) : Bool := v.slot == c.r.slot && v.entry == c.r.entry && v.handler == c.r.handler
  let special := 0x60 ≤ c.sp.op && c.sp.op ≤ 0x6B
  { k with
    balance := k.balance - priceOf i c.ty,
    resv := k.resv.filter fun v => !mine v,
    txResv := k.txResv.filter fun v => !mine v,
    pipes := if special then k.pipes else takePipe k.cycle k.pipes,
    sfu := if special then k.cycle + 3 else k.sfu,
    ftab := if c.sp.op == 0x6A then some (k.actCur, k.cycle + 3) else k.ftab,
    heavy := if isHeavy i c.ty then (k.cycle + 3) :: k.heavy else k.heavy,
    issued := some (c.r, c.p.pc, c.p.mask) }

/-- Whether a register is a scalar, which the paths of a train share. -/
def Reg.isScalar (g : Reg) : Bool := match g with | .scalar _ => true | _ => false

/-- The producers that an issue makes (R200). -/
def producersOf (i : Instr) (c : Ctx) (cycle : Nat) : List Producer :=
  match depDistance i with
  | some d => (regUses c).2.map fun g => ⟨g, cycle + d⟩
  | none => []

/-- The train's side of an issue: the tokens charged, the entry that issued last, the producers of its scalars, and the counts
of the path's lanes, which a handler does not advance (R56, R176, R197, R200, R210). -/
def chargeTrain (i : Instr) (c : Ctx) (cycle : Nat) (t : Train) : Train :=
  { t with
    charged := t.charged + BitVec.ofNat 64 (priceOf i c.ty),
    lastEntry := c.r.entry,
    made := (producersOf i c cycle).filter (·.reg.isScalar) ++ t.made.filter fun g => g.ready > cycle,
    lanes := if c.r.handler then t.lanes
      else mapLanes t.lanes c.p.mask fun _ ln => { ln with dic := ln.dic + 1 } }

/-- The opcodes that a path's later accesses do not pass (R327, R332-R334): YIELD, WAITADDR, the fences, SMAP, SUNMAP and TLBI, the
waits for engines and objects, barriers, work lists, FBAR, VJOIN and SHSYNC. -/
def fenceOps : List Nat :=
  [0x09, 0xC4, 0xC5, 0xC6, 0xC7, 0xCA, 0xCB, 0xCC, 0xD3, 0xD6, 0xD7, 0xDB, 0xE0, 0xE1, 0xE2, 0xE3, 0xE5, 0xE6, 0xE7, 0xF3, 0xF5, 0xF6]

/-- The other opcodes that wait until the path's earlier accesses have performed, or that report its writes: EXIT, TAIL, engine
operations, LAUNCH, remote notifies and collectives (R149, R274, R334). -/
def closingOps : List Nat := [0x17, 0x18, 0xD0, 0xD1, 0xD2, 0xD4, 0xD5, 0xDA, 0xDC, 0xDD, 0xE4, 0xF0, 0xF1, 0xF2]

/-- Whether an instruction performs after every earlier access of its path (R328, R332, R334): one of those above, a release, or a
sequenced atomic. -/
def performsAfter (c : Ctx) : Bool :=
  let od := (ext0Of c.f).od.toNat
  fenceOps.contains c.sp.op || closingOps.contains c.sp.op || od == 3 || (0xC0 ≤ c.sp.op && c.sp.op ≤ 0xC3 && od == 0)

/-- Whether a region names a register as live (R186). -/
def Region.names (g : Region) (depth : Nat) (x : Reg) : Bool :=
  match x with
  | .fixed n => g.livev.getLsbD n
  | .ring n => (List.range 32).any fun k => g.livew.getLsbD k && ringIx depth k == n
  | _ => false

/-- Whether a register is a vector or windowed one. -/
def Reg.isLane (g : Reg) : Bool := match g with | .fixed _ | .ring _ => true | _ => false

/-- What an instruction's registers tell of its region's obligations (R187): a write of a live-in register, of a predicate that
the region has read, or with KEEPS of a scalar, is a breach, and so is a read of a register that the region neither names nor has
written in every lane read. -/
def noteRegs (c : Ctx) (g : Region) : Region :=
  if g.broken then g
  else
    let u := regUses c
    let badRead (x : Reg) : Bool := x.isLane && !g.names c.depth x && c.act.diff (g.wrote x) != 0
    let badWrite (x : Reg) : Bool := match x with
      | .pred n => g.preds.contains n
      | .scalar n => g.keeps && n < 61
      | x => g.names c.depth x
    let outs := u.2.filter (·.isLane)
    { g with
      breach := g.breach || u.1.any badRead || u.2.any badWrite,
      written := outs.map (fun x => (x, g.wrote x ||| c.act)) ++ g.written.filter (fun y => !outs.contains y.1),
      preds := uniq (g.preds ++ u.1.filterMap fun x => match x with | .pred n => some n | _ => none) }

/-- The path's side of an issue: PC, windows, producers, region (R141, R188, R198, R200), and the order of its reads, after a
fence the present `pt` (R327). -/
def chargePath (i : Instr) (c : Ctx) (cycle pt : Nat) (p : Path) : Path :=
  let outs := (regUses c).2
  { p with
    full := none,
    raced := (p.pending.flatMap fun q => (q.dests.filter outs.contains).map fun g => (q.id, g)) ++ p.raced,
    pc := c.nextPc, lastPc := c.p.pc, fetched := none, delay := 0, waitc := 0, stall := 0, xfers := [], unf := none, got := [],
    pending := p.pending.map fun q => { q with win := nextWindow q.win },
    producers := (producersOf i c cycle).filter (!·.reg.isScalar) ++ p.producers.filter fun g => g.ready > cycle,
    region := if breaksRegion i then { p.region with broken := true } else noteRegs c p.region,
    floor := if fenceOps.contains c.sp.op then max p.floor pt else p.floor }

/-- An instruction issues (R195, R203). -/
def commit (i : Instr) (c : Ctx) (s : State) : State :=
  let s := settleWrites s fun x => performsAfter c && x.paths.contains c.p.uid
  let s := modCore s c.r.core (chargeCore i c)
  let s := modDie s (dieOf c.r.core) fun d => { d with spent := d.spent + priceOf i c.ty }
  let s := modTrain s c.r.core c.r.slot (chargeTrain i c (coreAt s c.r.core).cycle)
  modPath s c.r (chargePath i c (coreAt s c.r.core).cycle s.point)

/-- Transfers join the Tender's queue, those not already in it (R158). -/
def enqueueJobs (s : State) (r : PathRef) (jobs : List TenderKind) : State :=
  jobs.foldl (fun s j =>
    if (coreAt s r.core).tender.any fun x => x.who == r && x.kind == j then s
    else modCore s r.core fun k => { k with tender := k.tender ++ [⟨r, j, false⟩] }) s

/-- The path's stall reason (R211). One that holds 16 outstanding results notes the oldest, which it waits for (R143). -/
def setStall (s : State) (r : PathRef) (code : Nat) : State :=
  modPath s r fun p => { p with
    stall := BitVec.ofNat 5 code,
    full := if code == 0x01 && p.full.isNone && p.pending.length ≥ 16 then p.pending.head?.map (·.id) else p.full }

/-- A path asks a peer for a granule, once, and waits (R346). -/
def askPath (s : State) (r : PathRef) (peer gran : Nat) : State :=
  match pathAt s r with
  | none => s
  | some p =>
    setStall (if asked p.got peer gran then s
      else askLaunch (modPath s r fun p => { p with got := p.got ++ [⟨peer, gran, none⟩] }) r.core (some p.uid) peer gran) r 0x05

/-- The handler mask of a train, its kills' lanes (R180). -/
def handlerMask (t : Train) : LaneSet := match t.handler with | some h => h.hmask | none => 0

/-- The uncorrectable error that a check before issue has met, in a table entry or in the data at an address, is found
now (R228, R231). -/
def touchError (s : State) (core asid : Nat) (va : DWord) : State :=
  match xlate s core asid va with
  | .leaf w bits =>
    let g := leafKey w bits va / 64
    if !w.testBit 10 && s.latent.contains g then findError s asid g else s
  | _ => walkEffect s core asid va

/-- The frame transfer that a core's Tender starts in this cycle, after the issue (R159, R202). -/
def transferDue (s : State) (core : Nat) : Option TenderJob :=
  if (coreAt s core).relock then none
  else (coreAt s core).tender.head?.filter fun j => !j.started && j.kind.isFrame && tokensFor s j.who ≥ framePrice

/-- What the cycle's frame transfer is yet to be charged to a core (R202). -/
def dueCharge (s : State) (core : Nat) : Nat := if (transferDue s core).isSome then framePrice else 0

/-- TOKBAL: the balance after the cycle's charges (R38, R202). -/
def tokBal (s : State) (core : Nat) : Nat := (coreAt s core).balance - dueCharge s core

/-- The tokens charged to a train after the cycle's charges (R210). -/
def tokChg (s : State) (r : PathRef) : Nat :=
  match trainAt s r.core r.slot with
  | some t => t.charged.toNat + (match transferDue s r.core with | some j => if j.who.slot == r.slot then framePrice else 0 | none => 0)
  | none => 0

/-- The stall reason of a path that has demanded transfers of the Tender (R158, R159): its frame transfer at the head of the
queue may be waiting for tokens. -/
def demandCode (s : State) (r : PathRef) : Nat :=
  match (coreAt s r.core).tender.head? with
  | some j => if j.who == r && !j.started && j.kind.isFrame && tokensFor s r < framePrice then 0x03 else 0x02
  | none => 0x02

/-- What becomes of an instruction that does not issue. -/
def turnAway (s : State) (c : Ctx) (e : Entry) : State :=
  match e with
  | .ok => s
  | .wait code drain => setStall (if drain.isEmpty then s else wcDrain s c.r.core fun x => drain.contains x.id) c.r code
  | .entries _ => setStall s c.r 0x06
  | .ask peer gran => askPath s c.r peer gran
  | .demand jobs => setStall (enqueueJobs s c.r jobs) c.r (demandCode (enqueueJobs s c.r jobs) c.r)
  | .park pages kind unf => parkForPages s c.r c.p.pc unf pages kind
  | .trap cause lanes addr =>
    takeTrap (if cause == 0x0B then touchError s c.r.core c.t.asid addr else s) c.r ⟨cause, lanes, c.p.pc, addr⟩
  | .found asid g cause lanes addr => takeTrap (findError s asid g) c.r ⟨cause, lanes, c.p.pc, addr⟩
  | .report lanes addr =>
    let s := modTrain s c.r.core c.r.slot fun t => { t with reports := [] }
    takeTrap (modPath s c.r fun p => { p with reports := [] }) c.r ⟨0x14, lanes, c.p.pc, addr⟩
  | .kill => killTrain s c.r.core c.r.slot 0x10 c.p.pc (handlerMask c.t)

/-- A single step ends after its one instruction (R191): the agent is owed an entry, which comes at once where no handler
runs and no trap is pending (R185). -/
def stepDone (c : Ctx) (s : State) : State :=
  if c.t.stepArmed == some c.p.uid && !c.r.handler then
    let s := modTrain s c.r.core c.r.slot fun t => { t with stepOwed := true }
    match trainAt s c.r.core c.r.slot with
    | none => s
    | some t =>
      match stepEntry t with
      | none => modTrain s c.r.core c.r.slot fun t => { t with stepArmed := none, stepOwed := false }
      | some e => if t.handler.isNone && (dueTrap t).isNone then enterAgent s c.r.core c.r.slot e 2 else s
  else s

/-- Issue of an instruction by the selected path: its checks and waits, its charge, its effect. One that would release a lane
of its mask waits for the path's outstanding results (R26). -/
def issue (i : Instr) (entry : State → Ctx → Entry) (body : Ctx → State → State) (s : State) : Out :=
  match s.sel with
  | none => .fault .noIssuer
  | some r =>
    match mkCtx s r i with
    | none => .fault .noIssuer
    | some c =>
      if !issuable c.p then .fault .noIssuer
      else
        let s := { s with sel := none }
        match wholeEntry i entry s c with
        | .ok =>
          if maskPending c && released c (body c (commit i c s)) then .next (turnAway s c (.wait 0x01 []))
          else .next (stepDone c (body c (commit i c s)))
        | e => .next (turnAway s c e)

/-- No check and no wait of its own. -/
def noEntry (_ : State) (_ : Ctx) : Entry := .ok

/-- An instruction that fails a decode check traps on the path's mask without charge (R79, R80). -/
def decodeTrap (s : State) (r : PathRef) (cause : Nat) (w : Word) (idx : Nat) : State :=
  match pathAt s r with
  | some p => takeTrap s r ⟨cause, p.mask, p.pc, BitVec.ofNat 64 (w.toNat + idx * 2 ^ 32)⟩
  | none => s

/-- A trap that an issued instruction takes: the memory checks, a floating-point exception, a software trap (R466). -/
def issuedTrap (c : Ctx) (s : State) (cause : Nat) (lanes : LaneSet) (addr : DWord) : State :=
  takeTrap s c.r ⟨cause, lanes, c.p.pc, addr⟩

/-- A long-latency result is outstanding from now on (R33, R141). -/
def addPending (c : Ctx) (s : State) (q : Pending) : State :=
  modPath s c.r fun p => { p with pending := p.pending ++ [q] }

/-- The window that field X opens (R141). -/
def windowOf (x : Nat) : Window := if x == 15 then .untilWaitl else .count x

end Sys2Proof.Machine
end

