-- ==== Sys2Proof/Machine/IntOps.lean ====
section
/-! DEFINITION. The vector integer instructions (R96-R103). -/
namespace Sys2Proof.Machine

/-- An element-wise integer result under the integer view: signedness, width, a, b and the third source (R96, R98). -/
def Ctx.elementwise (c : Ctx) (s : State) (op : Bool → Nat → Nat → Nat → Nat → Nat) : State :=
  let v := viewOf c.ty
  let w := tyBits v
  let wide := w == 64
  c.writeD s wide fun l ln =>
    let a := c.v l ln c.f.a wide
    let b := c.vb l ln v wide
    let x := c.vc l ln wide
    packElems w fun e => op (tySigned v) w (elemOf w a e) (elemOf w b e) (elemOf w x e)

/-- The integer that a view reads from the low `w` bits. -/
def asView (sg : Bool) (w x : Nat) : Int := if sg then signedOf w x else ((x % 2 ^ w : Nat) : Int)

/-- Clamping to the range of a view (R44). -/
def clampTo (sg : Bool) (w : Nat) (x : Int) : Int := max (intMin sg w) (min (intMax sg w) x)

/-- SHL (R99). -/
def shlVal (w a n : Nat) : Nat := if n < w then (a <<< n) % 2 ^ w else 0
/-- SHR (R99). -/
def shrVal (w a n : Nat) : Nat := if n < w then (a % 2 ^ w) >>> n else 0
/-- SHA (R99). -/
def shaVal (w a n : Nat) : Nat := wrapTo w (signedOf w a >>> min n w)
/-- ROT (R99). -/
def rotVal (w a n : Nat) : Nat :=
  let k := n % w
  ((a % 2 ^ w) <<< k ||| (a % 2 ^ w) >>> (w - k)) % 2 ^ w

/-- A bit-field extract at a working width (R100). -/
def bfeVal (sg : Bool) (w a b : Nat) : Nat :=
  let pos := b % 256
  let len := min (b / 256 % 256) w
  let x := (asView sg w a >>> pos)
  if len == 0 then 0 else wrapTo w (asView sg len (wrapTo len x))

/-- A bit-field insert at a working width (R100). -/
def bfiVal (w a b base : Nat) : Nat :=
  let pos := b % 256
  let len := min (b / 256 % 256) w
  let field := ((2 ^ len - 1) <<< pos) % 2 ^ w
  (base % 2 ^ w) - (base % 2 ^ w &&& field) + ((a <<< pos) &&& field)

/-- The number of 1 bits. -/
def popcount (w x : Nat) : Nat := ((List.range w).filter fun i => x.testBit i).length
/-- The low `w` bits in reverse order. -/
def reverseBits (w x : Nat) : Nat :=
  (List.range w).foldl (fun acc i => if x.testBit i then acc + 2 ^ (w - 1 - i) else acc) 0

/-- A comparison condition (R100). -/
def condHolds (k : Nat) (a b : Int) : Bool :=
  match k with
  | 0 => a == b | 1 => a != b | 2 => a < b | 3 => a ≤ b | 4 => a > b | _ => a ≥ b

/-- ICMP of a lane's registers, element by element (R100). -/
def icmpVal (sg : Bool) (w k : Nat) (any : Bool) (a b : Nat) : Bool :=
  let one (e : Nat) : Bool := condHolds k (asView sg w (elemOf w a e)) (asView sg w (elemOf w b e))
  if any then (List.range (elemCount w)).any one else (List.range (elemCount w)).all one

/-- LEA (R101). -/
def leaVal (x a b : Nat) : Nat :=
  let ext := if x.testBit 3 then b % 2 ^ 32 else (sext64 32 b).toNat
  (a + ext * 2 ^ (x % 8)) % 2 ^ 64

/-- BYSEL (R103). -/
def byselVal (zero : Bool) (a b selr : Nat) : Nat :=
  let pool := a % 2 ^ 32 + b % 2 ^ 32 * 2 ^ 32
  let byte (i : Nat) : Nat :=
    let k := bitsOf selr (4 * i + 3) (4 * i)
    let p := bitsOf pool (8 * (k % 8) + 7) (8 * (k % 8))
    if k ≥ 8 then (if zero then 0 else if p ≥ 128 then 255 else 0) else p
  packElems 8 byte

/-- IDOT4 (R103). -/
def idot4Val (x : Nat) (sat : Bool) (a b addend : Nat) : Nat :=
  let sa := x.testBit 0
  let sb := x.testBit 1
  let sg := sa || sb
  let sum := (List.range 4).foldl (fun (acc : Int) i => acc + asView sa 8 (elemOf 8 a i) * asView sb 8 (elemOf 8 b i))
    (asView sg 32 addend)
  wrapTo 32 (if sat then clampTo sg 32 sum else sum)

/-- IADD (R98). -/
def execIadd (f : Fields) (s : State) : Out :=
  issue (.iadd f) noEntry (fun c s => c.elementwise s fun _ w a b _ => wrapTo w (a + b)) s
/-- ISUB (R98). -/
def execIsub (f : Fields) (s : State) : Out :=
  issue (.isub f) noEntry (fun c s => c.elementwise s fun _ w a b _ => wrapTo w ((a : Int) - b)) s
/-- IMUL (R98). -/
def execImul (f : Fields) (s : State) : Out :=
  issue (.imul f) noEntry (fun c s => c.elementwise s fun _ w a b _ => a * b % 2 ^ w) s
/-- IMULHI (R98). -/
def execImulhi (f : Fields) (s : State) : Out :=
  issue (.imulhi f) noEntry (fun c s => c.elementwise s fun sg w a b _ =>
    wrapTo (2 * w) (asView sg w a * asView sg w b) / 2 ^ w) s
/-- IMAD (R98). -/
def execImad (f : Fields) (s : State) : Out :=
  issue (.imad f) noEntry (fun c s => c.elementwise s fun _ w a b x => (a * b + x) % 2 ^ w) s
/-- IMIN (R98). -/
def execImin (f : Fields) (s : State) : Out :=
  issue (.imin f) noEntry (fun c s => c.elementwise s fun sg w a b _ =>
    if asView sg w b < asView sg w a then b else a) s
/-- IMAX (R98). -/
def execImax (f : Fields) (s : State) : Out :=
  issue (.imax f) noEntry (fun c s => c.elementwise s fun sg w a b _ =>
    if asView sg w b > asView sg w a then b else a) s
/-- IABS (R98, R102). -/
def execIabs (f : Fields) (s : State) : Out :=
  issue (.iabs f) noEntry (fun c s => c.elementwise s fun sg w a _ _ =>
    let x := asView sg w a
    let y := if c.f.x.toNat == 1 then -x else if x < 0 then -x else x
    wrapTo w (if c.satOn then clampTo sg w y else y)) s
/-- AND (R98). -/
def execAnd (f : Fields) (s : State) : Out :=
  issue (.and f) noEntry (fun c s => c.elementwise s fun _ _ a b _ => a &&& b) s
/-- OR (R98). -/
def execOr (f : Fields) (s : State) : Out :=
  issue (.or f) noEntry (fun c s => c.elementwise s fun _ _ a b _ => a ||| b) s
/-- XOR (R98). -/
def execXor (f : Fields) (s : State) : Out :=
  issue (.xor f) noEntry (fun c s => c.elementwise s fun _ _ a b _ => a ^^^ b) s
/-- ANDN (R98). -/
def execAndn (f : Fields) (s : State) : Out :=
  issue (.andn f) noEntry (fun c s => c.elementwise s fun _ _ a b _ => a - (a &&& b)) s
/-- SHL (R99). -/
def execShl (f : Fields) (s : State) : Out :=
  issue (.shl f) noEntry (fun c s => c.elementwise s fun _ w a b _ => shlVal w a b) s
/-- SHR (R99). -/
def execShr (f : Fields) (s : State) : Out :=
  issue (.shr f) noEntry (fun c s => c.elementwise s fun _ w a b _ => shrVal w a b) s
/-- SHA (R99). -/
def execSha (f : Fields) (s : State) : Out :=
  issue (.sha f) noEntry (fun c s => c.elementwise s fun _ w a b _ => shaVal w a b) s
/-- ROT (R99). -/
def execRot (f : Fields) (s : State) : Out :=
  issue (.rot f) noEntry (fun c s => c.elementwise s fun _ w a b _ => rotVal w a b) s

/-- A whole-register operation at width 64 under a 64-bit view, else at width 32 (R100). -/
def Ctx.fieldwise (c : Ctx) (s : State) (op : Bool → Nat → Nat → Nat → Nat → Nat) : State :=
  let v := viewOf c.ty
  let wide := tyIs64 v
  c.writeD s wide fun l ln =>
    op (tySigned v) (if wide then 64 else 32) (c.v l ln c.f.a wide) (c.vb l ln v wide) (c.vc l ln wide)

/-- BFE (R100). -/
def execBfe (f : Fields) (s : State) : Out :=
  issue (.bfe f) noEntry (fun c s => c.fieldwise s fun sg w a b _ => bfeVal sg w a b) s
/-- BFI (R100). -/
def execBfi (f : Fields) (s : State) : Out :=
  issue (.bfi f) noEntry (fun c s => c.fieldwise s fun _ w a b x => bfiVal w a b x) s
/-- POPC (R98). -/
def execPopc (f : Fields) (s : State) : Out :=
  issue (.popc f) noEntry (fun c s => c.elementwise s fun _ w a _ _ => popcount w a) s
/-- CLZ (R98). -/
def execClz (f : Fields) (s : State) : Out :=
  issue (.clz f) noEntry (fun c s => c.elementwise s fun _ w a _ _ => w - bitLen a) s
/-- BREV (R98). -/
def execBrev (f : Fields) (s : State) : Out :=
  issue (.brev f) noEntry (fun c s => c.elementwise s fun _ w a _ _ => reverseBits w a) s
/-- ICMP (R100). -/
def execIcmp (f : Fields) (s : State) : Out :=
  issue (.icmp f) noEntry (fun c s =>
    let v := viewOf c.ty
    let wide := tyIs64 v
    c.writeP s fun l ln => icmpVal (tySigned v) (tyBits v) (c.f.x.toNat % 8) (c.f.x.getLsbD 3)
      (c.v l ln c.f.a wide) (c.vb l ln v wide)) s
/-- SEL (R100). -/
def execSel (f : Fields) (s : State) : Out :=
  issue (.sel f) noEntry (fun c s =>
    let v := viewOf c.ty
    let wide := tyIs64 v
    let p := if hasExt0 c.f then (ext0Of c.f).c.toNat else c.f.x.toNat
    c.writeD s wide fun l ln => if predOf ln p then c.v l ln c.f.a wide else c.vb l ln v wide) s
/-- MOV (R98). -/
def execMov (f : Fields) (s : State) : Out :=
  issue (.mov f) noEntry (fun c s => c.writeD s c.wide fun l ln => c.v l ln c.f.a c.wide) s
/-- MOVI (R98). -/
def execMovi (f : Fields) (s : State) : Out :=
  issue (.movi f) noEntry (fun c s => c.writeD s c.wide fun l ln => c.vb l ln (viewOf c.ty) c.wide) s
/-- LEA (R101). -/
def execLea (f : Fields) (s : State) : Out :=
  issue (.lea f) noEntry (fun c s => c.writeD s true fun l ln =>
    leaVal c.f.x.toNat (c.v l ln c.f.a true) (c.vb l ln .i32 false)) s
/-- IADDS (R102). -/
def execIadds (f : Fields) (s : State) : Out :=
  issue (.iadds f) noEntry (fun c s => c.elementwise s fun sg w a b _ =>
    let x := asView sg w a
    let y := asView sg w b
    wrapTo w (clampTo sg w (if c.f.x.toNat == 1 then x - y else x + y))) s
/-- BYSEL (R103). -/
def execBysel (f : Fields) (s : State) : Out :=
  issue (.bysel f) noEntry (fun c s => c.writeD s false fun l ln =>
    let k := match c.f.ext with
      | .w _ lit => lit.toNat
      | .l0 e => c.v l ln e.c false
      | _ => c.v l ln c.f.d false
    byselVal (c.f.x.toNat == 1) (c.v l ln c.f.a false) (c.v l ln c.f.b false) k) s
/-- IDOT4 (R103). -/
def execIdot4 (f : Fields) (s : State) : Out :=
  issue (.idot4 f) noEntry (fun c s => c.writeD s false fun l ln =>
    idot4Val c.f.x.toNat c.satOn (c.v l ln c.f.a false) (c.vb l ln .i32 false) (c.vc l ln false)) s

end Sys2Proof.Machine
end

