-- ==== Sys2Proof/Machine/FloatOps.lean ====
section
/-! DEFINITION. The floating-point instructions (R106-R110), their precise exceptions (R52), and the special functions
with their long-latency results (R111). -/
namespace Sys2Proof.Machine

/-- The enabled exceptions of MODE (R36). -/
def Ctx.enabled (c : Ctx) : Exc := BitVec.ofNat 5 (bitsOf c.p.mode.toNat 20 16)

/-- The exceptions of the elements of a lane: the packed results and every exception raised. -/
def packExc (w : Nat) (g : Nat → Nat × Exc) : Nat × Exc :=
  (packElems w fun e => (g e).1, (List.range (elemCount w)).foldl (fun x e => x ||| (g e).2) 0)

/-- The exception trap of R52: the lanes that raised an enabled exception, and every exception raised. -/
def Ctx.fpTrap (c : Ctx) (exc : Nat → Exc) : Option (LaneSet × Exc) :=
  let lanes := LaneSet.ofPred fun l => c.act.has l && (exc l &&& c.enabled != 0)
  if lanes == 0 then none else some (lanes, c.act.toList.foldl (fun x l => x ||| exc l) 0)

/-- The trap of an enabled exception, else what the instruction does (R52). -/
def Ctx.fpGuard (c : Ctx) (s : State) (exc : Nat → Exc) (done : State) : State :=
  match c.fpTrap exc with
  | some (lanes, all) => issuedTrap c s 0x0C lanes (all.setWidth 64)
  | none => done

/-- Each active lane's destination takes a value, unless an enabled exception traps. -/
def Ctx.fpWrite (c : Ctx) (s : State) (wide : Bool) (val : Nat → Nat × Exc) : State :=
  c.fpGuard s (fun l => (val l).2) (c.writeD s wide fun l _ => (val l).1)

/-- A lane's element-wise result of three sources in the type in force, with its exceptions (R107). -/
def Ctx.floatVal (c : Ctx) (op : ETy → FEnv → Nat → Nat → Nat → Nat → Nat × Exc) (l : Nat) : Nat × Exc :=
  let t := c.ty
  let w := tyBits t
  let ln := c.lane l
  let a := c.v l ln c.f.a c.wide
  let b := c.vb l ln t c.wide
  let x := c.vc l ln c.wide
  packExc w fun e => op t (c.env l) e (elemOf w a e) (elemOf w b e) (elemOf w x e)

/-- An element-wise floating-point instruction. -/
def Ctx.floatwise (c : Ctx) (s : State) (op : ETy → FEnv → Nat → Nat → Nat → Nat → Nat × Exc) : State :=
  c.fpWrite s c.wide (c.floatVal op)

/-- FADD (R107). -/
def execFadd (f : Fields) (s : State) : Out :=
  issue (.fadd f) noEntry (fun c s => c.floatwise s fun t v e a b _ => fAddSub false t v e a b) s
/-- FSUB (R107). -/
def execFsub (f : Fields) (s : State) : Out :=
  issue (.fsub f) noEntry (fun c s => c.floatwise s fun t v e a b _ => fAddSub true t v e a b) s
/-- FMUL (R107). -/
def execFmul (f : Fields) (s : State) : Out :=
  issue (.fmul f) noEntry (fun c s => c.floatwise s fun t v e a b _ => fMul t v e a b) s
/-- FFMA (R107). -/
def execFfma (f : Fields) (s : State) : Out :=
  issue (.ffma f) noEntry (fun c s => c.floatwise s fun t v e a b x => fFma t v e a b x) s
/-- FMIN (R107). -/
def execFmin (f : Fields) (s : State) : Out :=
  issue (.fmin f) noEntry (fun c s => c.floatwise s fun t v _ a b _ => fMinMax false t v a b) s
/-- FMAX (R107). -/
def execFmax (f : Fields) (s : State) : Out :=
  issue (.fmax f) noEntry (fun c s => c.floatwise s fun t v _ a b _ => fMinMax true t v a b) s

/-- FCMP of a lane, element by element (R107). -/
def Ctx.fcmpVal (c : Ctx) (l : Nat) : Bool × Exc :=
  let w := tyBits c.ty
  let ln := c.lane l
  let a := c.v l ln c.f.a c.wide
  let b := c.vb l ln c.ty c.wide
  let one (e : Nat) := fCmp (c.f.x.toNat % 8) c.ty (c.env l) (elemOf w a e) (elemOf w b e)
  let es := List.range (elemCount w)
  (if c.f.x.getLsbD 3 then es.any fun e => (one e).1 else es.all fun e => (one e).1,
   es.foldl (fun x e => x ||| (one e).2) 0)

/-- FCMP (R107). -/
def execFcmp (f : Fields) (s : State) : Out :=
  issue (.fcmp f) noEntry (fun c s =>
    c.fpGuard s (fun l => (c.fcmpVal l).2) (c.writeP s fun l _ => (c.fcmpVal l).1)) s

/-- FCLASS (R108). -/
def execFclass (f : Fields) (s : State) : Out :=
  issue (.fclass f) noEntry (fun c s => c.writeD s c.wide fun l ln =>
    let w := tyBits c.ty
    let a := c.v l ln c.f.a c.wide
    packElems w fun e => fClass c.ty (elemOf w a e)) s

/-- The rounding environment with SUB's override (R109). -/
def Ctx.envRnd (c : Ctx) (l : Nat) : FEnv :=
  let o := subOf c.f / 8
  let v := c.env l
  if o == 0 then v else { v with rm := o - 1 }

/-- The part q of a conversion (R109). -/
def Ctx.part (c : Ctx) : Nat := subOf c.f % 8
/-- The FX64 scale S (R109). -/
def Ctx.scaleS (c : Ctx) : Nat :=
  match c.f.ext with
  | .l1 imm _ => imm.toNat % 64
  | .w _ lit => lit.toNat % 64
  | _ => 0

/-- Whether a part lies outside its limit (R110). -/
def partBad (c : Ctx) (ws wd : Nat) : Bool :=
  let ns := elemCount ws
  let nd := elemCount wd
  if ns == nd then c.part != 0 else if ns < nd then c.part ≥ nd / ns else c.part ≥ ns / nd

/-- A lane's conversion between element widths, with the elements that R110 gives. -/
def Ctx.cvtVal (c : Ctx) (ws wd : Nat) (one : FEnv → Nat → Nat → Nat × Exc) (l : Nat) : Nat × Exc :=
  let ns := elemCount ws
  let nd := elemCount wd
  let ln := c.lane l
  let a := c.v l ln c.f.a (ws == 64)
  let old := c.v l ln c.f.d (wd == 64)
  let v := c.envRnd l
  packExc wd fun e =>
    if ns < nd then
      (if c.part * ns ≤ e && e < (c.part + 1) * ns then one v e (elemOf ws a (e - c.part * ns)) else (elemOf wd old e, 0))
    else one v e (elemOf ws a (if ns == nd then e else c.part * nd + e))

/-- The element widths of a conversion. -/
def cvtWidths (c : Ctx) : Nat × Nat :=
  if c.sp.op == 0x58 && c.f.x.toNat == 0 then (32, 8)
  else if c.sp.op == 0x58 && c.f.x.toNat == 1 then (8, 32)
  else (tyBits c.ty, tyBits (ETy.ofCode c.f.x.toNat))

/-- The part check of a conversion, at issue (R110). -/
def cvtEntry (i : Instr) (_ : State) (c : Ctx) : Entry :=
  let (ws, wd) := cvtWidths c
  atIssueOf c i 1 (partBad c ws wd)

/-- The value of a conversion between the type in force and X's (R109). -/
def Ctx.convertVal (c : Ctx) (l : Nat) : Nat × Exc :=
  let (ws, wd) := cvtWidths c
  let dst := ETy.ofCode c.f.x.toNat
  c.cvtVal ws wd (fun v e a => convert c.ty dst v e c.scaleS c.satOn a) l

/-- FCVT (R109, R57, R58). -/
def execFcvt (f : Fields) (s : State) : Out :=
  issue (.fcvt f) (cvtEntry (.fcvt f)) (fun c s =>
    let (ws, wd) := cvtWidths c
    match c.f.x.toNat with
    | 0 => c.fpWrite s false (c.cvtVal ws wd fun v _ a => toE8M0 v.ftz a)
    | 1 => c.fpWrite s false (c.cvtVal ws wd fun v _ a => ofE8M0 v.ftz a)
    | _ => c.fpWrite s (wd == 64) c.convertVal) s
/-- ICVTF (R109, R57). -/
def execIcvtf (f : Fields) (s : State) : Out :=
  issue (.icvtf f) (cvtEntry (.icvtf f)) (fun c s => c.fpWrite s ((cvtWidths c).2 == 64) c.convertVal) s
/-- FCVTI (R109, R57). -/
def execFcvti (f : Fields) (s : State) : Out :=
  issue (.fcvti f) (cvtEntry (.fcvti f)) (fun c s => c.fpWrite s ((cvtWidths c).2 == 64) c.convertVal) s
/-- FRND (R108). -/
def execFrnd (f : Fields) (s : State) : Out :=
  issue (.frnd f) noEntry (fun c s => c.fpWrite s c.wide fun l =>
    let w := tyBits c.ty
    let a := c.v l (c.lane l) c.f.a c.wide
    packExc w fun e => fRnd (c.f.x.toNat == 1) c.ty (c.envRnd l) e (elemOf w a e)) s
/-- FSCALE (R108). -/
def execFscale (f : Fields) (s : State) : Out :=
  issue (.fscale f) noEntry (fun c s => c.fpWrite s c.wide fun l =>
    let w := tyBits c.ty
    let ln := c.lane l
    let a := c.v l ln c.f.a c.wide
    let b := c.vb l ln (viewOf c.ty) c.wide
    packExc w fun e => fScale c.ty (c.env l) e (elemOf w a e) (signedOf w (elemOf w b e))) s
/-- FDOT2 (R108). -/
def execFdot2 (f : Fields) (s : State) : Out :=
  issue (.fdot2 f) noEntry (fun c s => c.fpWrite s false fun l =>
    let ln := c.lane l
    fDot2 c.ty (c.env l) 0 (c.v l ln c.f.a false) (c.vb l ln c.ty false) (c.vc l ln false)) s

/-! ## Long-latency results -/

/-- The register writes of one lane's result in `n` registers. -/
def regWrites (regs : List Reg) (l x : Nat) : List RegWrite :=
  (regs.zipIdx).map fun (g, i) => ⟨g, l, BitVec.ofNat 32 (x / 2 ^ (32 * i))⟩

/-- A long-latency lane result: the values become the outstanding result of the instruction, in the window that X
opens; with a discarded destination nothing is outstanding (R33, R141, R142). -/
def Ctx.pendLanes (c : Ctx) (s : State) (n : Nat) (vals : List (Nat × Nat)) : State :=
  let regs := regsOf c.depth c.f.d.toNat n
  if regs.isEmpty then s
  else
    let (id, s) := fresh s
    addPending c s ⟨id, c.p.pc, windowOf c.f.x.toNat, vals.flatMap fun (l, x) => regWrites regs l x, regs, [], [], none⟩

/-- A special function: its exceptions trap at issue, its values are outstanding (R52, R111). -/
def Ctx.specialwise (c : Ctx) (s : State) (op : ETy → FEnv → Nat → FVal → FVal → Nat × Exc) : State :=
  let val := c.floatVal fun t v e a b _ => op t v e (inF t v a) (inF t v b)
  let vals := c.act.toList.map fun l => (l, val l)
  c.fpGuard s (fun l => (val l).2) (c.pendLanes s (if c.wide then 2 else 1) (vals.map fun (l, x) => (l, x.1)))

/-- The value 1. -/
def fOne : FVal := .fin false 1 0

/-- FRCP (R111). -/
def execFrcp (f : Fields) (s : State) : Out :=
  issue (.frcp f) noEntry (fun c s => c.specialwise s fun t v e a _ => fDiv t v e fOne a) s
/-- FRSQ (R111). -/
def execFrsq (f : Fields) (s : State) : Out :=
  issue (.frsq f) noEntry (fun c s => c.specialwise s fun t v e a _ => fRsq t v e a) s
/-- FSQRT (R111). -/
def execFsqrt (f : Fields) (s : State) : Out :=
  issue (.fsqrt f) noEntry (fun c s => c.specialwise s fun t v e a _ => fSqrt t v e a) s
/-- FDIV (R111). -/
def execFdiv (f : Fields) (s : State) : Out :=
  issue (.fdiv f) noEntry (fun c s => c.specialwise s fun t v e a b => fDiv t v e a b) s
/-- FEXP2 (R111). -/
def execFexp2 (f : Fields) (s : State) : Out :=
  issue (.fexp2 f) noEntry (fun c s => c.specialwise s fun t v _ a _ => fFun .exp2 t v a) s
/-- FLOG2 (R111). -/
def execFlog2 (f : Fields) (s : State) : Out :=
  issue (.flog2 f) noEntry (fun c s => c.specialwise s fun t v _ a _ => fFun .log2 t v a) s
/-- FSIN (R111). -/
def execFsin (f : Fields) (s : State) : Out :=
  issue (.fsin f) noEntry (fun c s => c.specialwise s fun t v _ a _ => fFun .sin t v a) s
/-- FCOS (R111). -/
def execFcos (f : Fields) (s : State) : Out :=
  issue (.fcos f) noEntry (fun c s => c.specialwise s fun t v _ a _ => fFun .cos t v a) s
/-- FTANH (R111). -/
def execFtanh (f : Fields) (s : State) : Out :=
  issue (.ftanh f) noEntry (fun c s => c.specialwise s fun t v _ a _ => fFun .tanh t v a) s
/-- FSIGM (R111). -/
def execFsigm (f : Fields) (s : State) : Out :=
  issue (.fsigm f) noEntry (fun c s => c.specialwise s fun t v _ a _ => fFun .sigm t v a) s

/-! ## The activation table -/

/-- a * t + c with one rounding to FP32, nearest-even, where t is exact (R114). -/
def tabFma (a : Nat) (t : FVal) (c : Nat) : Nat :=
  let x := decF .fp32 a
  let z := decF .fp32 c
  if x.isNaN || z.isNaN then nanPat .fp32
  else
    match termMul x t with
    | none => nanPat .fp32
    | some p => (finish .fp32 FEnv.nearest 0 (termSum 0 [p, termOf z])).1

/-- The segment of a value u and what it exceeds the segment's number by, which is exact (R114). -/
def tabPlace (u : FVal) : Nat × FVal :=
  match u with
  | .fin n m e =>
    let i := if n then 0 else min (if e ≥ 0 then m * 2 ^ e.toNat else m / 2 ^ (-e).toNat) 63
    let lo := min e 0
    let d := asInt n m e lo - asInt false i 0 lo
    (i, .fin (d < 0) d.natAbs lo)
  | u => (63, u)

/-- FTAB of one FP32 value on a bank (R114). -/
def ftabVal (b : ActBank) (x : Nat) : Nat :=
  let v := FEnv.nearest
  let lt (p q : Nat) : Bool := (fCmp 2 .fp32 v p q).1
  if (decF .fp32 x).isNaN then nanPat .fp32
  else if lt x b.lo.toNat then b.ylo.toNat
  else if !(lt x b.hi.toNat) then b.yhi.toNat
  else
    let dx := (fAddSub true .fp32 v 0 x b.lo.toNat).1
    let (i, t) := tabPlace (decF .fp32 (fMul .fp32 v 0 dx b.inv.toNat).1)
    let (c0, c1, c2) := nth (0, 0, 0) b.segs i
    tabFma (tabFma c2.toNat t c1.toNat) t c0.toNat

/-- FTAB of an element of a type (R114); a bank's value that is a NaN comes out canonical (R51). -/
def ftabElem (b : ActBank) (t : ETy) (x : Nat) : Nat :=
  let v := FEnv.nearest
  let y := ftabVal b (if t == .fp32 then x else (convert t .fp32 v 0 0 false x).1)
  if (decF .fp32 y).isNaN then nanPat t
  else if t == .fp32 then y else (convert .fp32 t v 0 0 false y).1

/-- FTAB (R114). -/
def execFtab (f : Fields) (s : State) : Out :=
  issue (.ftab f) noEntry (fun c s =>
    let k := coreAt s c.r.core
    let b := nth ActBank.reset k.actBanks k.actCur
    let w := tyBits c.ty
    if !b.valid then
      c.fpGuard s (fun _ => excInv) (c.pendLanes s 1 (c.act.toList.map fun l => (l, packElems w fun _ => nanPat c.ty)))
    else if b.asid != c.t.asid then
      (if c.act == 0 then s else issuedTrap c s 0x07 c.act 0)
    else
      c.pendLanes s 1 (c.act.toList.map fun l =>
        let a := c.v l (c.lane l) c.f.a false
        (l, packElems w fun e => ftabElem b c.ty (elemOf w a e)))) s

/-- The lanes that a trap of an instruction acting once per issue names: its active set, or the path's mask where that
is empty. -/
def Ctx.issueLanes (c : Ctx) : LaneSet := if c.act == 0 then c.p.mask else c.act

end Sys2Proof.Machine
end

