-- ==== Sys2Proof/Machine/Objects.lean ====
section
/-! DEFINITION. Completion objects (R271, R272), the service trains' queues (R296), and the engine-failure record
(R269). -/
namespace Sys2Proof.Machine

/-- What the check of a completion object's address gives: what holds the instruction back, and the object's key, none in
a page whose policy drops what is stored and reads zero (R271). -/
structure ObjCheck where
  entry : Entry
  key   : Option Nat

/-- The check of a completion object's address, as of a sequenced ST.64 lane (R222, R271). -/
def objCheck (s : State) (c : Ctx) (lanes : LaneSet) (ea : DWord) : ObjCheck :=
  if !canonical ea then ⟨.trap 0x07 lanes ea, none⟩
  else if ea.toNat % 32 != 0 then ⟨.trap 0x05 lanes ea, none⟩
  else
    match leafCheck s c.priv .write 32 ea (xlate s c.r.core c.t.asid ea) with
    | .ok k => ⟨.ok, some k⟩
    | .zero | .idle => ⟨.ok, none⟩
    | .peer _ _ _ => ⟨.trap 0x07 lanes ea, none⟩
    | .trap k => ⟨.trap k lanes ea, none⟩
    | .park lvl => ⟨.park [(ea, lvl)] 1 c.act, none⟩

/-- A test of an object: bad data, or whether DONE ≥ WANT (R271). -/
def objTest (s : State) (core asid : Nat) (key : Option Nat) : Option Nat × Bool × State :=
  match key with
  | none => (none, true, s)
  | some k =>
    let (bad, s) := demandRead (settleBytes s k 16) (some core) asid k 16
    (bad, decide (memLe s.mem k 8 ≥ memLe s.mem (k + 8) 8), s)

/-- The update of an object at its home (R272). -/
def performComplete (s : State) (k add errs cause : Nat) (addr : DWord) (asid : Nat) : State :=
  let (_, s) := demandRead s none asid k 32
  let old := memLe s.mem (k + 16) 4
  let s := homeWrite s asid k (leBytes 8 ((memLe s.mem k 8 + add) % 2 ^ 64))
  if errs == 0 then s
  else
    let s := homeWrite s asid (k + 16) (leBytes 4 (min (old + errs) (2 ^ 32 - 1)))
    if old != 0 then s
    else homeWrite (homeWrite s asid (k + 20) (leBytes 1 cause)) asid (k + 24) (leBytes 8 addr.toNat)

/-- A failed engine operation of a train: its cause and address enter the record where it is empty (R269). -/
def recordFail (s : State) (uid : Nat) (cause : Nat) (addr : DWord) : State :=
  let put (t : Train) : Train := if t.uid == uid && t.engFail.isNone then { t with engFail := some (cause, addr) } else t
  { s with cores := s.cores.map fun k => { k with slots := k.slots.map (Option.map put) } }

/-- The core and slot of a train that has not left its slot. -/
def findTrain (s : State) (uid : Nat) : Option (Nat × Nat) :=
  (s.cores.zipIdx).findSome? fun (k, i) =>
    ((k.slots.zipIdx).findSome? fun (o, j) => match o with
      | some t => if t.uid == uid then some (i, j) else none
      | none => none)

/-- The lanes that a trap taken at a wait names: the wait's active set, or the path's mask (R269). -/
def waitLanes (p : Path) (act : LaneSet) : LaneSet := if act == 0 then p.mask else act

/-- What a path will have learnt when its wait returns (R267, R334). -/
def willLearn (s : State) (r : PathRef) (k : List (Nat × Nat)) : State :=
  modPath s r fun p => { p with learn := joinKnow p.learn k }

/-- The return of a CWAIT or an MWAIT: the failure record is taken as a trap at the wait, else the path wakes (R269), and knows of
the completions that it has waited for (R334). -/
def endWait (s : State) (r : PathRef) (act : LaneSet) : State :=
  match trainAt s r.core r.slot, pathAt s r with
  | some t, some p =>
    match t.engFail with
    | none => modPath s r fun p => { wakePath s.point (learnPath p.learn p) with learn := [] }
    | some (cause, addr) =>
      let s := modTrain s r.core r.slot fun t => { t with engFail := none }
      takeTrap (modPath s r fun p => { wakePath s.point p with learn := [] }) r ⟨cause, waitLanes p act, p.lastPc, addr⟩
  | _, _ => s

/-- A path parks after its instruction has issued (R40). -/
def parkPath (s : State) (r : PathRef) (code : Nat) (w : Wake) : State :=
  modPath s r fun p => { p with pstate := .parked, wake := some w, stall := BitVec.ofNat 5 code }

end Sys2Proof.Machine
end

