-- ==== Sys2Proof/Machine/Access.lean ====
section
/-! DEFINITION. What the memory instructions share: the order of a path's accesses (R322-R333), entries (R245, R246),
loads (R224-R228, R401, R404), stores (R224, R225, R402, R407), and the scratchpad (R284-R292). -/
namespace Sys2Proof.Machine

/-- The order field (R227): 0 sequenced, 1 relaxed, 2 acquire, 3 release. -/
def Ctx.od (c : Ctx) : Nat := (ext0Of c.f).od.toNat
/-- The scope field. -/
def Ctx.sc (c : Ctx) : Nat := (ext0Of c.f).sc.toNat

/-- How a store of an instruction stands in the order (R323). -/
def Ctx.kind (c : Ctx) : WriteKind := .lane (c.od == 0) c.p.uid

/-! ## Order -/

/-- The holdings that count among a path's earlier accesses (R332). -/
def pathTxns (s : State) (c : Ctx) : List Txn := (coreAt s c.r.core).txns.filter fun x => x.paths.contains c.p.uid

/-- An access waits while an earlier acquire or local atomic of its path has not performed (R328). -/
def orderEntry (s : State) (c : Ctx) : Entry := waitIf ((pathTxns s c).any fun x => x.acq) 0x05

/-- The location keys of the scratchpads in what the model keeps of the order and of regions: above every memory key. -/
def scrKey (cl a : Nat) : Nat := 2 ^ 60 + cl * 2 ^ 32 + a

/-- The keys of the local lanes of an access, with its size. -/
def localKeys (size : Nat) (l : List LaneAcc) : List (Nat × Nat) :=
  l.filterMap fun x => match x.out with | .ok k => some (k, size) | _ => none

/-- Where a request of an atomic acts, among the location keys of memory and of the scratchpads. -/
def reqLoc (cl : Nat) (q : SvcReq) : Option (Nat × Nat × Nat × Nat) :=
  match q with
  | .atomic key scr _ bytes _ _ _ _ _ _ _ _ _ _ core txn _ _ _ => some (core, txn, if scr then scrKey cl key else key, bytes)
  | _ => none

/-- A read waits while an atomic of its path to the same bytes, or to the same line of a peer, has not performed (R325). -/
def atomsEntry (s : State) (c : Ctx) (keys : List (Nat × Nat)) (l : List LaneAcc) : Entry :=
  let txns := ((pathTxns s c).filter fun x => x.kind == .atomic && !x.perf).map (·.id)
  if txns.isEmpty then .ok
  else
    let here := (s.clusters.zipIdx).any fun (k, cl) => k.svc.any fun q => match reqLoc cl q with
      | some (core, txn, a, n) => core == c.r.core && txns.contains txn && keys.any fun (b, m) => a < b + m && b < a + n
      | none => false
    let there := s.remotes.any fun q => q.core == c.r.core && txns.contains q.txn && l.any fun x => match x.out with
      | .peer id pa _ => q.peer == id && q.line == pa / 256
      | _ => false
    waitIf (here || there) 0x05

/-- Whether a path's earlier accesses have performed; local stores performed when they issued, and are left out unless
`acks` (R332, R328). -/
def earlierDone (s : State) (c : Ctx) (acks : Bool) : Bool :=
  (pathTxns s c).all (fun x => x.perf || x.kind == .engine || (x.kind == .store && !acks)) &&
  !(s.outWrites.any fun w => w.paths.contains c.p.uid)

/-- The drain of the path's write-combining entries (R332, R407). -/
def wcEntry (s : State) (c : Ctx) : Entry :=
  match wcOf s c.r.core c.p.uid with
  | [] => .ok
  | es => .wait 0x14 (es.map (·.id))

/-- The waits of a FENCE (R332). -/
def fenceEntry (s : State) (c : Ctx) : Entry := (waitIf (!earlierDone s c true) 0x05).andThen (wcEntry s c)

/-- A write waits while an earlier read or atomic of its path has not performed (R327). -/
def readsEntry (s : State) (c : Ctx) : Entry :=
  waitIf ((pathTxns s c).any fun x => !x.perf && (x.kind == .load || x.kind == .atomic)) 0x05

/-- The waits of a release: every earlier access performs first (R328, R402, R407). -/
def releaseWaits (s : State) (c : Ctx) : Entry := (waitIf (!earlierDone s c false) 0x05).andThen (wcEntry s c)

/-- The waits of a write access, a release or not (R327, R328). -/
def releaseEntry (s : State) (c : Ctx) : Entry := if c.od == 3 then releaseWaits s c else readsEntry s c

/-- Whether a lane reaches a peer. -/
def LaneAcc.peer (x : LaneAcc) : Bool := match x.out with | .peer _ _ _ => true | _ => false

/-- The entries that lanes need: one per distinct line, none for a peer's store and none for a lane that makes no
access (R245). -/
def needOf (store : Bool) (l : List LaneAcc) : Nat :=
  lineCount ((l.filter fun x => !(store && x.peer) && x.out != .idle).map (·.ea))

/-- A remote read or atomic waits for the write-combining entries of its lines (R403). -/
def lineEntry (s : State) (c : Ctx) (l : List LaneAcc) : Entry :=
  if (trapOf l).isSome then .ok
  else
    let hits := (coreAt s c.r.core).wc.filter fun e => l.any fun x => match x.out with
      | .peer id pa _ => e.peer == id && e.line == pa / 256
      | _ => false
    match hits with
    | [] => .ok
    | es => .wait 0x14 (es.map (·.id))

/-! ## Loads -/

/-- What the lanes of a load find: values, and lanes with bad data. -/
structure Found where
  vals : List (Nat × Nat)
  errs : List LaneErr

/-- The lanes of a load read, in order: `get` gives a key's value or the cause of bad data. -/
def readLanes (get : State → Nat → Nat × Option Nat × State) (s : State) (l : List LaneAcc) : Found × State :=
  l.foldl (fun (acc : Found × State) x =>
    match x.out with
    | .ok k =>
      let (v, bad, s) := get acc.2 k
      match bad with
      | some cause => (⟨acc.1.vals, acc.1.errs ++ [⟨x.lane, cause, x.ea⟩]⟩, s)
      | none => (⟨acc.1.vals ++ [(x.lane, v)], acc.1.errs⟩, s)
    | .zero | .idle => (⟨acc.1.vals ++ [(x.lane, 0)], acc.1.errs⟩, acc.2)
    | _ => acc) (⟨[], []⟩, s)

/-- The trap of lanes with bad data: the lowest lane's cause and address, and the lanes with that cause (R228). -/
def errTrap (errs : List LaneErr) : Option (Nat × LaneSet × DWord) :=
  match errs with
  | [] => none
  | e :: rest =>
    let lowest := rest.foldl (fun (b : LaneErr) x => if x.lane < b.lane then x else b) e
    some (lowest.cause, errs.foldl (fun m x => if x.cause == lowest.cause then m ||| LaneSet.single x.lane else m) 0,
      lowest.addr)

/-- The number of 32-bit registers of an access size (R223). -/
def sizeRegs (size : Nat) : Nat := if size == 16 then 4 else if size == 8 then 2 else 1

/-- The extension of a datum (R226). -/
def extendDatum (sx : Bool) (size x : Nat) : Nat := if sx && size < 4 then wrapTo 32 (signedOf (8 * size) x) else x

/-- The remote lanes of a load grouped by peer and line (R401). -/
def remoteGroups (l : List LaneAcc) : List (Nat × Nat × List RemoteLane) :=
  l.foldl (fun gs x =>
    match x.out with
    | .peer id pa kill =>
      let lane : RemoteLane := ⟨x.lane, x.ea, pa % 256, kill⟩
      if gs.any fun g => g.1 == id && g.2.1 == pa / 256 then
        gs.map fun g => if g.1 == id && g.2.1 == pa / 256 then (g.1, g.2.1, g.2.2 ++ [lane]) else g
      else gs ++ [(id, pa / 256, [lane])]
    | _ => gs) []

/-- The sectors that lanes of a size touch on a line (R401). -/
def laneSectors (size : Nat) (l : List RemoteLane) : BitVec 4 :=
  BitVec.ofNat 4 (((List.range 4).filter fun k => l.any fun x => x.off / 64 ≤ k && k ≤ (x.off + size - 1) / 64).foldl
    (fun n k => n + 2 ^ k) 0)

/-- The requests of a load's remote lanes leave, one a line (R401); `id` is the result that they belong to. -/
def sendLoads (c : Ctx) (s : State) (id : Nat) (l : List LaneAcc) (regs : List Reg) (size : Nat) (sx : Bool) : List Nat × State :=
  (remoteGroups l).foldl (fun (acc : List Nat × State) (peer, line, lanes) =>
    let (rid, s) := fresh acc.2
    let sec := laneSectors size lanes
    let q : RemoteReq := ⟨rid, peer, line, sec, 0, c.r.core, id, .load c.r id lanes regs size sx⟩
    (acc.1 ++ [rid], sendRemote s q fun port => .readReq peer port rid line sec)) ([], s)

/-- The results of a load become outstanding: local values, remote requests, and the entries held for them (R33, R141,
R246, R401). A load whose data is discarded and bad traps at once. -/
def finishLoad (c : Ctx) (s : State) (fd : Found) (l : List LaneAcc) (size : Nat) (sx acq : Bool)
    (ver : Option (Nat × Word)) (entries : Nat) : State :=
  let regs := regsOf c.depth c.f.d.toNat (sizeRegs size)
  if regs.isEmpty && (remoteGroups l).isEmpty then
    (match errTrap fd.errs with
     | none => s
     | some (k, lanes, ea) => issuedTrap c s k lanes ea)
  else
    let (id, s) := fresh s
    let (reqs, s) := sendLoads c s id l regs size sx
    let s := addTxn s c.r.core ⟨id, .load, c.t.uid, entries, [c.p.uid], ver, acq && !reqs.isEmpty, reqs.isEmpty⟩
    addPending c s ⟨id, c.p.pc, if regs.isEmpty then .untilWaitl else windowOf c.f.x.toNat,
      fd.vals.flatMap fun (ln, x) => regWrites regs ln x, regs, reqs, fd.errs, none⟩

/-- The locations that a path loads or stores are noted in its region, where it is not broken (R187). -/
def noteRegion (s : State) (r : PathRef) (store : Bool) (ks : List (Nat × Nat)) : State :=
  match pathAt s r with
  | none => s
  | some p =>
    if p.region.broken || ks.isEmpty then s
    else modPath s r fun p => { p with region :=
      if store then { p.region with hit := uniq (p.region.hit ++ ks.filter fun (k, n) =>
        p.region.loaded.any fun (a, m) => a < k + n && k < a + m) }
      else { p.region with loaded := uniq (p.region.loaded ++ ks) } }

/-- A load of checked lanes: a trap, or the lanes that perform and the park of the others (R224). `kind` is the fault
record's. -/
def loadLanes (c : Ctx) (s : State) (l : List LaneAcc) (size : Nat) (sx : Bool) (kind : Nat) (ver : Option (Nat × Word))
    (get : State → Nat → Nat × Option Nat × State) : State :=
  let s := walkLanes s c l
  match trapOf l with
  | some (k, lanes, ea) => issuedTrap c s k lanes ea
  | none =>
    let relaxed := c.od == 1
    let done := doneOf relaxed l
    let unf := unfinished relaxed l
    let (fd, s) := readLanes get s done
    let s := noteRegion s c.r false (localKeys size done)
    let s := finishLoad c s fd done size sx (c.od == 2) ver (needOf false done)
    if unf.isEmpty then s else parkForPages s c.r c.p.pc (lanesOf unf) (parkedPages unf) kind

/-- Whether the cache policy of a load or a store is `.NOL1` (R221). -/
def Ctx.noL1 (c : Ctx) : Bool := subOf c.f / 8 % 4 == 2
/-- Whether it is `.STRM`. -/
def Ctx.strm (c : Ctx) : Bool := subOf c.f / 8 % 4 == 1

/-- A lane's read of bytes that stand as `now` at a key: at one point of the order, or for 128 bits at one for each half
(R321, R323). -/
def readLane (c : Ctx) (s : State) (now : List Byte) (k : Nat) : List Byte × State :=
  let rd := fun s now k => readAs s c.r (c.od == 0) (c.od == 2) now k
  if now.length ≤ 8 then rd s now k
  else
    let (lo, s) := rd s (now.take 8) k
    let (hi, s) := rd s (now.drop 8) (k + 8)
    (lo ++ hi, s)

/-- A read through the load-store route: served by the core's L1, which fetches what it lacks, or by the home (R240, R242,
R244). -/
def getMem (c : Ctx) (size : Nat) (sx : Bool) (s : State) (k : Nat) : Nat × Option Nat × State :=
  let (bad, s) := demandRead s (if c.noL1 then none else some c.r.core) c.t.asid k size
  let s := if c.noL1 then s else l1Fetch s c.r.core c.t.asid k size c.strm
  let (bs, s) := readLane c s (memBytes s.mem k size) k
  (extendDatum sx size (leNat bs), bad, s)

/-- A read through a separately cached route. -/
def getRoute (c : Ctx) (g : Route) (size : Nat) (sx : Bool) (s : State) (k : Nat) : Nat × Option Nat × State :=
  let (bs, bad, s) := routeRead s c.r.core c.t.asid g k size
  (extendDatum sx size (leNat bs), bad, s)

/-! ## Stores -/

/-- The pieces of a lane's bytes that perform each at one point: 128 bits are two accesses (R321). -/
def halves (k : Nat) (bs : List Byte) : List (Nat × List Byte) :=
  if bs.length == 16 then [(k, bs.take 8), (k + 8, bs.drop 8)] else [(k, bs)]

/-- A lane's local store: in the L1, or at the home with `.NOL1` (R225, R241, R244, R321). -/
def storeLocal (c : Ctx) (nol1 : Bool) (s : State) (k : Nat) (bs : List Byte) : State :=
  (halves k bs).foldl (fun s (k, bs) =>
    if nol1 then homeWriteAs c.kind s c.t.asid k bs
    else l1WriteAs c.kind c.strm s c.r.core c.t.asid k bs) s

/-- `n` free bytes. -/
def freeBytes (s : State) (n : Nat) : List Byte × State :=
  ((List.range n).map fun i => (Config.freeWord (s.free + i)).setWidth 8, { s with free := s.free + n })

/-- Whether bytes of the train's own window stack lie in a slot whose frame is resident for their lane, or which a transfer in the
Tender's queue moves: a privileged path must not write them (R157). A handler runs in the window of the path that it has
stopped, so its own window base counts and not that path's (R170). -/
def slotHeld (s : State) (c : Ctx) (va : DWord) (n : Nat) : Bool :=
  let own := (livePaths c.t.paths).filter fun (i, _) => match c.t.handler with | some h => i != h.entry | none => true
  let held (off : Nat) : Bool :=
    let d := off / 9216
    let l := off % 384 / 4
    off < 9216 * framesOf c.t &&
      (((own ++ livePaths (pathsOf c.t true)).any fun (_, p) =>
          p.mask.has l && depthOf p - resOf p ≤ d && d ≤ depthOf p) ||
        (coreAt s c.r.core).tender.any fun j => j.who.slot == c.r.slot && (match j.kind with
          | .spill f ls | .fill f ls => f == d && ls.has l
          | _ => false))
  (List.range ((n + 3) / 4)).any fun i => held (va + BitVec.ofNat 64 (4 * i) - winBase c.t).toNat

/-- The bytes that a lane stores: free ones where a privileged path writes a slot that it must not write (R2, R157; log entry
88). -/
def storedBytes (c : Ctx) (s : State) (va : DWord) (bs : List Byte) : List Byte × State :=
  if c.priv && slotHeld s c va bs.length then freeBytes s bs.length else (bs, s)

/-- A privileged store to slots of the train's own window stack gives the registers that it covers the values that the next fill
reads (R157). -/
def keepStored (s : State) (c : Ctx) (va : DWord) (n : Nat) : State :=
  if !c.priv || slotHeld s c va n then s
  else
    let base := (va - winBase c.t).toNat
    ((List.range ((n + 3) / 4)).map fun i => base + 4 * i).foldl (fun s off =>
      if off % 4 == 0 && off + 4 ≤ base + n && off < 9216 * framesOf c.t then
        modTrain s c.r.core c.r.slot fun t => { t with
          lanes := updAt t.lanes (off % 384 / 4) (keepRegs (off / 9216) (2 ^ (off % 9216 / 384))) }
      else s) s

/-- One lane of a store performs: in the L1, at the home with `.NOL1`, or towards a peer (R225, R241, R244, R402,
R407). -/
def storeLane (c : Ctx) (nol1 : Bool) (ver : Option (Nat × Word)) (s : State) (x : LaneAcc) (bs : List Byte) : State :=
  match x.out with
  | .ok k =>
    let (bs, s) := storedBytes c s x.ea bs
    storeLocal c nol1 (keepStored s c x.ea bs.length) k bs
  | .peer id pa _ =>
    if c.od == 3 then
      let (wid, s) := fresh s
      let mask := lineMask (pa % 256) bs.length
      let data := mergeBytes (List.replicate 256 0) (pa % 256) bs
      sendOutWrite s ⟨wid, id, pa / 256, 0, 1, c.r.core, c.t.uid, 0, [c.p.uid], [c.p.uid], ver⟩ mask
        fun port => .write id port wid (pa / 256) mask data
    else wcStore s c.r.core id pa bs c.p.uid c.t.uid ver
  | _ => s

/-- A store of checked lanes (R224, R225); a remote store breaks the region (R188). -/
def storeLanes (c : Ctx) (s : State) (l : List LaneAcc) (nol1 : Bool) (ver : Option (Nat × Word))
    (data : Nat → List Byte) : State :=
  let s := walkLanes s c l
  match trapOf l with
  | some (k, lanes, ea) => issuedTrap c s k lanes ea
  | none =>
    let relaxed := c.od == 1
    let done := doneOf relaxed l
    let unf := unfinished relaxed l
    let s := noteRegion s c.r true (done.filterMap fun x => match x.out with | .ok k => some (k, (data x.lane).length) | _ => none)
    let s := done.foldl (fun s x => storeLane c nol1 ver s x (data x.lane)) s
    let s := if done.any LaneAcc.peer then modPath s c.r fun p => { p with region := { p.region with broken := true } }
      else s
    let n := needOf true (done.filter fun x => x.out != .zero)
    let s := if n == 0 then s else
      let (id, s) := fresh s
      addTxn s c.r.core ⟨id, .store, c.t.uid, n, [c.p.uid], none, false, false⟩
    if unf.isEmpty then s else parkForPages s c.r c.p.pc (lanesOf unf) (parkedPages unf) 1

/-! ## The scratchpad -/

/-- The number that stands for an allocation's owner among the free values of its bytes. -/
def allocTag (crew : CrewRef) : Nat := crew.launch * 2 ^ 24 + crew.crew

/-- The byte at an address of a cluster's scratchpad; one that nothing has written holds a free value (R284). -/
def scrByte (s : State) (cl : Nat) (crew : CrewRef) (a : Nat) : Byte :=
  match (clusterAt s cl).scratch.find? fun x => x.1 == a with
  | some x => x.2
  | none => Config.freeByte cl a (allocTag crew)

/-- The scratchpad with one byte written. -/
def scrPut (m : List Host.Cell) (a : Nat) (v : Byte) : List Host.Cell :=
  match m with
  | [] => [(a, v)]
  | (k, b) :: r => if k < a then (k, b) :: scrPut r a v else if k == a then (a, v) :: r else (a, v) :: (k, b) :: r

/-- The mapped chunk that holds an offset of a crew (R289). -/
def chunkAt (s : State) (cl : Nat) (crew : CrewRef) (off : Nat) : Option StashChunk :=
  (clusterAt s cl).stash.find? fun ch => ch.crew == crew && ch.off ≤ off && off < ch.off + 4096

/-- The pieces of `n` bytes from an offset that lie in one aligned block of a size each: where each starts, and its length. -/
def blocksOf (size off n : Nat) : List (Nat × Nat) :=
  if n == 0 then []
  else (List.range ((off + n - 1) / size - off / size + 1)).map fun i =>
    let lo := max off ((off / size + i) * size)
    (lo, min (off + n) ((off / size + i + 1) * size) - lo)

/-- A read of bytes of one line of a mapped chunk: an unfilled line is fetched from its home, which must find it good (R291,
R292). -/
def stashRead (s : State) (cl : Nat) (ch : StashChunk) (asid off n : Nat) : List Byte × Option Nat × State :=
  let k := ch.key + (off - ch.off)
  let lo := (off - ch.off) / 256
  if ch.filled.getLsbD lo then (memBytes s.mem k n, none, s)
  else
    let (bad, s) := demandRead s none asid (k / 256 * 256) 256
    let s := if bad.isSome then s else modChunk s cl ch fun x => { x with filled := x.filled ||| BitVec.ofNat 16 (2 ^ lo) }
    (memBytes s.mem k n, bad, s)

/-- A read of bytes at an offset of a crew: from the scratchpad, or from the global lines that are stashed there, which are
then filled (R286, R291). -/
def scrRead (s : State) (cl : Nat) (crew : CrewRef) (asid off n : Nat) : List Byte × Option Nat × State :=
  (blocksOf 256 off n).foldl (fun (acc : List Byte × Option Nat × State) (o, m) =>
    let s := acc.2.2
    match chunkAt s cl crew o with
    | some ch =>
      let (bs, bad, s) := stashRead s cl ch asid o m
      (acc.1 ++ bs, acc.2.1 <|> bad, s)
    | none =>
      let base := (allocOf s cl crew).1
      (acc.1 ++ (List.range m).map fun i => scrByte s cl crew (base + o + i), acc.2.1, s)) ([], none, s)

/-- The bytes at an offset of a crew that a write is about to replace; those of a byte that nothing has written are free. -/
def scrOld (s : State) (cl : Nat) (crew : CrewRef) (off n : Nat) : List Byte :=
  let base := (allocOf s cl crew).1
  (List.range n).map fun i => scrByte s cl crew (base + off + i)

/-- A write of bytes to plain scratchpad at an offset of a crew performs (R286, R324). -/
def scrLand (kind : WriteKind) (s : State) (cl : Nat) (crew : CrewRef) (off : Nat) (bs : List Byte) : State :=
  let base := (allocOf s cl crew).1
  let old := scrOld s cl crew off bs.length
  let s := notePast (noteOver s kind cl crew off old) kind (scrKey cl (base + off)) old
  modCluster s cl fun k => { k with
    scratch := ((bs.zipIdx).foldl (fun m (b, i) => scrPut m (base + off + i) b) k.scratch) }

/-- A write of bytes at an offset of a crew, sequenced or not: to the scratchpad, or to the stashed lines, whose bytes are
masked (R286, R291). -/
def scrWriteAs (kind : WriteKind) (s : State) (cl : Nat) (crew : CrewRef) (asid off : Nat) (bs : List Byte) : State :=
  (blocksOf 256 off bs.length).foldl (fun s (o, m) =>
    let part := (bs.drop (o - off)).take m
    match chunkAt s cl crew o with
    | some ch =>
      let k := ch.key + (o - ch.off)
      let s := (granulesOf k m).foldl (fun s g => recallMasks s asid g none) s
      let s := modChunk s cl ch fun x => { x with masked := maskBytes x.masked (o - ch.off) m }
      landMem s kind (memPut s.mem k part) k m
    | none => scrLand kind s cl crew o part) s

/-- The bytes at an offset of a crew as they stand, stashed or not. -/
def offBytes (s : State) (cl : Nat) (crew : CrewRef) (off n : Nat) : List Byte :=
  (List.range n).map fun i => match chunkAt s cl crew (off + i) with
    | some ch => memRead s.mem (ch.key + (off + i - ch.off))
    | none => scrByte s cl crew ((allocOf s cl crew).1 + off + i)

/-- An engine's write at an offset of a crew: its bytes singly (R321), with what tells operations of it; `omit_` names the operations
that are not concerned (R267, R338). -/
def matWrite (s : State) (cl : Nat) (crew : CrewRef) (asid : Nat) (w : Writer) (omit_ : MatOp → Bool) (off : Nat) (bs : List Byte) :
    State :=
  let old := offBytes s cl crew off bs.length
  dirtyOps (noteWrite (scrWriteAs .singly s cl crew asid off bs) cl ⟨crew, w, off, old, none⟩) cl crew off bs.length omit_

/-- A relaxed write of bytes at an offset of a crew (R323). -/
def scrWrite (s : State) (cl : Nat) (crew : CrewRef) (asid off : Nat) (bs : List Byte) : State :=
  scrWriteAs .relaxed s cl crew asid off bs

/-- The location key of a byte of a crew's scratchpad: the stashed global byte, or the scratchpad's own (R289). -/
def scrLoc (s : State) (cl : Nat) (crew : CrewRef) (off : Nat) : Nat :=
  match chunkAt s cl crew off with
  | some ch => ch.key + (off - ch.off)
  | none => scrKey cl ((allocOf s cl crew).1 + off)

/-- The unfilled stash lines that lanes of a load touch (R291). -/
def unfilledLines (s : State) (c : Ctx) (l : List LaneAcc) : Nat :=
  let miss (x : LaneAcc) : Option Nat :=
    match x.out with
    | .ok off =>
      match chunkAt s (clusterOf c.r.core) c.t.crew off with
      | some ch => if ch.filled.getLsbD ((off - ch.off) / 256) then none else some (off / 256)
      | none => none
    | _ => none
  (uniq (l.filterMap miss)).length

end Sys2Proof.Machine
end

