-- ==== Sys2Proof/Machine/Memory.lean ====
section
/-! DEFINITION. The memory instructions (R221-R227, R239, R247-R253, R332, R422): loads and stores, the separately cached
routes, fences, prefetches, cache operations and TLBI. -/
namespace Sys2Proof.Machine

/-- Whether a lane-memory sub-function sign-extends (R221). -/
def Ctx.sx (c : Ctx) : Bool := (subOf c.f).testBit 5
/-- The bytes of source D of a lane. -/
def Ctx.dBytes (c : Ctx) (size l : Nat) : List Byte :=
  let ln := c.lane l
  let code := c.f.d.toNat
  let word (i : Nat) : Nat := if code < 48 then rdV c.t c.depth l ln (code + i) false
    else if i == 0 then rdV c.t c.depth l ln code false else 0
  leBytes size (word 0 + word 1 * 2 ^ 32 + word 2 * 2 ^ 64 + word 3 * 2 ^ 96)

/-! ## LD and ST -/

/-- The lanes of an LD (R224). -/
def ldLanes (w : Width) (s : State) (c : Ctx) : List LaneAcc := memLanes s c .read w.bytes (c.ea w.bytes)
/-- The waits of an LD. -/
def ldEntry (w : Width) (s : State) (c : Ctx) : Entry :=
  let l := ldLanes w s c
  (orderEntry s c).andThen <| (atomsEntry s c (localKeys w.bytes l) l).andThen <| (lineEntry s c l).andThen
    (txnEntry s c (needOf false l))
/-- LD (R223). -/
def execLd (w : Width) (f : Fields) (s : State) : Out :=
  issue (.ld w f) (ldEntry w)
    (fun c s => loadLanes c s (ldLanes w s c) w.bytes c.sx 0 none (getMem c w.bytes c.sx)) s

/-- The lanes of an ST (R224). -/
def stLanes (w : Width) (s : State) (c : Ctx) : List LaneAcc := memLanes s c .write w.bytes (c.ea w.bytes)
/-- The waits of an ST. -/
def stEntry (w : Width) (s : State) (c : Ctx) : Entry :=
  (orderEntry s c).andThen <| (releaseEntry s c).andThen (txnEntry s c (needOf true (stLanes w s c)))
/-- ST (R223). -/
def execSt (w : Width) (f : Fields) (s : State) : Out :=
  issue (.st w f) (stEntry w) (fun c s => storeLanes c s (stLanes w s c) c.noL1 none (c.dBytes w.bytes)) s

/-! ## The separately cached routes -/

/-- The lanes of an LDC (R247). -/
def ldcLanes (w : Width) (s : State) (c : Ctx) : List LaneAcc := memLanes s c .route w.bytes (c.ea w.bytes)
/-- The checks and waits of LDC. -/
def ldcEntry (w : Width) (s : State) (c : Ctx) : Entry := txnEntry s c (needOf false (ldcLanes w s c))

/-- LDC (R247). -/
def execLdc (w : Width) (f : Fields) (s : State) : Out :=
  issue (.ldc w f) (ldcEntry w)
    (fun c s => loadLanes c s (ldcLanes w s c) w.bytes c.sx 4 none (getRoute c .constant w.bytes c.sx)) s

/-- The checks and waits of LDL. -/
def ldlEntry (w : Width) (f : Fields) (s : State) (c : Ctx) : Entry :=
  (atIssue c (.ldl w f) (ldlBad c.ldlDesc.2.1 c.ldlDesc.2.2.2)).andThen
    (txnEntry s c (needOf false (ldlLanes s c w.bytes)))

/-- LDL (R249). -/
def execLdl (w : Width) (f : Fields) (s : State) : Out :=
  issue (.ldl w f)
    (ldlEntry w f)
    (fun c s => loadLanes c s (ldlLanes s c w.bytes) w.bytes c.sx 4 none (getRoute c .tile w.bytes c.sx)) s

/-- What one lane of an LDI reads: its checks, the entries' addresses and keys in use, and where between the two the
coordinate lies. -/
structure LdiLane where
  acc  : LaneAcc
  head : DWord
  bad  : Option Nat
  keys : List (Option Nat)
  eas  : List DWord
  frac : FVal

/-- Bytes as the sampler route would return them to a lane, without the effect of a fill, and the cause of bad data. -/
def samplerPeek (s : State) (core lane k n : Nat) : List Byte × Option Nat :=
  match routeAt s core .sampler k with
  | some x => (x.pick 1 (s.free + 64 * lane) (k % 64) n, none)
  | none => (memBytes s.mem k n, peekBad s none k n)

/-- The free values that the lanes' reads of held headers have used (R250). -/
def samplerDraws (s : State) (core : Nat) : State :=
  if (routeLines s core .sampler).any fun x => !x.later.isEmpty then { s with free := s.free + 64 * 96 } else s

/-- The entries that a coordinate selects among `n`: their indices and the fraction between them (R248). -/
def ldiPick (n x0 inv x : Nat) : List Nat × FVal :=
  let v := FEnv.nearest
  let zero : FVal := .fin false 0 0
  if (decF .fp32 x).isNaN then ([], zero)
  else
    let u := (fMul .fp32 v 0 (fAddSub true .fp32 v 0 x x0).1 inv).1
    match decF .fp32 u with
    | .fin neg m e =>
      let whole := if e ≥ 0 then m * 2 ^ e.toNat else m / 2 ^ (-e).toNat
      if neg && m != 0 then ([0], zero)
      else if whole ≥ n - 1 then ([n - 1], zero)
      else
        let fr := if e ≥ 0 then 0 else m % 2 ^ (-e).toNat
        if fr == 0 then ([whole], zero) else ([whole, whole + 1], .fin false fr e)
    | .inf true => ([0], zero)
    | _ => ([n - 1], zero)

/-- The checks of one lane of an LDI (R248). -/
def ldiLane (s : State) (c : Ctx) (size l : Nat) : LdiLane :=
  let ln := c.lane l
  let image := c.base l ln + dispOf c.f
  let none_ (out : LaneOut) (ea : DWord) : LdiLane := ⟨⟨l, ea, out⟩, image, none, [], [], .fin false 0 0⟩
  let check := checkFor s c.r.core (some (c.r.slot, l)) c.t.asid c.priv .route
  match check 16 image with
  | .ok k =>
    let (h, bad) := samplerPeek s c.r.core l k 16
    match bad with
    | some cause => { none_ (.ok k) image with bad := some cause }
    | none =>
      let finite (x : Nat) : Bool := bitsOf x 30 23 != 255
      let n := leAt h 0 4
      let fail (j : Nat) : LdiLane := none_ (.trap 0x07) (image + BitVec.ofNat 64 (4 * j))
      if n < 2 || n > 2 ^ 24 then fail 0
      else if !finite (leAt h 4 4) then fail 1
      else if !(finite (leAt h 8 4) && (fCmp 2 .fp32 FEnv.nearest 0 (leAt h 8 4)).1) then fail 2
      else if leAt h 12 4 != 0 then fail 3
      else
        let (ixs, fr) := ldiPick n (leAt h 4 4) (leAt h 8 4) (c.v l ln c.f.b false)
        let eas := ixs.map fun i => image + BitVec.ofNat 64 (16 + i * size)
        let outs := eas.map fun a => (a, check size a)
        match outs.find? fun (_, o) => match o with | .ok _ => false | .zero => false | _ => true with
        | some (a, o) => { none_ o a with eas := eas }
        | none => ⟨⟨l, image, .ok k⟩, image, none, outs.map fun (_, o) => (match o with | .ok k => some k | _ => none), eas, fr⟩
  | .zero => none_ (.trap 0x07) image
  | o => none_ o image

/-- The addresses whose lines a lane's accesses of an LDI touch: its header's, and where that is good both entries'
(R245). -/
def LdiLane.lines (x : LdiLane) : List DWord := x.head :: x.eas

/-- One interpolated value (R248): `src` is the entry's type, `dst` the result's. -/
def ldiValue (src dst : ETy) (fr : FVal) (es : List Nat) : Nat :=
  let v := FEnv.nearest
  match es with
  | [a] =>
    let x := decF src a
    if x.isNaN then nanPat dst else (finish dst v 0 (some (termOf x))).1
  | [a, b] =>
    let x := decF src a
    let y := decF src b
    if x.isNaN || y.isNaN then nanPat dst
    else
      let minus : Term → Term := fun t => match t with | .inf n => .inf (!n) | .fin n m e => .fin (!n) m e
      match termMul fr y, termMul fr x with
      | some p, some q => (finish dst v 0 (termSum 0 [termOf x, p, minus q])).1
      | _, _ => nanPat dst
  | _ => nanPat dst

/-- The result of a lane of an LDI from its entries' bytes. -/
def ldiResult (w : Width) (bf : Bool) (fr : FVal) (es : List (List Byte)) : Nat :=
  match w with
  | .w8 => ldiValue .e4m3 .fp32 fr (es.map leNat)
  | .w16 => ldiValue (if bf then .bf16 else .fp16) .fp32 fr (es.map leNat)
  | .w32 => ldiValue .fp32 .fp32 fr (es.map leNat)
  | .w64 => ldiValue .fp64 .fp64 fr (es.map leNat)
  | .w128 => (List.range 4).foldl (fun n k =>
      n + ldiValue .fp32 .fp32 fr (es.map fun b => leAt b (4 * k) 4) * 2 ^ (32 * k)) 0

/-- The lanes of an LDI. -/
def ldiLanes (w : Width) (s : State) (c : Ctx) : List LdiLane := c.act.toList.map fun l => ldiLane s c w.bytes l

/-- The locations that a lane of an LDI loads. -/
def ldiKeys (w : Width) (x : LdiLane) : List (Nat × Nat) :=
  (match x.acc.out with | .ok k => [(k, 16)] | _ => []) ++ x.keys.filterMap fun o => o.map fun k => (k, w.bytes)

/-- A lane of an LDI reads its header and entries through the sampler route. -/
def ldiRead (w : Width) (c : Ctx) (fd : Found) (s : State) (x : LdiLane) : Found × State :=
  let rd := routeRead
  match x.acc.out, x.bad with
  | _, some cause =>
    let k := match x.acc.out with | .ok k => k | _ => 0
    let (_, s) := demandRead s none c.t.asid k 16
    (⟨fd.vals, fd.errs ++ [⟨x.acc.lane, cause, x.acc.ea⟩]⟩, s)
  | .ok k, none =>
    let (_, _, s) := rd s c.r.core c.t.asid .sampler k 16
    let (bytes, err, s) := (x.keys.zip x.eas).foldl (fun (acc : List (List Byte) × Option (Nat × DWord) × State) (o, ea) =>
      match o with
      | none => (acc.1 ++ [leBytes w.bytes 0], acc.2.1, acc.2.2)
      | some k =>
        let (bs, bad, s) := rd acc.2.2 c.r.core c.t.asid .sampler k w.bytes
        (acc.1 ++ [bs], acc.2.1 <|> bad.map fun n => (n, ea), s)) ([], none, s)
    match err with
    | some (cause, ea) => (⟨fd.vals, fd.errs ++ [⟨x.acc.lane, cause, ea⟩]⟩, s)
    | none => (⟨fd.vals ++ [(x.acc.lane, ldiResult w c.sx x.frac bytes)], fd.errs⟩, s)
  | _, none => (fd, s)

/-- The checks and waits of LDI. -/
def ldiEntry (w : Width) (s : State) (c : Ctx) : Entry :=
  txnEntry s c (lineCount ((ldiLanes w s c).flatMap LdiLane.lines))

/-- LDI (R248). -/
def execLdi (w : Width) (f : Fields) (s : State) : Out :=
  issue (.ldi w f) (ldiEntry w)
    (fun c s =>
      let xs := ldiLanes w s c
      let l := xs.map (·.acc)
      let s := walkLanes (samplerDraws s c.r.core) c
        (xs.flatMap fun x => (uniq (x.acc.ea :: x.lines)).map fun a => ⟨x.acc.lane, a, .ok 0⟩)
      match trapOf l with
      | some (k, lanes, ea) => issuedTrap c s k lanes ea
      | none =>
        let done := doneOf false l
        let unf := unfinished false l
        let mine := xs.filter fun x => done.any fun y => y.lane == x.acc.lane
        let (fd, s) := mine.foldl (fun acc x => ldiRead w c acc.1 acc.2 x) ((⟨[], []⟩ : Found), s)
        let s := noteRegion s c.r false (mine.flatMap (ldiKeys w))
        let s := finishLoad c s fd done (if w.bytes < 4 then 4 else w.bytes) false false none
          (lineCount (mine.flatMap LdiLane.lines))
        if unf.isEmpty then s else parkForPages s c.r c.p.pc (lanesOf unf) (parkedPages unf) 4) s

/-! ## LDT and STT -/

/-- What an LDT or STT finds (R422). -/
def tensorLanes (s : State) (c : Ctx) (w : Width) (need : Need) : List LaneAcc :=
  match shardLanes s c need w.bytes with
  | .lanes l => l
  | .trapAll _ _ => []

/-- The version that the lanes of an LDT or STT are bound to (R425). -/
def boundVer (s : State) (c : Ctx) : Option (Nat × Word) := some (c.t.asid, shardVerOf s c.t.asid)

/-- The trap of an LDT or STT before its lanes: on the active set, if any lane is in it; an uncorrectable error met in a
descriptor or a record is found now (R369, R422). -/
def tensorTrap (c : Ctx) (s : State) (cause : Nat) (ea : DWord) : State :=
  let s := if cause == 0x0B then findError s c.t.asid (ea.toNat / 64) else s
  if c.act == 0 then s else issuedTrap c s cause c.act ea

/-- The checks and waits of LDT. -/
def ldtEntry (w : Width) (s : State) (c : Ctx) : Entry :=
  (orderEntry s c).andThen <| (atomsEntry s c (localKeys w.bytes (tensorLanes s c w .read)) (tensorLanes s c w .read)).andThen <|
    (lineEntry s c (tensorLanes s c w .read)).andThen
    (txnEntry s c (needOf false (tensorLanes s c w .read)))

/-- LDT (R422). -/
def execLdt (w : Width) (f : Fields) (s : State) : Out :=
  issue (.ldt w f)
    (ldtEntry w)
    (fun c s =>
      match shardLanes s c .read w.bytes with
      | .trapAll k ea => tensorTrap c s k ea
      | .lanes l => loadLanes c s l w.bytes false 0 (boundVer s c) (getMem c w.bytes false)) s
/-- The checks and waits of STT. -/
def sttEntry (w : Width) (s : State) (c : Ctx) : Entry :=
  (orderEntry s c).andThen <| (releaseEntry s c).andThen (txnEntry s c (needOf true (tensorLanes s c w .write)))

/-- STT (R422). -/
def execStt (w : Width) (f : Fields) (s : State) : Out :=
  issue (.stt w f)
    (sttEntry w)
    (fun c s =>
      match shardLanes s c .write w.bytes with
      | .trapAll k ea => tensorTrap c s k ea
      | .lanes l => storeLanes c s l false (boundVer s c) (c.dBytes w.bytes)) s

/-! ## Fences -/

/-- The failure report that a FENCE with a non-empty active set takes (R333, R408). -/
def reportEntry (c : Ctx) : Entry :=
  if c.act == 0 then .ok
  else
    match takenReport c.t c.p with
    | some r => .report c.act (lossAddr r.line r.peer r.reason r.kind)
    | none => .ok

/-- The checks and waits of FENCE. -/
def fenceOpEntry (s : State) (c : Ctx) : Entry := (fenceEntry s c).andThen (reportEntry c)

/-- FENCE (R332, R333). -/
def execFence (f : Fields) (s : State) : Out :=
  issue (.fence f) fenceOpEntry (fun _ s => s) s

/-- The cores within a scope of a core (R330): 1 CORE, 2 CLU, else the package. -/
def inScope (core sc n : Nat) : Bool := if sc == 1 then n == core else if sc == 2 then clusterOf n == clusterOf core else true

/-- RFENCE (R251). -/
def execRfence (f : Fields) (s : State) : Out :=
  issue (.rfence f) fenceEntry (fun c s =>
    let q := subOf c.f
    { s with
      cores := s.cores.mapIdx fun n k => if inScope c.r.core c.sc n then { k with
          icache := if q.testBit 0 then [] else k.icache,
          constants := if q.testBit 1 then [] else k.constants,
          tiles := if q.testBit 3 then [] else k.tiles } else k,
      clusters := s.clusters.mapIdx fun n k =>
        if q.testBit 2 && inScope c.r.core (max c.sc 2) (6 * n) || (q.testBit 2 && c.sc == 0) then
          { k with sampler := [] } else k }) s

/-- The wait of an OPFENCE (R266). -/
def opfenceEntry (s : State) (c : Ctx) : Entry :=
  waitIf ((pathTxns s c).any fun x => !x.perf && (x.kind == .store || x.kind == .atomic)) 0x16

/-- OPFENCE (R266, R267): the train's earlier scratchpad stores are what operations issued from now on read. -/
def execOpfence (f : Fields) (s : State) : Out :=
  issue (.opfence f) opfenceEntry (fun c s =>
    modPath (sealAll s fun x => x.writer == .store c.t.uid) c.r (learnPath [(c.t.uid, s.point)])) s

/-! ## PREF and CACHEOP -/

/-- A hint is posted to the die that homes a line; of 1,024 hints the oldest is dropped (R384). -/
def postHint (s : State) (k : Nat) : State :=
  modDie s (homeDie k) fun d =>
    { d with hints := (if d.hints.length ≥ 1024 then d.hints.drop 1 else d.hints) ++ [(k / 256, s.time)] }

/-- The line of each lane of a PREF that passes its checks (R252). The specification gives a PREF no access size, by which R222
checks alignment: the model takes one byte, so that no address is misaligned (DESIGN CHOICE: log entry 108). -/
def prefLanes (s : State) (c : Ctx) : List Nat :=
  (memLanes s c .read 1 (c.ea 4)).filterMap fun x => match x.out with | .ok k => some (k / 256) | _ => none

/-- The lines that a PREF's lanes request. -/
def prefLines (s : State) (c : Ctx) : List Nat := uniq (prefLanes s c)

/-- A line is brought into a core's L1 by a request that no lane waits for: its sectors that are good are fetched (R240,
R252). -/
def prefetchLine (s : State) (core asid line : Nat) : State :=
  ((List.range 4).map fun i => line * 4 + i).foldl (fun s g =>
    if (peekGranule s (some core) (g * 64) 64 g).isSome then s else l1Fetch (recallMasks s asid g (some core)) core asid (g * 64) 64 false) s

/-- PREF (R252): of the requested lines those are taken that find a free transaction entry; with
`.LLC` each of their lanes posts its line's hint (R384), else the line enters the L1. -/
def execPref (f : Fields) (s : State) : Out :=
  issue (.pref f) noEntry (fun c s =>
    let lines := (prefLines s c).take (entriesFree s c.r)
    let lanes := (prefLanes s c).filter lines.contains
    let s := walkLanes s c (memLanes s c .read 1 (c.ea 4))
    if subOf c.f / 8 % 4 == 1 then lanes.foldl (fun s line => postHint s (256 * line)) s
    else lines.foldl (fun s line => prefetchLine s c.r.core c.t.asid line) s) s

/-- The masked bytes of a line are written back from the L1 of a core, and from the stash where the line is mapped
(R253, R293). -/
def writeBackLine (s : State) (core asid line : Nat) : State :=
  let mine (x : L1Sector) : Bool := x.core == core && x.granule / 4 == line && x.mask != 0
  let s := (s.l1.filter mine).foldl (fun s x => homeMask s asid x.granule x.mask)
    { s with l1 := (s.l1.filter fun x => !mine x || x.valid).map fun x => if mine x then x.cleaned else x }
  match chunkOfKey s (line * 256) with
  | none => s
  | some (cl, ch) =>
    let lo := line * 256 - ch.key
    let maskOf (g : Nat) : BitVec 64 := BitVec.ofNat 64 ((List.range 64).foldl (fun n i =>
      if ch.masked.contains (g * 64 - ch.key + i) then n + 2 ^ i else n) 0)
    let s := ((List.range 4).map fun i => line * 4 + i).foldl (fun s g =>
      if maskOf g == 0 then s else homeMask s asid g (maskOf g)) s
    modChunk s cl ch fun x => { x with masked := x.masked.filter fun b => !(lo ≤ b && b < lo + 256) }

/-- The lines of the active lanes' addresses that pass their checks; the others are dropped (R253). -/
def cacheLines (s : State) (c : Ctx) : List Nat :=
  uniq ((memLanes s c .read 1 (c.ea 4)).filterMap fun x => match x.out with | .ok k => some (k / 256) | _ => none)

/-- CACHEOP_WB (R253): the copies stay. -/
def execCacheopWb (f : Fields) (s : State) : Out :=
  issue (.cacheopWb f) noEntry (fun c s =>
    (cacheLines s c).foldl (fun s line => writeBackLine s c.r.core c.t.asid line)
      (walkLanes s c (memLanes s c .read 1 (c.ea 4)))) s
/-- CACHEOP_EVICT (R253): the lines leave the L1. -/
def execCacheopEvict (f : Fields) (s : State) : Out :=
  issue (.cacheopEvict f) noEntry (fun c s =>
    (cacheLines s c).foldl (fun s line => evictLine (writeBackLine s c.r.core c.t.asid line) c.r.core c.t.asid line)
      (walkLanes s c (memLanes s c .read 1 (c.ea 4)))) s

/-- The start of the 256-byte line of a lane (R253). -/
def lineStart (x : LaneAcc) : LaneAcc :=
  { x with ea := x.ea &&& ~~~(255 : DWord), out := match x.out with
      | .ok k => .ok (k / 256 * 256)
      | .peer id pa kill => .peer id (pa / 256 * 256) kill
      | o => o }

/-- The lanes of a CACHEOP.ZERO: each lane is checked; among those that perform, the lowest of each line stores. -/
def zeroLanes (s : State) (c : Ctx) : List LaneAcc := memLanes s c .write 1 (c.ea 4)

/-- The first lane of each line. -/
def firstOfLine (l : List LaneAcc) : List LaneAcc :=
  l.foldl (fun acc x => if acc.any fun y => y.ea == (lineStart x).ea then acc else acc ++ [lineStart x]) []

/-- The checks and waits of CACHEOP.ZERO. -/
def cacheopZeroEntry (s : State) (c : Ctx) : Entry :=
  (orderEntry s c).andThen <| (releaseEntry s c).andThen (txnEntry s c (needOf true (zeroLanes s c)))

/-- CACHEOP_ZERO (R243, R253): 256 zero bytes over each line. -/
def execCacheopZero (f : Fields) (s : State) : Out :=
  issue (.cacheopZero f)
    cacheopZeroEntry
    (fun c s =>
      let l := zeroLanes s c
      let unf := unfinished (c.od == 1) l
      match trapOf l with
      | some _ => storeLanes c s l false none (fun _ => [])
      | none =>
        let s := walkLanes s c l
        let first := firstOfLine (doneOf (c.od == 1) l)
        let s := storeLanes c s first false none (fun _ => List.replicate 256 0)
        let cleared (g : Nat) : Bool := first.any fun x => match x.out with | .ok k => k / 256 == g / 4 | _ => false
        let s := { s with
          poison := s.poison.filter fun g => !cleared g,
          l1 := s.l1.map fun x => if x.core == c.r.core && cleared x.granule then { x with poison := false } else x }
        if unf.isEmpty then s else parkForPages s c.r c.p.pc (lanesOf unf) (parkedPages unf) 1) s

/-! ## TABLD -/

/-- The address of TABLD's image (R115). -/
def Ctx.tabAddr (c : Ctx) : DWord := BitVec.ofNat 64 (c.s c.f.a true) + dispOf c.f

/-- The 264 words of an image and their checks, in address order, each with its number for a lane (R115). -/
def tabWords (s : State) (c : Ctx) : List LaneAcc :=
  (List.range 264).map fun i =>
    let a := c.tabAddr + BitVec.ofNat 64 (4 * i)
    ⟨i, a, checkLane s c.r.core c.t.asid c.priv .read 4 a⟩

/-- Whether a TABLD is in flight on a core: its result is outstanding (R115). -/
def tabldFlying (s : State) (core : Nat) : Bool :=
  match (coreAt s core).tabld with
  | none => false
  | some id => (coreAt s core).slots.any fun o => match o with
    | some t => ((livePaths t.paths ++ (match t.handler with | some h => livePaths h.paths | none => [])).any fun (_, p) =>
        p.pending.any fun q => q.id == id)
    | none => false

/-- Whether an FTAB that reads the bank not current is still in its beats (R115, R116). -/
def ftabBusy (k : Core) : Bool := k.ftab.any fun (bank, till) => bank != k.actCur && till > k.cycle

/-- The waits of a TABLD: another TABLD and the FTABs of the other bank (R115 step 1), and those of its loads (R245, R328,
R403). -/
def tabldEntry (s : State) (c : Ctx) : Entry :=
  (orderEntry s c).andThen <| (atomsEntry s c (localKeys 4 (tabWords s c)) (tabWords s c)).andThen <|
  (lineEntry s c (tabWords s c)).andThen <|
  (txnEntry s c (lineCount [c.tabAddr, c.tabAddr + 256, c.tabAddr + 512, c.tabAddr + 768, c.tabAddr + 1024,
    c.tabAddr + 1055])).andThen
    (waitIf (tabldFlying s c.r.core || ftabBusy (coreAt s c.r.core)) 0x0E)

/-- The index of the first word of an image that breaks a condition of R113. -/
def tabBadWord (ws : List Nat) : Option Nat :=
  let g (i : Nat) := nth 0 ws i
  let finite (x : Nat) : Bool := bitsOf x 30 23 != 255
  let lt (p q : Nat) : Bool := (fCmp 2 .fp32 FEnv.nearest p q).1
  if !finite (g 0) then some 0
  else if !(finite (g 1) && lt (g 0) (g 1)) then some 1
  else if !(finite (g 2) && lt 0 (g 2)) then some 2
  else (List.range 264).find? fun i => (i == 5 || i == 6 || i == 7 || (i ≥ 8 && i % 4 == 3)) && g i != 0

/-- The bank that an image fills (R113). -/
def tabBank (asid : Nat) (ws : List Nat) : ActBank :=
  let g (i : Nat) : Word := BitVec.ofNat 32 (nth 0 ws i)
  ⟨true, asid, g 0, g 1, g 2, g 3, g 4, (List.range 64).map fun i => (g (8 + 4 * i), g (9 + 4 * i), g (10 + 4 * i))⟩

/-- A TABLD's flip becomes its long-latency result (R115 step 4), with the words that are known and the replies awaited. -/
def tabldPending (c : Ctx) (s : State) (id : Nat) (ws : List RegWrite) (reqs : List Nat) (errs : List LaneErr) (flip : Flip) :
    State :=
  let s := modCore s c.r.core fun k => { k with tabld := some id }
  let s := addTxn s c.r.core ⟨id, .load, c.t.uid, lineCount ((tabWords s c).map (·.ea)), [c.p.uid], none, false, reqs.isEmpty⟩
  addPending c s ⟨id, c.p.pc, windowOf c.f.x.toNat, ws, [], reqs, errs, some flip⟩

/-- The effect of TABLD (R115): the image is read through the load-store route and checked; words of a peer come later, and the
checks with them. -/
def tabldBody (c : Ctx) (s : State) : State :=
  let lanes := c.issueLanes
  if c.tabAddr.toNat % 32 != 0 then issuedTrap c s 0x05 lanes c.tabAddr
  else
    let acc := tabWords s c
    let s := walkEffects s c.r.core c.t.asid acc
    match acc.find? fun x => match x.out with | .park _ | .trap _ => true | _ => false with
    | some ⟨_, ea, .trap k⟩ => issuedTrap c s k lanes ea
    | some ⟨_, ea, .park lvl⟩ => parkForPages s c.r c.p.pc lanes [(ea, lvl)] 0
    | _ =>
      let (fd, s) := readLanes (getMem c 4 false) s acc
      let s := noteRegion s c.r false (localKeys 4 acc)
      if acc.any LaneAcc.peer then
        let (id, s) := fresh s
        let (reqs, s) := sendLoads c s id acc [.scalar 0] 4 false
        tabldPending c s id (fd.vals.flatMap fun (i, x) => regWrites [.scalar 0] i x) reqs fd.errs (.words c.tabAddr lanes)
      else
        match errTrap fd.errs with
        | some (k, _, ea) => issuedTrap c s k lanes ea
        | none =>
          let ws := fd.vals.map (·.2)
          match tabBadWord ws with
          | some i => issuedTrap c s 0x07 lanes (c.tabAddr + BitVec.ofNat 64 (4 * i))
          | none =>
            let (id, s) := fresh s
            tabldPending c s id [] [] [] (.bank (tabBank c.t.asid ws))

/-- TABLD (R115). -/
def execTabld (f : Fields) (s : State) : Out := issue (.tabld f) tabldEntry tabldBody s

/-! ## TLBI -/

/-- The cores within a scope test, by number. -/
def coresIn (s : State) (scope : Nat → Bool) : List Nat := (List.range s.cores.length).filter scope

/-- Whether a TLBI of one ASID, or of all, covers an ASID. -/
def coversAsid (asid : Option Nat) (a : Nat) : Bool := match asid with | some n => n == a | none => true

/-- Whether a TLBI of the pages that hold an address, or of every page, covers a page. -/
def coversPage (va : Option DWord) (bits vbase : Nat) : Bool :=
  match va with | some v => v.toNat / 2 ^ bits == vbase | none => true

/-- The matching core-TLB entries, kept tables and last-page registers of some cores are dropped (R239). -/
def tlbiDrop (s : State) (cores : List Nat) (asid : Option Nat) (va : Option DWord) : State :=
  let gone (e : TlbEntry) : Bool := coversAsid asid e.asid && coversPage va e.bits e.vbase
  let sweep (ln : Lane) : Lane := if ln.page.any gone then { ln with page := none } else ln
  { s with cores := s.cores.mapIdx fun n k =>
      if cores.contains n then { k with
        tlb := k.tlb.filter fun e => !gone e,
        upper := k.upper.filter fun u => !(coversAsid asid u.asid && coversPage va (levelBits u.lvl) u.vbase),
        slots := k.slots.map (Option.map fun t => { t with lanes := t.lanes.map sweep }) } else k }

/-- The parked paths and operations of some cores that a TLBI wakes: a copy engine's where any core of its cluster is one of
them (R234, R239, R275). One that waits in WAITADDR reads its word again, which may lie in another line now (R307). -/
def tlbiWake (s : State) (cores : List Nat) (asid : Option Nat) : State :=
  let hit := coversAsid asid
  let scope (n : Nat) : Bool := cores.contains n
  let wake (p : Path) : Path := match p.wake with
    | some (.pageFault u _) => { p with wake := some (.pageFault u true), flushWait := false }
    | some (.waitAddr va pa c w e d t a _ l) => { p with wake := some (.waitAddr va pa c w e d t a true l), flushWait := false }
    | _ => { p with flushWait := false }
  let train (t : Train) : Train :=
    if hit t.asid then { t with paths := t.paths.map (Option.map wake),
                                refills := t.refills.map fun x => { x with parked := false },
                                handler := t.handler.map fun h => { h with paths := h.paths.map (Option.map wake) } }
    else t
  let copies (x : CopyOp) : CopyOp := if hit x.asid then { x with atPage := false } else x
  let colls (q : CollOp) : CollOp := if hit q.asid && scope q.who.core then { q with atPage := false } else q
  { s with
    nmcs := s.nmcs.map fun q => if hit q.asid then { q with parked := [] } else q,
    launches := s.launches.map fun l => if hit l.pk.asid then { l with waitPage := false } else l,
    mcsts := s.mcsts.map fun q => if hit q.asid && scope q.who.core then { q with atPage := false } else q,
    groups := s.groups.map fun g => { g with colls := g.colls.map colls },
    control := { s.control with waits := s.control.waits && !scope 5 },
    cores := s.cores.mapIdx fun n k => if scope n then { k with slots := k.slots.map (Option.map train) } else k,
    clusters := s.clusters.mapIdx fun n k =>
      if (List.range 6).all fun i => scope (6 * n + i) then { k with copies := k.copies.map copies } else k }

/-- The accesses of a core's trains of some ASIDs that have not performed, by their numbers: they may have used a translation
that a TLBI drops. -/
def coreAccesses (k : Core) (asid : Option Nat) : List Nat :=
  let mine (uid : Nat) : Bool := k.slots.any fun o => match o with | some t => t.uid == uid && coversAsid asid t.asid | none => false
  (k.txns.filter fun x => !x.perf && mine x.train).map (·.id)

/-- The accesses under way in some cores, their packets and their clusters' copies (R239). -/
def accessesOf (s : State) (cores : List Nat) (asid : Option Nat) : List Nat :=
  (cores.flatMap fun n => coreAccesses (coreAt s n) asid) ++
  (s.outWrites.filter fun w => cores.contains w.core).map (·.id) ++
  (cores.flatMap fun n => (coreAt s n).wc.map (·.id)) ++
  (s.clusters.zipIdx).flatMap fun (k, n) => (k.copies.filter fun o =>
    o.asked && !o.moved && coversAsid asid o.asid && cores.any fun i => clusterOf i == n).map (·.id)

/-- Every TLBI whose accesses have performed completes: the paths parked in its scope wake (R239). -/
def settleShoots (s : State) : State :=
  if s.shoots.isEmpty then s
  else
    let busy (x : Shootdown) : Bool :=
      let now := accessesOf s x.cores x.asid
      x.left.any fun n => now.contains n
    (s.shoots.filter fun x => !busy x).foldl (fun s x => tlbiWake s x.cores x.asid)
      { s with shoots := s.shoots.filter busy }

/-- A TLBI of a path, or of the conductor, over the cores of a scope (R239): the translations are dropped at once; when the
accesses that may have used them have performed, it completes and wakes the paths that wait for pages. -/
def tlbi (s : State) (who : Option PathRef) (scope : Nat → Bool) (asid : Option Nat) (va : Option DWord) : State :=
  let cores := coresIn s scope
  let left := accessesOf s cores asid
  let s := tlbiDrop s cores asid va
  if left.isEmpty then tlbiWake s cores asid else { s with shoots := ⟨who, asid, va, cores, left⟩ :: s.shoots }

/-- TLBI_PAGE (R239). -/
def execTlbiPage (f : Fields) (s : State) : Out :=
  issue (.tlbiPage f) fenceEntry (fun c s =>
    tlbi s (some c.r) (inScope c.r.core c.sc) (some (c.s c.f.b false % 1024)) (some (BitVec.ofNat 64 (c.s c.f.a true)))) s
/-- TLBI_ASID (R239). -/
def execTlbiAsid (f : Fields) (s : State) : Out :=
  issue (.tlbiAsid f) fenceEntry (fun c s =>
    tlbi s (some c.r) (inScope c.r.core c.sc) (some (c.s c.f.b false % 1024)) none) s
/-- TLBI_ALL (R239). -/
def execTlbiAll (f : Fields) (s : State) : Out :=
  issue (.tlbiAll f) fenceEntry (fun c s => tlbi s (some c.r) (inScope c.r.core c.sc) none none) s

end Sys2Proof.Machine
end

