-- ==== Sys2Proof/Machine/Scratch.lean ====
section
/-! DEFINITION. Scratchpad loads and stores (R286) and the stash (R289-R293). -/
namespace Sys2Proof.Machine

/-- The lanes of an LDS or STS. -/
def scrAccess (w : Width) (s : State) (c : Ctx) : List LaneAcc := scrLanes s c w.bytes (c.scrOff w.bytes)

/-! ## Bank passes (R287) -/

/-- The aligned 8-byte words that the lanes of a car touch, each once. -/
def carWords (size car : Nat) (l : List LaneAcc) : List Nat :=
  uniq (((l.filter fun x => x.lane / 32 == car).filterMap fun x => match x.out with | .ok off => some off | _ => none).flatMap
    fun off => if size == 16 then [off / 8, off / 8 + 1] else [off / 8])

/-- The passes of a car: over the 128 banks the largest count of distinct words. -/
def carPasses (words : List Nat) : Nat :=
  words.foldl (fun m w => max m ((words.filter fun x => x % 128 == w % 128).length)) 0

/-- The passes of an access of the scratchpad's banks. -/
def passesOf (size : Nat) (l : List LaneAcc) : Nat :=
  carPasses (carWords size 0 l) + carPasses (carWords size 1 l) + carPasses (carWords size 2 l)

/-- The cluster cycles so far, which clock the scratchpad at every ratio (R287, R317). -/
def clusterCycle (s : State) (core : Nat) : Nat := (clusterAt s (clusterOf core)).cycle.toNat

/-- The banks serve an access from the cluster cycle after the present one: each pass takes a cluster cycle (R287). -/
def bankPasses (s : State) (c : Ctx) (size : Nat) (l : List LaneAcc) : State :=
  modCore s c.r.core fun k => { k with banksTo := max k.banksTo (clusterCycle s c.r.core) + passesOf size l }

/-- The wait of an access for its core's earlier passes. -/
def bankEntry (s : State) (c : Ctx) : Entry :=
  waitIf ((coreAt s c.r.core).banksTo > clusterCycle s c.r.core) 0x07

/-- The locations of the lanes of a scratchpad access, with its size (R187). -/
def scrKeys (s : State) (c : Ctx) (size : Nat) (l : List LaneAcc) : List (Nat × Nat) :=
  l.filterMap fun x => match x.out with | .ok off => some (scrLoc s (clusterOf c.r.core) c.t.crew off, size) | _ => none

/-- The checks and waits of LDS. -/
def ldsEntry (w : Width) (s : State) (c : Ctx) : Entry :=
  (orderEntry s c).andThen <| (atomsEntry s c (scrKeys s c w.bytes (scrAccess w s c)) []).andThen <| (txnEntry s c (unfilledLines s c (scrAccess w s c))).andThen (bankEntry s c)

/-- A lane's read of scratchpad (R286, R291): at one point of the order, or for 128 bits at one for each half. -/
def getScr (c : Ctx) (size : Nat) (sx : Bool) (s : State) (off : Nat) : Nat × Option Nat × State :=
  let cl := clusterOf c.r.core
  let (bs, bad, s) := scrRead s cl c.t.crew c.t.asid off size
  let (bs, s) := readLane c s bs (scrLoc s cl c.t.crew off)
  (extendDatum sx size (leNat bs), bad, s)

/-- LDS (R286, R291). -/
def execLds (w : Width) (f : Fields) (s : State) : Out :=
  issue (.lds w f) (ldsEntry w)
    (fun c s =>
      let l := scrAccess w s c
      match trapOf l with
      | some (k, lanes, ea) => issuedTrap c s k lanes ea
      | none =>
        let n := unfilledLines s c l
        let s := bankPasses (noteRegion s c.r false (scrKeys s c w.bytes l)) c w.bytes l
        let (fd, s) := readLanes (getScr c w.bytes c.sx) s l
        finishLoad c s fd [] w.bytes c.sx false none n) s

/-- The checks and waits of STS. -/
def stsEntry (_ : Width) (s : State) (c : Ctx) : Entry :=
  (orderEntry s c).andThen <| (releaseEntry s c).andThen (bankEntry s c)

/-- One lane of an STS performs (R286, R291): its pieces in order (R321). -/
def storeScr (c : Ctx) (s : State) (off : Nat) (bs : List Byte) : State :=
  let cl := clusterOf c.r.core
  (halves off bs).foldl (fun s (off, bs) => scrWriteAs c.kind s cl c.t.crew c.t.asid off bs) s

/-- STS (R286, R291). -/
def execSts (w : Width) (f : Fields) (s : State) : Out :=
  issue (.sts w f) (stsEntry w)
    (fun c s =>
      let l := scrAccess w s c
      match trapOf l with
      | some (k, lanes, ea) => issuedTrap c s k lanes ea
      | none =>
        let s := bankPasses (noteRegion s c.r true (scrKeys s c w.bytes l)) c w.bytes l
        l.foldl (fun s x => match x.out with
          | .ok off => storeScr c s off (c.dBytes w.bytes x.lane)
          | _ => s) s) s

/-! ## Stash -/

/-- The bytes of a chunk that a granule's write-back sends. -/
def chunkMask (ch : StashChunk) (g : Nat) : BitVec 64 :=
  BitVec.ofNat 64 ((List.range 64).foldl (fun n i => if ch.masked.contains (64 * g + i) then n + 2 ^ i else n) 0)

/-- The masked bytes of a chunk are written back to their home (R293). -/
def chunkWriteBack (s : State) (asid : Nat) (ch : StashChunk) : State :=
  (List.range 64).foldl (fun s g =>
    if chunkMask ch g == 0 then s else homeMask s asid (ch.key / 64 + g) (chunkMask ch g)) s

/-- The cells of a scratchpad with an address range emptied. -/
def scrClear (m : List Host.Cell) (a n : Nat) : List Host.Cell := m.filter fun x => !(a ≤ x.1 && x.1 < a + n)

/-- A chunk is unmapped: its masked bytes go home, and the bytes that were filled or masked stay in the scratchpad
(R293). -/
def unmapChunk (s : State) (cl asid : Nat) (ch : StashChunk) : State :=
  let s := chunkWriteBack s asid ch
  let base := (allocOf s cl ch.crew).1 + ch.off
  let held := (List.range 4096).filter fun i => ch.filled.getLsbD (i / 256) || ch.masked.contains i
  modCluster s cl fun k => { k with
    stash := k.stash.filter fun x => !(x.crew == ch.crew && x.off == ch.off),
    scratch := held.foldl (fun m i => scrPut m (base + i) (memRead s.mem (ch.key + i))) (scrClear k.scratch base 4096) }

/-- The offset that s[D] holds. -/
def Ctx.stashOff (c : Ctx) : Nat := c.s c.f.d false
/-- The address that s[A] holds. -/
def Ctx.stashVa (c : Ctx) : DWord := BitVec.ofNat 64 (c.s c.f.a true)
/-- The count that s[B] holds. -/
def Ctx.stashN (c : Ctx) : Nat := c.s c.f.b false

/-- The check of one page of an SMAP's range (R290 step 5). -/
def smapPage (s : State) (c : Ctx) (va : DWord) : LaneOut :=
  if !canonical va then .trap 0x07
  else
    let x := xlate s c.r.core c.t.asid va
    let ws := match x with | .leaf w _ => w.testBit 5 | _ => false
    if ws then .trap 0x09
    else
      match leafCheck s c.priv .update 4096 va x with
      | .zero | .idle => .trap 0x07
      | .peer _ _ _ => .trap 0x07
      | o => o

/-- The first failure among the chunks of an SMAP before translation: outside the allocation, or mapped (R290 step 3). -/
def smapChunks (s : State) (c : Ctx) : Option Nat :=
  let size := (allocOf s (clusterOf c.r.core) c.t.crew).2
  ((List.range c.stashN).map fun i => c.stashOff + 4096 * i).find? fun o =>
    o + 4096 > size || (chunkAt s (clusterOf c.r.core) c.t.crew o).isSome

/-- SMAP (R290). -/
def execSmap (f : Fields) (s : State) : Out :=
  issue (.smap f) orderEntry (fun c s =>
    let cl := clusterOf c.r.core
    let n := c.stashN
    let trap (k : Nat) (a : DWord) : State := issuedTrap c s k c.issueLanes a
    let off : DWord := BitVec.ofNat 64 c.stashOff
    if n < 1 || n > 256 then trap 0x07 off
    else if c.stashOff % 4096 != 0 then trap 0x05 off
    else if c.stashVa.toNat % 4096 != 0 then trap 0x05 c.stashVa
    else
      match smapChunks s c with
      | some o => trap 0x07 (BitVec.ofNat 64 o)
      | none =>
        if (clusterAt s cl).stash.length + n > 256 then trap 0x07 off
        else
          let accs : List LaneAcc := (List.range n).map fun i =>
            let va := c.stashVa + BitVec.ofNat 64 (4096 * i)
            ⟨i, va, smapPage s c va⟩
          let s := walkEffects s c.r.core c.t.asid accs
          match accs.find? fun x => match x.out with | .ok _ => false | _ => true with
          | some ⟨_, ea, .trap k⟩ => issuedTrap c s k c.issueLanes ea
          | some ⟨_, _, _⟩ => parkForPages s c.r c.p.pc c.act (parkedPages accs) 1
          | none =>
            let keys := accs.filterMap fun x => match x.out with | .ok k => some (x.ea, k) | _ => none
            match (keys.zipIdx).find? fun (p, i) => (chunkOfKey s p.2).isSome || (keys.take i).any fun q => q.2 == p.2 with
            | some (p, _) => issuedTrap c s 0x07 c.issueLanes p.1
            | none =>
              let chunks := (keys.zipIdx).map fun (p, i) =>
                (⟨c.t.crew, c.stashOff + 4096 * i, p.1, p.2, 0, []⟩ : StashChunk)
              modCluster s cl fun k => { k with stash := k.stash ++ chunks }) s

/-- SUNMAP (R293). -/
def execSunmap (f : Fields) (s : State) : Out :=
  issue (.sunmap f) orderEntry (fun c s =>
    let cl := clusterOf c.r.core
    let n := c.stashN
    let offs := (List.range n).map fun i => c.stashOff + 4096 * i
    let trap (k o : Nat) : State := issuedTrap c s k c.issueLanes (BitVec.ofNat 64 o)
    if n < 1 || n > 256 then trap 0x07 c.stashOff
    else if c.stashOff % 4096 != 0 then trap 0x05 c.stashOff
    else
      match offs.find? fun o => (chunkAt s cl c.t.crew o).isNone with
      | some o => trap 0x07 o
      | none => offs.foldl (fun s o =>
          match chunkAt s cl c.t.crew o with
          | some ch => unmapChunk s cl c.t.asid ch
          | none => s) s) s

end Sys2Proof.Machine
end

