-- ==== Sys2Proof/Machine/Atomics.lean ====
section
/-! DEFINITION. Atomics (R300-R305) and WAITADDR (R306-R308). -/
namespace Sys2Proof.Machine

/-- The new value of an atomic operation code (R301): a type, its width, rounding environment, the old value and b. -/
def atomResult (op : Nat) (ty : ETy) (rm : Nat) (ftz : Bool) (draw : Nat) (old b : Nat) : Nat :=
  let v := viewOf ty
  let w := tyBits v
  let sg := tySigned v
  match op with
  | 0 => (old + b) % 2 ^ w
  | 1 => if asView sg w b < asView sg w old then b else old
  | 2 => if asView sg w b > asView sg w old then b else old
  | 3 => old &&& b
  | 4 => old ||| b
  | 5 => old ^^^ b
  | 6 => b
  | 7 => if old ≥ b then 0 else (old + 1) % 2 ^ w
  | 8 => if old == 0 || old > b then b else old - 1
  | 9 =>
    let env : FEnv := ⟨rm, ftz, 0, 0, 0⟩
    let x := inF ty env old
    let y := inF ty env b
    if x.isNaN || y.isNaN then nanPat ty
    else
      match termSum rm [termOf x, termOf y] with
      | none => nanPat ty
      | some (.inf n) => signPat ty n + infMag ty
      | some (.fin n m e) => (roundF ty rm ftz draw false false n m e false).1
  | 10 => (fMinMax false ty ⟨rm, ftz, 0, 0, 0⟩ old b).1
  | _ => (fMinMax true ty ⟨rm, ftz, 0, 0, 0⟩ old b).1

/-- One lane's request: operation, width in bytes, operands, and the sum's draw. -/
structure AtomReq where
  op    : Nat
  bytes : Nat
  b     : Nat
  c     : Nat
  draw  : Nat

/-- Whether an atomic addresses the scratchpad (R300). -/
def Ctx.sp? (c : Ctx) : Bool := (subOf c.f).testBit 1

/-- The lanes of an atomic (R300, R302). -/
def atomLanes (s : State) (c : Ctx) (size : Nat) (disp : Bool) : List LaneAcc :=
  if c.sp? then scrLanes s c size (c.atomOff disp) else memLanes s c .update size (c.atomEa disp)

/-- The waits of an atomic (R304, R328, R403, R245). -/
def atomEntry (size : Nat) (disp : Bool) (s : State) (c : Ctx) : Entry :=
  let l := atomLanes s c size disp
  (orderEntry s c).andThen <| (releaseEntry s c).andThen <| (lineEntry s c l).andThen <|
    (txnEntry s c (if c.sp? then 0 else needOf false l)).andThen (if c.sp? then bankEntry s c else .ok)

/-- The request of one lane is sent to the owner of its line, or of its scratchpad, or to the peer (R295, R302, R402). -/
def sendAtom (c : Ctx) (noReply : Bool) (pend txn : Nat) (dests : List Reg) (s : State) (x : LaneAcc) (q : AtomReq) :
    State :=
  let rm := bitsOf c.p.mode.toNat 13 11
  let ftz := c.p.mode.getLsbD 14
  let ret := if noReply then none else some (c.r, pend, x.lane, dests)
  let cl := clusterOf c.r.core
  let local_ (k : Nat) (scr : Bool) : SvcReq :=
    .atomic k scr q.op q.bytes c.ty.code (BitVec.ofNat 64 q.b) (BitVec.ofNat 64 q.c) 0 rm ftz
      (BitVec.ofNat 24 q.draw) noReply c.t.asid ret c.r.core txn x.ea c.p.uid (if c.od == 0 then some x.lane else none)
  match x.out with
  | .ok k =>
    if c.sp? then
      match chunkAt s cl c.t.crew k with
      | some ch => svcPush s cl (local_ (ch.key + (k - ch.off)) false)
      | none => svcPush s cl (local_ ((allocOf s cl c.t.crew).1 + k) true)
    else svcPush s (ownerOf s k) (local_ k false)
  | .peer id pa _ =>
    let (rid, s) := fresh s
    let use : RemoteUse := if noReply then .atomicNoReply cl c.t.asid else .atomic c.r pend x.lane dests x.ea
    sendRemote s ⟨rid, id, pa / 256, 0, 0, c.r.core, txn, use⟩
      fun port => .atomicReq id port rid (pa / 256) q.op q.bytes c.ty.code pa (BitVec.ofNat 64 q.b)
        (BitVec.ofNat 64 q.c) rm ftz (BitVec.ofNat 24 q.draw) noReply c.t.asid
  | _ => s

/-- A lane of a privileged atomic on a slot of the window stack that it must not write: what it writes and what it returns is
unpredictable (R2, R157; log entry 88). -/
def brokenAtom (c : Ctx) (size : Nat) (dests : List Reg) (acc : List RegWrite × State) (x : LaneAcc) : List RegWrite × State :=
  match x.out with
  | .ok k =>
    let (bs, s) := freeBytes acc.2 size
    let (old, s) := freeBytes s 8
    (acc.1 ++ regWrites dests x.lane (leNat old), storeLocal c false s k bs)
  | _ => acc

/-- An atomic (R302, R305): a trap, or the requests of the lanes that perform, the entries they hold, the result that is
awaited, and the park of the others. An acquire, or a sequenced one on a sequenced location, holds every later access of its path
until it has performed (R323, R328). A lane on a page whose policy is ZERO reads 0 and writes nothing. -/
def atomBody (c : Ctx) (size : Nat) (disp noReply : Bool) (dests : List Reg) (req : Nat → AtomReq) (s : State) : State :=
  let l := atomLanes s c size disp
  let s := if c.sp? then s else walkLanes s c l
  match trapOf l with
  | some (k, lanes, ea) => issuedTrap c s k lanes ea
  | none =>
    let done := doneOf (c.od == 1) l
    let unf := unfinished (c.od == 1) l
    let sent := done.filter fun x => x.out != .zero
    let zero := done.filter fun x => x.out == .zero
    let (wrong, sent) := sent.partition fun x => c.priv && !c.sp? && slotHeld s c x.ea size
    let (lost, s) := wrong.foldl (fun acc x => brokenAtom c size dests acc x) ([], s)
    let s := if c.priv && !c.sp? then sent.foldl (fun s x => keepStored s c x.ea size) s else s
    let (id, s) := fresh s
    let holds := c.od == 2 || (c.od == 0 && sent.any fun x => !x.peer)
    let s := if sent.isEmpty then s else
      addTxn s c.r.core ⟨id, .atomic, c.t.uid, if c.sp? then 0 else needOf false sent, [c.p.uid], none, holds, false⟩
    let s := sent.foldl (fun s x => sendAtom c noReply id id dests s x (req x.lane)) s
    let s := if noReply || (sent.isEmpty && dests.isEmpty) then s else
      addPending c s ⟨id, c.p.pc, if dests.isEmpty then .untilWaitl else windowOf c.f.x.toNat,
        lost ++ zero.flatMap fun x => regWrites dests x.lane 0, dests, sent.map (·.lane), [], none⟩
    if unf.isEmpty then s else parkForPages s c.r c.p.pc (lanesOf unf) (parkedPages unf) 1

/-- The operation code of an ATOM or RED. -/
def Ctx.atomOp (c : Ctx) : Nat := subOf c.f / 4
/-- The width in bytes of the type in force. -/
def Ctx.atomSize (c : Ctx) : Nat := if c.wide then 8 else 4
/-- The draw of a lane's sum (R55, R301). -/
def Ctx.atomDraw (c : Ctx) (l : Nat) : Nat := (c.env l).draw 0
/-- The destination registers of an old value. -/
def Ctx.oldRegs (c : Ctx) : List Reg := regsOf c.depth c.f.d.toNat (if c.wide then 2 else 1)
/-- The request of an ATOM or RED lane. -/
def Ctx.atomReq (c : Ctx) (l : Nat) : AtomReq :=
  ⟨c.atomOp, c.atomSize, c.v l (c.lane l) c.f.b c.wide, 0, c.atomDraw l⟩

/-- The checks and waits of ATOM, RED and CAS. -/
def atomOpEntry (s : State) (c : Ctx) : Entry := atomEntry c.atomSize true s c

/-- ATOM (R301, R302). -/
def execAtom (f : Fields) (s : State) : Out :=
  issue (.atom f) atomOpEntry
    (fun c s => atomBody c c.atomSize true false c.oldRegs c.atomReq s) s
/-- RED (R301, R302). -/
def execRed (f : Fields) (s : State) : Out :=
  issue (.red f) atomOpEntry
    (fun c s => atomBody c c.atomSize true true [] c.atomReq s) s
/-- CAS (R302). -/
def execCas (f : Fields) (s : State) : Out :=
  issue (.cas f) atomOpEntry (fun c s =>
    atomBody c c.atomSize true false c.oldRegs (fun l =>
      let ln := c.lane l
      ⟨12, c.atomSize, c.v l ln c.f.b c.wide, c.vc l ln c.wide, 0⟩) s) s

/-- The addend of an FXADD lane as FX64, and whether its conversion saturated or met a NaN (R60, R303). -/
def Ctx.fxAddend (c : Ctx) (l : Nat) : Nat × Bool :=
  let x := c.v l (c.lane l) c.f.b c.wide % 2 ^ tyBits c.ty
  if c.ty == .fx64 then (x, false)
  else
    let (y, e) := convert c.ty .fx64 .nearest 0 c.scaleS true x
    (y, e &&& excInv != 0)

/-- The request of an FXADD lane: b is the addend, and c is 1 where the conversion failed. -/
def Ctx.fxReq (c : Ctx) (l : Nat) : AtomReq :=
  let (y, bad) := c.fxAddend l
  ⟨13, 8, y, if bad then 1 else 0, 0⟩

/-- FXADD (R303). -/
def execFxadd (f : Fields) (s : State) : Out :=
  issue (.fxadd f) (atomEntry 8 false) (fun c s =>
    let nr := (subOf c.f).testBit 2
    atomBody c 8 false nr (if nr then [] else [.pred c.f.d.toNat]) c.fxReq s) s

/-! ## WAITADDR -/

/-- Whether WAITADDR compares 64 bits. -/
def Ctx.waW (c : Ctx) : Bool := (subOf c.f).testBit 1
/-- The access size of WAITADDR. -/
def Ctx.waSize (c : Ctx) : Nat := if c.waW then 8 else 4
/-- The address of WAITADDR. -/
def Ctx.waVa (c : Ctx) : DWord := BitVec.ofNat 64 (c.s c.f.a true)
/-- The deadline of WAITADDR. -/
def Ctx.waDeadline (c : Ctx) (s : State) : Option Nat :=
  if (subOf c.f).testBit 2 then some (s.time + c.s (ext0Of c.f).c false) else none
/-- The one lane that stands for the read of WAITADDR. -/
def waLane (s : State) (c : Ctx) : LaneAcc :=
  ⟨0, c.waVa, checkLane s c.r.core c.t.asid c.priv .read c.waSize c.waVa⟩
/-- The waits of WAITADDR. -/
def waEntry (s : State) (c : Ctx) : Entry :=
  (orderEntry s c).andThen <| (lineEntry s c [waLane s c]).andThen (txnEntry s c 1)

/-- Whether a value meets the condition of a WAITADDR. -/
def waCond (eq : Bool) (cmp : DWord) (v : Nat) : Bool := (BitVec.ofNat 64 v == cmp) == eq

/-- A monitor is armed at a line's home; the table of 512 drops its oldest, whose waiter has then lost it (R308). -/
def armMonitor (s : State) (line : Nat) (r : PathRef) : State :=
  let cl := ownerCluster (line * 256)
  let ms := (clusterAt s cl).monitors.filter fun m => m.who != r
  let (dropped, kept) := if ms.length ≥ 512 then (ms.head?, ms.drop 1) else (none, ms)
  let s := modCluster s cl fun k => { k with monitors := kept ++ [⟨line, r⟩] }
  match dropped with
  | none => s
  | some m => modPath s m.who fun p => match p.wake with
      | some (.waitAddr va pa c w e d t a h _) => { p with wake := some (.waitAddr va pa c w e d t a h true) }
      | _ => p

/-- A path's monitors are dropped. -/
def disarm (s : State) (line : Nat) (r : PathRef) : State :=
  modCluster s (ownerCluster (line * 256)) fun k => { k with monitors := k.monitors.filter fun m => m.who != r }

/-- The mark of a WAITADDR on a peer's word, whose key this package does not hold. -/
def remoteKey : Nat := 2 ^ 60

/-- A remote read for a WAITADDR, with its entry (R307, R401). -/
def waRemote (s : State) (r : PathRef) (train uid id_ pa size : Nat) : State :=
  let (rid, s) := fresh s
  let sec := laneSectors size [⟨0, 0, pa % 256, false⟩]
  let s := addTxn s r.core ⟨rid, .load, train, 1, [uid], none, true, false⟩
  sendRemote s ⟨rid, id_, pa / 256, sec, 0, r.core, rid, .waitAddr r⟩ fun port => .readReq id_ port rid (pa / 256) sec

/-- WAITADDR (R307). -/
def execWaitaddr (f : Fields) (s : State) : Out :=
  issue (.waitaddr f) waEntry (fun c s =>
    let x := waLane s c
    let eq := (subOf c.f).testBit 0
    let cmp : DWord := BitVec.ofNat 64 (c.s c.f.b c.waW)
    let wake (pa : Nat) : Wake :=
      .waitAddr c.waVa pa cmp c.waW eq (c.waDeadline s) c.f.d.toNat c.act false false
    let s := walkEffects s c.r.core c.t.asid [x]
    let found (s : State) (v : Nat) (pa : Option Nat) : State :=
      if waCond eq cmp v then writeS s c.r c.f.d.toNat c.waW v
      else
        match pa with
        | some k => armMonitor (parkPath s c.r 0x09 (wake k)) (k / 256) c.r
        | none => parkPath s c.r 0x09 (wake (2 * remoteKey))
    match x.out with
    | .trap k => issuedTrap c s k c.issueLanes c.waVa
    | .park lvl => parkForPages s c.r c.p.pc c.act [(c.waVa, lvl)] 0
    | .zero | .idle => found s 0 none
    | .ok k =>
      let (bad, s) := demandRead (settleBytes s k c.waSize) (some c.r.core) c.t.asid k c.waSize
      (match bad with
       | some cause => issuedTrap c s cause c.issueLanes c.waVa
       | none => found s (memLe s.mem k c.waSize) (some k))
    | .peer id pa _ =>
      waRemote (parkPath s c.r 0x09 (wake remoteKey)) c.r c.t.uid c.p.uid id pa c.waSize) s

end Sys2Proof.Machine
end

