-- ==== Sys2Proof/Machine/Barriers.lean ====
section
/-! DEFINITION. Crew and roster barriers (R309-R314). -/
namespace Sys2Proof.Machine

/-- The operand of a barrier: the immediate, or s[A] (R310). -/
def Ctx.barOperand (c : Ctx) : Nat :=
  match c.f.ext with
  | .l1 imm _ => imm.toNat
  | .w _ lit => lit.toNat
  | _ => c.s c.f.a false

/-- The word's address of the roster that the operand names, where the crew belongs to it (R311, R344). -/
def rosterWord (s : State) (c : Ctx) : Option DWord :=
  match s.launches.find? fun l => l.id == c.t.crew.launch with
  | none => none
  | some l =>
    match l.pk.rosters.find? fun x => x.1 == c.barOperand with
    | some (_, word, members) => if members.contains c.t.crew.crew then some word else none
    | none => none

/-- Whether the executing path is not the train's only one (R312). -/
def partialMask (c : Ctx) : Bool :=
  (livePaths c.t.paths).length > 1 || !c.t.deferred.isEmpty || !c.t.refills.isEmpty

/-- The wait for a path's earlier accesses, which an arrival releases (R313, R328). -/
def arriveEntry (s : State) (c : Ctx) : Entry := releaseWaits s c

/-- The checks before the charge of a barrier (R311, R312). -/
def barEntry (roster : Bool) (s : State) (c : Ctx) : Entry :=
  let word := rosterWord s c
  (if roster && word.isNone then Entry.trap 0x07 c.p.mask (BitVec.ofNat 64 c.barOperand) else Entry.ok).andThen <|
  (if partialMask c then
      Entry.trap 0x04 c.p.mask (if roster then word.getD 0 else BitVec.ofNat 64 c.barOperand)
    else Entry.ok).andThen (arriveEntry s c)

/-- The check of a barrier's word: in the crew's scratchpad as of an STS.64 lane, or at the roster's address as of a
sequenced ST.64 lane (R311). -/
def barLane (roster : Bool) (s : State) (c : Ctx) : LaneAcc :=
  if roster then
    let va := (rosterWord s c).getD 0
    ⟨0, va, match checkLane s c.r.core c.t.asid c.priv .write 8 va with | .peer _ _ _ => .trap 0x07 | o => o⟩
  else
    ⟨0, BitVec.ofNat 64 c.barOperand, checkOff s (clusterOf c.r.core) c.t.crew 8 c.barOperand⟩

/-- Where a checked word lies: the owner's cluster, its key, and whether it is a scratchpad address (R295). -/
def barHome (roster : Bool) (s : State) (c : Ctx) (k : Nat) : Nat × Nat × Bool :=
  let cl := clusterOf c.r.core
  if roster then (ownerOf s k, k, false)
  else
    match chunkAt s cl c.t.crew k with
    | some ch => (cl, ch.key + (k - ch.off), false)
    | none => (cl, (allocOf s cl c.t.crew).1 + k, true)

/-- A barrier's word is found, or the instruction traps or parks (R222, R311). -/
def withWord (roster : Bool) (c : Ctx) (s : State) (k : Nat → Nat → Bool → State → State) : State :=
  let x := barLane roster s c
  let s := if roster then walkEffects s c.r.core c.t.asid [x] else s
  match x.out with
  | .ok key =>
    let (cl, a, scr) := barHome roster s c key
    k cl a scr s
  | .trap n => issuedTrap c s n c.p.mask x.ea
  | .park lvl => parkForPages s c.r c.p.pc c.act [(x.ea, lvl)] 1
  | _ => issuedTrap c s 0x07 c.p.mask x.ea

/-- An arrival is queued at the owner of the word, and the path waits for its token (R311). -/
def barArrive (roster : Bool) (dst : Option Nat) (thenWait : Bool) (c : Ctx) (s : State) : State :=
  withWord roster c s fun cl a scr s =>
    svcPush (parkPath s c.r 0x08 (.arrive a (barLane roster s c).ea dst thenWait scr roster)) cl (.arrive a scr c.r)

/-- A word of a cluster's scratchpad, by its address in the scratchpad. -/
def scrLe (s : State) (cl : Nat) (crew : CrewRef) (a n : Nat) : Nat :=
  leNat ((List.range n).map fun i => scrByte s cl crew (a + i))

/-- The 8 bytes of a barrier word (R309). -/
def barWord (s : State) (cl : Nat) (crew : CrewRef) (scr : Bool) (a : Nat) : Nat :=
  if scr then scrLe s cl crew a 8 else memLe s.mem a 8

/-- A wait on a phase: the path goes on where the phase has moved on, else it parks (R311). -/
def barWait (roster : Bool) (c : Ctx) (s : State) : State :=
  withWord roster c s fun cl a scr s =>
    let token := c.s c.f.b false % 2 ^ 16
    if bitsOf (barWord s cl c.t.crew scr a) 47 32 == token then
      parkPath s c.r 0x08 (.barrier a (barLane roster s c).ea token scr roster)
    else modPath s c.r (learnPath (knownAt s (if scr then scrKey cl a else a)).done)

/-- BARARV (R311). -/
def execBararv (f : Fields) (s : State) : Out :=
  issue (.bararv f) (barEntry false) (fun c s => barArrive false (some c.f.d.toNat) false c s) s
/-- BARWT (R311). -/
def execBarwt (f : Fields) (s : State) : Out := issue (.barwt f) (barEntry false) (barWait false) s
/-- BARSYNC (R311). -/
def execBarsync (f : Fields) (s : State) : Out := issue (.barsync f) (barEntry false) (barArrive false none true) s
/-- RBAR_SYNC (R311). -/
def execRbarSync (f : Fields) (s : State) : Out := issue (.rbarSync f) (barEntry true) (barArrive true none true) s
/-- RBAR_ARV (R311). -/
def execRbarArv (f : Fields) (s : State) : Out :=
  issue (.rbarArv f) (barEntry true) (fun c s => barArrive true (some c.f.d.toNat) false c s) s
/-- RBAR_WT (R311). -/
def execRbarWt (f : Fields) (s : State) : Out := issue (.rbarWt f) (barEntry true) (barWait true) s

end Sys2Proof.Machine
end

