-- ==== Sys2Proof/Machine/Branch.lean ====
section
/-! DEFINITION. Branches, reconvergence, waits and retirement (R127-R152). -/
namespace Sys2Proof.Machine

/-- A trap before the charge, where a check fails. -/
def trapEntry (x : Option (Nat × LaneSet × DWord)) : Entry :=
  match x with
  | none => .ok
  | some (k, lanes, ea) => .trap k lanes ea

/-- The Tender's transfers that an instruction still awaits (R158). -/
def demandEntry (c : Ctx) (jobs : List TenderKind) : Entry :=
  let m := missing c jobs
  if m.isEmpty then .ok else .demand m

/-- The drain and the records of a division into groups; a handler that lacks entries is killed (R127, R177). -/
def divideEntry (s : State) (c : Ctx) (groups : List PGroup) : Entry :=
  if groups.length < 2 then .ok
  else
    match divide s c groups with
    | none => .kill
    | some d => (drainEntry c).andThen (demandEntry c (d.recs.map (·.1)))

/-- The groups of a path take their entries (R127 step 6). -/
def divideNow (s : State) (c : Ctx) (groups : List PGroup) : State :=
  match divide s c groups with
  | none => s
  | some d => commitDivision s c.r d

/-- The check of a PC-relative target (R67). -/
def relEntry (lanes : LaneSet) (target : DWord) : Entry :=
  if canonical target then .ok else .trap 0x07 lanes target

/-- The checks and waits of BRA (R127, R133). -/
def braEntry (s : State) (c : Ctx) : Entry :=
  if c.taken == 0 then .ok
  else (relEntry c.taken c.relTarget).andThen (divideEntry s c (braGroups c))

/-- BRA (R133). -/
def execBra (f : Fields) (s : State) : Out :=
  issue (.bra f) braEntry (fun c s => divideNow s c (braGroups c)) s

/-- The checks and waits of BRX (R134). -/
def brxEntry (s : State) (c : Ctx) : Entry :=
  (trapEntry (checkTargets c c.regTarget)).andThen (divideEntry s c (brxGroups c))

/-- BRX (R134). -/
def execBrx (f : Fields) (s : State) : Out :=
  issue (.brx f) brxEntry (fun c s => divideNow s c (brxGroups c)) s

/-- An entry of the reconvergence table in use is written (R135, R177). -/
def setJtab (t : Train) (handler : Bool) (j : Nat) (pc : DWord) : Train :=
  if handler then { t with handler := t.handler.map fun h => { h with jtab := updAt h.jtab j fun _ => some pc } }
  else { t with jtab := updAt t.jtab j fun _ => pc }

/-- The checks and waits of JSET. -/
def jsetEntry (_ : State) (c : Ctx) : Entry := relEntry c.p.mask c.relTarget

/-- JSET (R135). -/
def execJset (f : Fields) (s : State) : Out :=
  issue (.jset f) jsetEntry (fun c s =>
    let j := c.f.x.toNat
    let s := modTrain s c.r.core c.r.slot fun t => setJtab t c.r.handler j c.relTarget
    modPath s c.r fun p => { p with jids := p.jids ||| BitVec.ofNat 16 (2 ^ j) }) s

/-- Whether the path carries the instruction's id. -/
def Ctx.carries (c : Ctx) : Bool := c.p.jids.getLsbD c.f.x.toNat

/-- The drain and the transfers of a JWAIT on a carried id (R136, R167). -/
def jwaitEntry (_ : State) (c : Ctx) : Entry :=
  if c.carries then
    (drainEntry c).andThen
      (match jwaitPeer c.t c.r.handler c.r.entry c.f.x.toNat with
       | some (_, q) => demandEntry c (mergeJobs c.p q)
       | none => Entry.ok)
  else .ok

/-- JWAIT (R136, R137). -/
def execJwait (f : Fields) (s : State) : Out :=
  issue (.jwait f) jwaitEntry (fun c s => if c.carries then arriveJwait s c.r c.f.x.toNat else s) s

/-- WAITL (R144). -/
def execWaitl (f : Fields) (s : State) : Out :=
  issue (.waitl f) (fun _ c => drainEntry c) (fun _ s => s) s

/-- The continuation of a YIELD (R145); an extension that names no target gives the YIELD's own address (DESIGN CHOICE,
unsafe: log entry 85). -/
def yieldCont (c : Ctx) : DWord := match c.f.ext with | .s => c.nextPc | _ => c.relTarget

/-- The object of a YIELD. -/
def yieldObj (c : Ctx) : DWord := BitVec.ofNat 64 (c.s c.f.a true)

/-- The drain and the checks of a YIELD (R145). -/
def yieldEntry (s : State) (c : Ctx) : Entry :=
  let o := objCheck s c c.issueLanes (yieldObj c)
  (drainEntry c).andThen <| o.entry.andThen <|
  (match (objTest s c.r.core c.t.asid o.key).1 with
   | some k => Entry.trap k c.issueLanes (yieldObj c)
   | none => Entry.ok).andThen (relEntry c.p.mask (yieldCont c))

/-- A path goes on at a PC, redirected unless the PC is that of the next instruction (R130). -/
def goTo (s : State) (r : PathRef) (pc next : DWord) : State :=
  modPath s r fun p => { p with pc := pc, fetched := none, delay := if pc == next then 0 else 4 }

/-- YIELD (R145). -/
def execYield (f : Fields) (s : State) : Out :=
  issue (.yield f) yieldEntry (fun c s =>
    let key := (objCheck s c c.issueLanes (yieldObj c)).key
    let s := walkEffect s c.r.core c.t.asid (yieldObj c)
    let (_, sat, s) := objTest s c.r.core c.t.asid key
    match sat, key with
    | false, some k => parkPath s c.r 0x0F (.yield k (yieldCont c) (yieldObj c))
    | _, _ => goTo s c.r (yieldCont c) c.nextPc) s

/-! ## EXIT and TAIL -/

/-- The status of a lane (R147). -/
def Ctx.exitStatus (c : Ctx) (l : Nat) : BitVec 16 :=
  match c.f.ext with
  | .l1 imm _ => imm
  | .w _ lit => lit.setWidth 16
  | _ => BitVec.ofNat 16 (c.v l (c.lane l) c.f.b false)

/-- The end of a handler whose every lane has retired: as though by ERET, and the path is freed with its mask empty
(R178); the reports that its paths hold are the train's (R408). -/
def endHandler (s : State) (core slot entry : Nat) (wbase : Word) (uid : Nat) (kpc : DWord) (rep : EndReport) : State :=
  match pathAt s ⟨core, slot, entry, false⟩ with
  | none => s
  | some p =>
    if p.mask != 0 then leaveHandler s core slot wbase uid kpc
    else
      let s := modTrain s core slot fun t =>
        { t with handler := none, paths := t.paths.map (Option.map thawPath),
                 reports := t.reports ++ (livePaths (pathsOf t true)).flatMap fun (_, q) => q.reports }
      takeNext (freePath s ⟨core, slot, entry, false⟩ .byExit rep) core slot entry

/-- The active lanes retire (R148, R178). -/
def retire (c : Ctx) (s : State) (how : TrainEnd) : State :=
  let rep : EndReport := ⟨c.p.pc, c.act, c.r.entry⟩
  let s := modTrain s c.r.core c.r.slot fun t => retireLanes t c.act c.exitStatus
  let s := modPath s c.r fun p => { p with mask := p.mask.diff c.act }
  let gone := c.p.mask.diff c.act == 0
  if !c.r.handler then (if gone then freePath s c.r how rep else s)
  else
    match c.t.handler with
    | none => s
    | some h =>
      let left := h.hmask.diff c.act
      let s := modTrain s c.r.core c.r.slot fun t => { t with
        handler := t.handler.map fun h => { h with hmask := left },
        paths := updAt t.paths h.entry (Option.map fun p => { p with mask := p.mask.diff c.act }) }
      if left == 0 then endHandler s c.r.core c.r.slot h.entry c.p.wbase c.p.uid c.p.pc rep
      else if gone then freePath s c.r .byExit rep
      else s

/-- EXIT (R148): the lanes of the active set retire, under a guard too, where R458's run would have every lane retire (DEDUCED,
unsafe: log entry 119). -/
def execExit (f : Fields) (s : State) : Out :=
  issue (.exit f) (fun _ c => drainEntry c) (fun c s => retire c s .byExit) s
/-- TAIL (R148). -/
def execTail (f : Fields) (s : State) : Out :=
  issue (.tail f) (fun _ c => drainEntry c) (fun c s => retire c s .byTail) s

end Sys2Proof.Machine
end

