-- ==== Sys2Proof/Machine/Mode.lean ====
section
/-! DEFINITION. NOP and ILL (R80, R81), MODE and the special registers (R36-R38, R117, R118), and the writes of WINSTACK
(R156), WINDEPTH (R169), RAMPSET (R380), SAMPCTL (R212) and DBGCTL (R191). -/
namespace Sys2Proof.Machine

/-- NOP (R81). -/
def execNop (f : Fields) (s : State) : Out := issue (.nop f) noEntry (fun _ s => s) s

/-- ILL (R80): opcode 0x00 is an illegal instruction in every form. -/
def execIll (len : BitVec 2) (hi : BitVec 22) (w1 w2 : Word) (s : State) : Out :=
  match s.sel, encodeWords (.ill len hi w1 w2) with
  | some r, some (w, _, _, _) =>
    match pathAt s r with
    | some p =>
      if issuable p then .next (decodeTrap { s with sel := none } r 0x01 w 0) else .fault .noIssuer
    | none => .fault .noIssuer
  | _, _ => .fault .noIssuer

/-- The source of a SETMODE: the immediate, or a scalar (R117). -/
def Ctx.modeSrc (c : Ctx) : Nat :=
  match c.f.ext with
  | .l1 imm _ => imm.toNat
  | .w _ lit => lit.toNat
  | _ => c.s c.f.a false

/-- The bits of MODE that can be written (R36). -/
def modeBits : Nat := 2 ^ 21

/-- MODE as a SETMODE leaves it (R117). -/
def Ctx.newMode (c : Ctx) : Nat :=
  let m := c.p.mode.toNat
  let v := c.modeSrc
  match c.f.x.toNat with
  | 0 => m / 2 ^ 16 * 2 ^ 16 + v % 2 ^ 16
  | 1 => m % 2 ^ 16 + v % 32 * 2 ^ 16
  | 2 => v % modeBits
  | _ => m / 2 ^ 11 * 2 ^ 11 + v % 16 * 2 ^ 7 + m % 2 ^ 7

/-- The checks and waits of SETMODE. -/
def setmodeEntry (f : Fields) (_ : State) (c : Ctx) : Entry := atIssue c (.setmode f) (bitsOf c.newMode 13 11 ≥ 6)

/-- SETMODE (R117). -/
def execSetmode (f : Fields) (s : State) : Out :=
  issue (.setmode f) (setmodeEntry f)
    (fun c s => modPath s c.r fun p => { p with mode := BitVec.ofNat 32 c.newMode }) s

/-! ## Special registers -/

/-- DBGCTL as it reads: the written fields, PENDH, PENDT and AGENT (R191). A halt or a step that is being taken is no pending
trap; a BRK, whose REASON is 0, is one (R183, R184). -/
def dbgctlRead (t : Train) : Nat :=
  let bit (b : Bool) (n : Nat) : Nat := if b then 2 ^ n else 0
  let pendt := (livePaths t.paths).any fun (_, p) => match p.trapDue with
    | some rc => rc.cause != 0x0F || rc.addr.toNat % 16 == 0
    | none => false
  let agent := match t.handler with | some h => h.agent | none => false
  t.dbgctl.toNat % 256 + bit t.pendHalt 8 + bit pendt 9 + bit agent 10

/-- Whether a sample ring is full with WRAP = 0 (R212, R218). -/
def sampFull (s : State) (k : Core) : Bool :=
  match k.ring with
  | some (base, size) => !k.sampctl.getLsbD 6 && (memLe s.mem base 4 + 2 ^ 32 - memLe s.mem (base + 4) 4) % 2 ^ 32 ≥ size
  | none => false

/-- The content of a special register (R38); the read is made after the instruction's charge (R202). -/
def spValue (s : State) (r : PathRef) (n : Nat) : Nat :=
  match trainAt s r.core r.slot, pathAt s r with
  | some t, some p =>
    let k := coreAt s r.core
    match n with
    | 0x00 => p.mode.toNat
    | 0x01 => if r.handler then 0 else r.entry
    | 0x02 => t.trainId.toNat
    | 0x03 => t.crew.crew
    | 0x04 => (clusterAt s (clusterOf r.core)).cycle.toNat
    | 0x05 => s.time % 2 ^ 64
    | 0x06 => tokBal s r.core
    | 0x07 => s.bank / 10 ^ 9
    | 0x08 => s.rampset.toNat
    | 0x09 => depthOf p
    | 0x0A => t.winstack.toNat
    | 0x0B => t.trapCause.toNat
    | 0x0C => t.trapPc.toNat
    | 0x0D => t.trapMask.toNat % 2 ^ 32
    | 0x0E => bitsOf t.trapMask.toNat 63 32
    | 0x0F => bitsOf t.trapMask.toNat 95 64
    | 0x10 => t.trapAddr.toNat
    | 0x11 => dbgctlRead t
    | 0x12 => k.sampctl.toNat - k.sampctl.toNat / 128 % 2 * 128 + (if sampFull s k then 128 else 0)
    | 0x13 => (shardVerOf s t.asid).toNat
    | 0x20 => s.feature0.toNat
    | 0x28 => (dieAt s 0).ageind.toNat
    | 0x29 => (dieAt s 1).ageind.toNat
    | 0x2A => (dieAt s 2).ageind.toNat
    | 0x2B => (dieAt s 3).ageind.toNat
    | _ => 0
  | _, _ => 0

/-- The checks and waits of GETSP. -/
def getspEntry (f : Fields) (_ : State) (c : Ctx) : Entry := atIssue c (.getsp f) (!spAssigned c.f.a.toNat)

/-- The effect of GETSP. -/
def getspBody (c : Ctx) (s : State) : State :=
  writeS s c.r c.f.d.toNat (spIs64 c.f.a.toNat) (spValue s c.r c.f.a.toNat)

/-- GETSP (R118). -/
def execGetsp (f : Fields) (s : State) : Out := issue (.getsp f) (getspEntry f) getspBody s

/-- The operand of a SETSP (R118). -/
def Ctx.spSrc (c : Ctx) : Nat := c.s c.f.a (spIs64 c.f.d.toNat)

/-- A lane set with 32 lanes from `32 * k` on replaced. -/
def setCar (m : LaneSet) (k x : Nat) : LaneSet :=
  let field : LaneSet := BitVec.ofNat 96 ((2 ^ 32 - 1) * 2 ^ (32 * k))
  m.diff field ||| BitVec.ofNat 96 (x % 2 ^ 32 * 2 ^ (32 * k))

/-- The write of MODE or of a trap register (R118, R173); an index with no writable field is left as it is (R38). -/
def spWrite (s : State) (r : PathRef) (n x : Nat) : State :=
  match n with
  | 0x00 => modPath s r fun p => { p with mode := BitVec.ofNat 32 (x % modeBits) }
  | 0x0B => modTrain s r.core r.slot fun t => { t with trapCause := BitVec.ofNat 32 x }
  | 0x0C => modTrain s r.core r.slot fun t => { t with trapPc := BitVec.ofNat 64 x }
  | 0x0D => modTrain s r.core r.slot fun t => { t with trapMask := setCar t.trapMask 0 x }
  | 0x0E => modTrain s r.core r.slot fun t => { t with trapMask := setCar t.trapMask 1 x }
  | 0x0F => modTrain s r.core r.slot fun t => { t with trapMask := setCar t.trapMask 2 x }
  | 0x10 => modTrain s r.core r.slot fun t => { t with trapAddr := BitVec.ofNat 64 x }
  | _ => s

/-- The checks and waits of SETSP. -/
def setspEntry (f : Fields) (_ : State) (c : Ctx) : Entry :=
  atIssue c (.setsp f) (!spAssigned c.f.d.toNat || (c.f.d.toNat == 0 && bitsOf c.spSrc 13 11 ≥ 6))

/-- SETSP of MODE, of a trap register, or of a register with no writable field (R36, R38, R118, R173). -/
def execSetsp (f : Fields) (s : State) : Out :=
  issue (.setsp f) (setspEntry f)
    (fun c s => spWrite s c.r c.f.d.toNat c.spSrc) s

/-- The deepest DEPTH of the paths of a train and of its handler (R156). -/
def deepest (t : Train) : Nat :=
  let hp := match t.handler with | some h => livePaths h.paths | none => []
  (livePaths t.paths ++ hp).foldl (fun m (_, p) => max m (depthOf p)) 0

/-- The checks of a WINSTACK write (R156). -/
def winstackEntry (i : Instr) (_ : State) (c : Ctx) : Entry :=
  let v := c.spSrc
  if !(c.t.deferred.isEmpty && c.t.refills.isEmpty) then .trap 0x09 c.p.mask (BitVec.ofNat 64 v)
  else (atIssue c i (v % 2 ^ 16 == 0)).andThen
    (if v % 2 ^ 16 ≤ deepest c.t then Entry.trap 0x08 c.p.mask (BitVec.ofNat 64 v) else Entry.ok)

/-- WINSTACK_WRITE (R156). -/
def execWinstackWrite (f : Fields) (s : State) : Out :=
  issue (.winstackWrite f) (winstackEntry (.winstackWrite f))
    (fun c s => modTrain s c.r.core c.r.slot fun t => { t with winstack := BitVec.ofNat 64 (c.spSrc % 2 ^ 56) }) s

/-- The checks and spills of a WINDEPTH write (R169). -/
def windepthEntry (_ : State) (c : Ctx) : Entry :=
  if c.spSrc ≥ framesOf c.t then .trap 0x08 c.p.mask (BitVec.ofNat 64 c.spSrc)
  else (drainEntry c).andThen
    (let m := missing c (flushJobs c.p c.p.mask)
     if m.isEmpty then Entry.ok else Entry.demand m)

/-- A lane's w0-w31 moved from one depth to another within its ring (R169). -/
def moveWindow (old new : Nat) (ln : Lane) : Lane :=
  (List.range 32).foldl (fun acc k => setLaneReg acc (.ring (ringIx new k)) (laneReg ln (.ring (ringIx old k)))) ln

/-- WINDEPTH_WRITE (R169). -/
def execWindepthWrite (f : Fields) (s : State) : Out :=
  issue (.windepthWrite f) windepthEntry (fun c s =>
    let v := c.spSrc
    let s := modTrain s c.r.core c.r.slot fun t =>
      { t with lanes := mapLanes t.lanes c.p.mask fun _ ln => moveWindow c.depth v ln }
    modPath s c.r fun p => { p with wbase := mkWbase v 0 }) s

/-- Whether a RAMPSET value keeps its ranges (R380). -/
def rampsetOk (v : Nat) : Bool :=
  let slew := bitsOf v 7 0
  let pcap := bitsOf v 17 8
  let pmin := bitsOf v 27 18
  10 ≤ slew && slew ≤ 200 && 25 ≤ pcap && pcap ≤ 1000 && 25 ≤ pmin && pmin ≤ pcap

/-- The checks and waits of a write of RAMPSET. -/
def rampsetWriteEntry (f : Fields) (_ : State) (c : Ctx) : Entry := atIssue c (.rampsetWrite f) (!rampsetOk c.spSrc)

/-- RAMPSET_WRITE (R380). -/
def execRampsetWrite (f : Fields) (s : State) : Out :=
  issue (.rampsetWrite f) (rampsetWriteEntry f)
    (fun c s => { s with rampset := BitVec.ofNat 32 (c.spSrc % 2 ^ 29) }) s

/-- A core's SAMPCTL written: EN, K and WRAP take their values, DROP's written ones clear, and the count starts anew where
EN is set or K changes (R212, R213). -/
def writeSampctl (k : Core) (v : Nat) : Core :=
  let old := k.sampctl.toNat
  let drop := (BitVec.ofNat 16 (old / 2 ^ 16)) &&& ~~~(BitVec.ofNat 16 (v / 2 ^ 16))
  let restart := (v % 2 == 1 && old % 2 == 0) || bitsOf v 5 1 != bitsOf old 5 1
  { k with
    sampctl := BitVec.ofNat 32 (v % 128 + drop.toNat * 2 ^ 16),
    sampIn := if restart then 2 ^ bitsOf v 5 1 else k.sampIn }

/-- The checks and waits of a write of SAMPCTL. -/
def sampctlWriteEntry (f : Fields) (_ : State) (c : Ctx) : Entry :=
  atIssue c (.sampctlWrite f) (bitsOf c.spSrc 5 1 < 8 || bitsOf c.spSrc 5 1 > 20)

/-- SAMPCTL_WRITE (R212). -/
def execSampctlWrite (f : Fields) (s : State) : Out :=
  issue (.sampctlWrite f) (sampctlWriteEntry f)
    (fun c s => modCore s c.r.core fun k => writeSampctl k c.spSrc) s

/-! ## Halts -/

/-- A halt is requested by HREQ and HSEL: it is pending until HALT_ENTRY can take it, and discarded on a Free entry
(R192). An entry reserved for a record is not free: the halt waits until its path is Active. -/
def requestHalt (t : Train) : Train :=
  let e := bitsOf t.dbgctl.toNat 7 4
  if t.dbgctl.getLsbD 3 then
    (if e < 8 && (haltTarget t).isNone && !(t.refills.any fun x => x.entry == e) then clearHalt t
     else { t with pendHalt := true })
  else t

/-- What a write of FREEZE does to the siblings of the path that the running agent has halted (R40, R184, R192): with FREEZE = 1
they are Frozen while it runs, and with FREEZE = 0 they run on. -/
def refreeze (t : Train) : Train :=
  match t.handler with
  | some h =>
    if !h.agent then t
    else { t with paths := t.paths.mapIdx fun i o => o.map fun q =>
      if i == h.entry then q
      else if dbgFreeze t then (if q.frozen == .none then { q with frozen := .halt } else q)
      else if q.frozen == .halt then thawPath q else q }
  | none => t

/-- The checks and waits of a write of DBGCTL. -/
def dbgctlWriteEntry (f : Fields) (_ : State) (c : Ctx) : Entry := atIssue c (.dbgctlWrite f) (bitsOf c.spSrc 7 4 > 8)

/-- DBGCTL_WRITE (R191). -/
def execDbgctlWrite (f : Fields) (s : State) : Out :=
  issue (.dbgctlWrite f) (dbgctlWriteEntry f)
    (fun c s => modTrain s c.r.core c.r.slot fun t => refreeze (requestHalt { t with dbgctl := BitVec.ofNat 32 (c.spSrc % 256) })) s

end Sys2Proof.Machine
end

