-- ==== Sys2Proof/Machine/Launch.lean ====
section
/-! DEFINITION. Launch packets and LAUNCH (R343-R346). -/
namespace Sys2Proof.Machine

/-- What reading memory for a launch gives; `ask` names a granule of a peer whose bytes have yet to come, and a trap names the ASID and the granule of an uncorrectable error that was met. -/
inductive Got (α : Type) where
  | ok (x : α)
  | park (va : DWord) (lvl kind : Nat)
  | ask (peer gran : Nat)
  | trap (cause : Nat) (va : DWord) (err : Option (Nat × Nat))

/-- The next stage of a reading. -/
def Got.bind {α β : Type} (g : Got α) (k : α → Got β) : Got β :=
  match g with
  | .ok x => k x
  | .park va lvl kind => .park va lvl kind
  | .ask peer gran => .ask peer gran
  | .trap c va err => .trap c va err

/-- Who reads a packet: the core whose L1 serves it, its translations, its ASID, its privilege, and what peers have sent of what it
reads (R346). -/
structure Reader where
  core : Option Nat
  xl   : DWord → Xlat
  asid : Nat
  priv : Bool
  got  : List PeerGot

/-- Bytes of a peer, a granule at a time (R346, R401, R404): `kill` is the loss outcome of the page. -/
def Reader.peerBytes (g : Reader) (peer pa n : Nat) (kill : Bool) (va : DWord) : Got (List Byte) :=
  (granulesOf pa n).foldl (fun (acc : Got (List Byte)) x => acc.bind fun bs =>
    match (g.got.find? fun y => y.peer == peer && y.gran == x).bind (·.data) with
    | none => .ask peer x
    | some (o, data) =>
      let (lo, len) := granulePart pa n x
      match outcomeCause o (if kill then 0x14 else 0x0A) with
      | none => .ok (bs ++ (data.drop (lo % 64)).take len)
      | some cause => .trap cause (if cause == 0x14 then lossAddr (x / 4) peer 0 0 else va + BitVec.ofNat 64 (lo - pa)) none)
    (.ok [])

/-- The uncorrectable table entry that a reader's translation of an address meets (R231). -/
def Reader.walkErr (g : Reader) (va : DWord) : Option (Nat × Nat) :=
  match g.xl va with
  | .bad _ (some n) => some (g.asid, n)
  | _ => none

/-- The first granule of a range that holds bad data for a reader, with its cause. -/
def Reader.firstBad (g : Reader) (s : State) (k n : Nat) : Option (Nat × Nat) :=
  (granulesOf k n).findSome? fun x => (peekGranule s g.core k n x).map fun cause => (x, cause)

/-- Bytes read as sequenced loads, within one page; TRAPADDR is the first of them in the granule that holds bad data (R346).
The specification does not give the loads' width. -/
def Reader.bytes (g : Reader) (s : State) (va : DWord) (n : Nat) (stackOnly : Bool) : Got (List Byte) :=
  if !canonical va then .trap 0x07 va none
  else
    match leafCheck s g.priv .read n va (g.xl va) with
    | .ok k =>
      if stackOnly && k ≥ tierBase then .trap 0x07 va none
      else
        match g.firstBad s k n with
        | some (x, cause) => .trap cause (va + BitVec.ofNat 64 ((granulePart k n x).1 - k))
            (if s.latent.contains x then some (g.asid, x) else none)
        | none => .ok (memBytes s.mem k n)
    | .zero | .idle => .ok (List.replicate n 0)
    | .park lvl => .park va lvl 0
    | .trap c => .trap c va (g.walkErr va)
    | .peer peer pa kill => if stackOnly then .trap 0x07 va none else g.peerBytes peer pa n kill va

/-- The check of an object's address for a launch (R271, R346). -/
def objFor (s : State) (g : Reader) (a : DWord) : Got Unit :=
  if a == 0 then .ok ()
  else if !canonical a then .trap 0x07 a none
  else
    match leafCheck s g.priv .write 32 a (g.xl a) with
    | .ok _ | .zero | .idle => .ok ()
    | .park lvl => .park a lvl 1
    | .trap c => .trap c a (g.walkErr a)
    | .peer _ _ _ => .trap 0x07 a none

/-- The first byte of a range that is not zero. -/
def firstByte (b : List Byte) (lo hi : Nat) : Option Nat :=
  ((List.range (hi - lo)).map fun i => lo + i).find? fun i => nth 0 b i != 0

/-- The first offending byte of a packet (R343), for an issuer that must name its own ASID or need not. -/
def packetBad (b : List Byte) (own : Option Nat) : Option Nat :=
  let f (off n : Nat) : Nat := leAt b off n
  let chk (off : Nat) (ok : Bool) : Option Nat := if ok then none else some off
  let n := f 16 2 * f 18 2 * f 20 2
  (chk 0 (f 0 2 == 1)) <|> (chk 2 (f 2 1 < 16)) <|> (chk 3 (1 ≤ f 3 1 && f 3 1 ≤ 24)) <|>
  (chk 4 (f 4 2 < 1024 && (match own with | some a => f 4 2 == a | none => true))) <|> (chk 6 (f 6 2 ≥ 1)) <|>
  (chk 8 (f 8 4 % 4096 == 0 && f 8 4 ≤ 4194304)) <|>
  (chk 12 (f 12 2 < 4096 && ((f 2 1).testBit 3 || f 12 2 == 0))) <|> firstByte b 14 16 <|>
  (chk 16 (f 16 2 ≥ 1)) <|> (chk 18 (f 18 2 ≥ 1)) <|> (chk 20 (f 20 2 ≥ 1 && n ≤ 2 ^ 24)) <|> firstByte b 22 24 <|>
  (chk 24 (f 24 8 % 4 == 0 && canonical (BitVec.ofNat 64 (f 24 8)))) <|> (chk 40 (f 40 8 % 4096 == 0)) <|>
  (chk 48 (f 48 8 % 32 == 0)) <|> (chk 56 (f 56 8 % 32 == 0)) <|>
  ([64, 72, 80, 88].findSome? fun o => chk o (f o 8 % 32 == 0)) <|> (chk 96 (f 96 8 % 65536 == 0)) <|>
  (chk 104 (f 104 8 % 256 == 0)) <|> (chk 112 (f 112 8 % 512 == 0)) <|> firstByte b 120 128 <|> firstByte b 192 256

/-- The packet of 256 good bytes, without its rosters (R343). -/
def packetOf (b : List Byte) : Packet :=
  let f (off n : Nat) : Nat := leAt b off n
  let d (off : Nat) : DWord := BitVec.ofNat 64 (f off 8)
  { prio := f 2 1 % 8, placed := (f 2 1).testBit 3, trains := f 3 1, asid := f 4 2, frames := f 6 2, scratch := f 8 4,
    shard := f 12 2, grid := (f 16 2, f 18 2, f 20 2), entry := d 24, seed := d 32, crecBase := d 48, doneObj := d 56,
    deps := [d 64, d 72, d 80, d 88], wsBase := d 96, saveBase := d 104, mboxBase := d 112,
    args := (List.range 16).map fun i => BitVec.ofNat 32 (f (128 + 4 * i) 4), rosters := [] }

/-- The crews of a launch. -/
def Packet.crews (p : Packet) : Nat := p.grid.1 * p.grid.2.1 * p.grid.2.2

/-- A member list: crew indices strictly ascending, each below N and in at most four lists (R344). -/
def readMembers (s : State) (g : Reader) (base : DWord) (n : Nat) (others : List (List Nat)) :
    Nat → List Nat → Got (List Nat)
  | 0, acc => .ok acc
  | k + 1, acc =>
    let a := base + BitVec.ofNat 64 (4 * acc.length)
    (g.bytes s a 4 false).bind fun b =>
      let v := leNat b
      let low := match acc.getLast? with | some x => v ≤ x | none => false
      if low || v ≥ n || (others.filter fun l => l.contains v).length ≥ 4 then .trap 0x07 a none
      else readMembers s g base n others k (acc ++ [v])

/-- The rosters of a table, from entry `256 - fuel` on (R344). -/
def readRosters (s : State) (g : Reader) (base : DWord) (n : Nat) (tab : List Byte) :
    Nat → List (Nat × DWord × List Nat) → Got (List (Nat × DWord × List Nat))
  | 0, acc => .ok acc
  | k + 1, acc =>
    let r := 256 - (k + 1)
    let at_ (o : Nat) : DWord := base + BitVec.ofNat 64 (16 * r + o)
    let word := leAt tab (16 * r) 8
    let off := leAt tab (16 * r + 8) 4
    let cnt := leAt tab (16 * r + 12) 4
    if cnt == 0 then readRosters s g base n tab k acc
    else if word % 8 != 0 then .trap 0x07 (at_ 0) none
    else if off % 4 != 0 then .trap 0x07 (at_ 8) none
    else
      (readMembers s g (base + BitVec.ofNat 64 off) n (acc.map fun x => x.2.2) (min cnt (n + 1)) []).bind fun m =>
        readRosters s g base n tab k (acc ++ [(r, BitVec.ofNat 64 word, m)])

/-- The check of a placed launch's shard descriptor (R346, R423). -/
def shardFor (s : State) (g : Reader) (p : Packet) : Got Unit :=
  if p.placed then
    match bindShard s g.core p.asid p.shard with
    | .dsc _ => .ok ()
    | .absent => .trap 0x15 (BitVec.ofNat 64 p.shard) none
    | .malformed => .trap 0x15 (BitVec.ofNat 64 (p.shard + 4096)) none
    | .bad cause key => .trap cause (BitVec.ofNat 64 (key % 2 ^ 52))
        (if cause == 0x0B then some (p.asid, granuleOf key) else none)
  else .ok ()

/-- The packet that LAUNCH copies, or what holds it back (R346 steps 3 and 4): `obj` reads in the packet's ASID. -/
def readPacket (s : State) (g : Reader) (obj : Nat → Reader) (own : Option Nat) (va : DWord) : Got Packet :=
  if va.toNat % 256 != 0 then .trap 0x07 va none
  else
    (g.bytes s va 256 true).bind fun b =>
      match packetBad b own with
      | some off => .trap 0x07 (va + BitVec.ofNat 64 off) none
      | none =>
        let p := packetOf b
        let rosters := BitVec.ofNat 64 (leAt b 40 8)
        ((p.doneObj :: p.deps).foldl (fun (acc : Got Unit) a => acc.bind fun _ => objFor s (obj p.asid) a) (.ok ())).bind
          fun _ => (shardFor s g p).bind fun _ =>
            if rosters == 0 then .ok p
            else (g.bytes s rosters 4096 false).bind fun tab =>
              (readRosters s g rosters p.crews tab 256 []).bind fun l => .ok { p with rosters := l }

/-- The launches whose crews are not all placed or cancelled (R346). -/
def pendingLaunches (s : State) : Nat := (s.launches.filter fun l => !l.freed).length

/-- A launch enters the pending-launch table (R346 step 6). -/
def enterLaunch (s : State) (p : Packet) : State :=
  let (id, s) := fresh s
  { s with launches := s.launches ++ [⟨id, p, none, 0, [], none, false, none, false, []⟩] }

/-- The packet that a path's LAUNCH names. -/
def Ctx.packet (c : Ctx) (s : State) : Got Packet :=
  let g (asid : Nat) : Reader := ⟨some c.r.core, fun va => xlate s c.r.core asid va, asid, c.priv, c.p.got⟩
  readPacket s (g c.t.asid) g (if c.priv then none else some c.t.asid) (BitVec.ofNat 64 (c.s c.f.a true))

/-- A granule of a peer that LAUNCH has to read: a remote load, which waits for the write-combining entries of its line (R346, R401,
R403). -/
def askEntry (s : State) (c : Ctx) (peer gran : Nat) : Entry :=
  match (coreAt s c.r.core).wc.filter fun e => e.peer == peer && e.line == gran / 4 with
  | [] => .ask peer gran
  | es => .wait 0x14 (es.map (·.id))

/-- The steps of LAUNCH before it issues (R346). -/
def launchEntry (i : Instr) (s : State) (c : Ctx) : Entry :=
  (if ctxLaunch s c.t.asid then Entry.ok else Entry.trap 0x03 c.p.mask (decodeAddr c i 0)).andThen <|
  (fenceEntry s c).andThen <|
  (match c.packet s with
   | .ok _ => Entry.ok
   | .park va lvl kind => Entry.park [(va, lvl)] kind c.act
   | .ask peer gran => askEntry s c peer gran
   | .trap cause va none => Entry.trap cause c.issueLanes va
   | .trap cause va (some (asid, g)) => Entry.found asid g cause c.issueLanes va).andThen
  (waitIf (pendingLaunches s ≥ 256) 0x05)

/-- LAUNCH (R346). -/
def execLaunch (f : Fields) (s : State) : Out :=
  issue (.launch f) (launchEntry (.launch f)) (fun c s =>
    match c.packet s with
    | .ok p => enterLaunch s p
    | _ => s) s

end Sys2Proof.Machine
end

