-- ==== Sys2Proof/Machine/Engines.lean ====
section
/-! DEFINITION. The engines: matrix operations and GATHER (R254-R268), accumulators (R270), copies (R273, R274), waits
(R268, R276), circular buffers (R277-R279), and the grants they ask for (R265, R316). The steps of the engines
themselves stand in EngineSteps.lean. -/
namespace Sys2Proof.Machine

/-- A check at issue on a cause (R94). -/
def r94 (c : Ctx) (i : Instr) (cause : Nat) (bad : Bool) : Entry :=
  if bad then .trap cause c.p.mask (decodeAddr c i 0) else .ok

/-- Only a leader core issues to the matrix queue (R254). -/
def leaderEntry (c : Ctx) (i : Instr) : Entry := r94 c i 0x07 (c.r.core % 2 == 1)

/-- The size of the crew's allocation. -/
def Ctx.allocSize (c : Ctx) (s : State) : Nat := (allocOf s (clusterOf c.r.core) c.t.crew).2

/-- The one transaction entry of an engine instruction (R255). -/
def engineEntry (s : State) (c : Ctx) : Entry := txnEntry s c 1

/-! ## Grants -/

/-- The accumulators that an operation names (R257, R258). -/
def MatOp.accs (o : MatOp) : List Nat :=
  match o.kind with
  | .gather _ => []
  | .mma 7 _ _ _ | .mmag 7 _ _ | .accrd 5 _ _ | .accwr 1 => [o.acc, o.acc + 1]
  | _ => [o.acc]

/-- Whether an operation reads its B from a buffer. -/
def MatOp.bq (o : MatOp) : Bool :=
  match o.kind with
  | .mma _ _ _ q => q
  | .mmag _ _ q => q
  | _ => false

/-- The buffer that an operation's descriptor names (R259). -/
def MatOp.qid (o : MatOp) : Nat := (nth 0 o.desc 6).toNat % 8

/-- A buffer of a cluster. -/
def bufAt (k : Cluster) (q : Nat) : Option Buffer := nth none k.bufs q

/-- The state of a buffer's head slot. -/
def headState (k : Cluster) (q : Nat) : Option SlotState := (bufAt k q).map fun b => nth .empty b.slots b.head

/-- The conditions for the start of an operation beside its grant (R256, R265); an MMA with `.LAT` reads the latch as the
GATHERs ahead of it have left it (R264). -/
def matReady (k : Cluster) (p : Pair) (o : MatOp) : Bool :=
  let before := (p.queue.takeWhile fun x => x.id != o.id).filter fun x => x.train == o.train
  (before.all fun x => x.started && !(x.accs.any fun a => o.accs.contains a)) &&
  (match o.kind with
   | .mma _ _ true _ => (p.queue.takeWhile fun x => x.id != o.id).all fun x => match x.kind with | .gather _ => false | _ => true
   | _ => true) &&
  (!o.bq || headState k o.qid == some .full)

/-- The pairs' operations that can start ask for their grants (R316). -/
def requestMats (s : State) (cl : Nat) : State :=
  ((clusterAt s cl).pairs.zipIdx).foldl (fun s (p, i) =>
    p.queue.foldl (fun s o =>
      if !o.started && !o.granted && !o.waiting && matReady (clusterAt s cl) p o then
        modCluster s cl fun k => { k with
          sbq := k.sbq ++ [⟨s.time, 6 * cl + 2 * i, .matrix (3 * cl + i) o.id⟩],
          pairs := updAt k.pairs i fun p => { p with
            queue := p.queue.map fun x => if x.id == o.id then { x with waiting := true } else x } }
      else s) s) s

/-- Whether a push's slot is free for it: the slot is not full or being read, and no earlier copy holds it (R279). -/
def slotFree (k : Cluster) (o : CopyOp) : Bool :=
  match o.queue with
  | none => true
  | some q =>
    match bufAt k q with
    | none => false
    | some b => slotOpen k q o.id o.qslot b

/-- The oldest copies whose slots are free ask for the cluster's two engines (R265, R279). -/
def requestCopies (s : State) (cl : Nat) : State :=
  (clusterAt s cl).copies.foldl (fun s o =>
    let k := clusterAt s cl
    let busy := (k.copies.filter fun x => x.waiting || x.granted || x.started).length
    if o.arrived && !o.started && !o.granted && !o.waiting && busy < 2 && slotFree k o then
      modCluster s cl fun k => { k with
        sbq := k.sbq ++ [⟨s.time, o.who.core, .copy o.id⟩],
        copies := k.copies.map fun x => if x.id == o.id then { x with waiting := true } else x }
    else s) s

/-- Every operation of a cluster that can start asks for its grant. -/
def requestAll (s : State) (cl : Nat) : State := requestCopies (requestMats (modCluster s cl settleGhosts) cl) cl

/-! ## Descriptors -/

/-- Which fields of the operand descriptor an operation uses (R259), and its row length in bytes (R260). -/
structure DescUse where
  a   : Bool
  b   : Bool
  sa  : Bool
  sb  : Bool
  q   : Bool
  len : Nat

/-- The eight words of a descriptor. -/
def Ctx.desc8 (c : Ctx) : List Word := (List.range 8).map fun i => rdS c.t c.p ((ext0Of c.f).c.toNat + i)

/-- The checks of a descriptor, in the order of its table (R259). -/
def descEntry (c : Ctx) (i : Instr) (u : DescUse) : Entry :=
  let g (n : Nat) : Nat := (nth 0 c.desc8 n).toNat
  let chk (used bad : Bool) (n : Nat) : Entry := if used then r94 c i 0x05 bad else r94 c i 0x02 (g n != 0)
  (chk u.a (g 0 % 16 != 0) 0).andThen <| (chk u.a (g 1 % 16 != 0 || g 1 < u.len) 1).andThen <|
  (chk u.b (g 2 % 16 != 0) 2).andThen <| (chk u.b (g 3 % 16 != 0 || g 3 < u.len) 3).andThen <|
  (chk u.sa (g 4 % 8 != 0) 4).andThen <| (chk u.sb (g 5 % 8 != 0) 5).andThen <|
  (r94 c i 0x02 (g 6 ≥ 8 || (!u.q && g 6 != 0))).andThen (r94 c i 0x02 (g 7 != 0))

/-- The bytes of a B tile with its offset: 128 columns of a pitch (R260). -/
def tileEnd (base pitch len : Nat) : Nat := base + 127 * pitch + len

/-- The B tile lies in the allocation, or in one slot of a buffer that the train consumes; the B scales lie in the
allocation (R260, R278, R279). -/
def bEntry (s : State) (c : Ctx) (i : Instr) (u : DescUse) : Entry :=
  let g (n : Nat) : Nat := (nth 0 c.desc8 n).toNat
  (if u.q then Entry.ok else r94 c i 0x07 (tileEnd (g 2) (g 3) u.len > c.allocSize s)).andThen
    (r94 c i 0x07 (u.sb && g 5 + 1024 > c.allocSize s))

/-- The A rows and scale rows of the active lanes lie in the allocation (R260). -/
def aEntry (s : State) (c : Ctx) (i : Instr) (u : DescUse) : Entry :=
  let g (n : Nat) : Nat := (nth 0 c.desc8 n).toNat
  r94 c i 0x07 (u.a && c.act.toList.any fun l =>
    g 0 + l * g 1 + u.len > c.allocSize s || (u.sa && g 4 + 8 * l + 8 > c.allocSize s))

/-- The buffer of a `.BQ` operation is the train's, and the tile fits its slot (R279). -/
def bufEntry (s : State) (c : Ctx) (i : Instr) (u : DescUse) : Entry :=
  let g (n : Nat) : Nat := (nth 0 c.desc8 n).toNat
  if u.q then
    match bufAt (clusterAt s (clusterOf c.r.core)) (g 6 % 8) with
    | none => r94 c i 0x07 true
    | some b => r94 c i 0x07 (b.crew != c.t.crew || b.tix != c.t.tix || tileEnd (g 2) (g 3) u.len > b.size)
  else .ok

/-- The format of an MMA or MMAG (R261). -/
def Ctx.fmt (c : Ctx) : Nat := c.f.x.toNat
/-- Whether a sub-function bit is set. -/
def Ctx.subBit (c : Ctx) (n : Nat) : Bool := (subOf c.f).testBit n
/-- The completion object of an MMA or MMAG, where it names one. -/
def Ctx.matObj (c : Ctx) : Option DWord := if c.subBit 3 then some (BitVec.ofNat 64 (c.s c.f.a true)) else none

/-- The fields that an MMA or MMAG uses. -/
def Ctx.mmaUse (c : Ctx) (gathered : Bool) : DescUse :=
  let lat := !gathered && c.subBit 1
  let e2 := c.fmt == 6
  ⟨!lat, true, e2 && !lat, e2, c.subBit 2, if c.fmt == 7 then 64 else 128⟩

/-- The check of an operation's completion object (R271). -/
def objEntry (s : State) (c : Ctx) (o : Option DWord) : Entry :=
  match o with
  | none => .ok
  | some ea => (objCheck s c c.issueLanes ea).entry

/-- The checks and waits of an MMA or MMAG (R254, R257, R259, R260, R271, R279). -/
def mmaEntry (gathered : Bool) (i : Instr) (s : State) (c : Ctx) : Entry :=
  let u := c.mmaUse gathered
  (r94 c i 0x02 (c.fmt == 7 && c.f.d.toNat % 2 == 1)).andThen <| (descEntry c i u).andThen <|
  (bEntry s c i u).andThen <| ((if gathered then Entry.ok else aEntry s c i u)).andThen <| (leaderEntry c i).andThen <|
  (bufEntry s c i u).andThen <| (objEntry s c c.matObj).andThen (engineEntry s c)

/-- Whose OPFENCE or completion makes a write visible to operations. -/
def Writer.agent (w : Writer) : Option Nat :=
  match w with
  | .store train => some train
  | .copy id _ | .accrd id _ _ => some id
  | .other => none

/-- Whether an operation that a path issues must see a write (R267): the path knows of the OPFENCE, or of the completion, that came
after it, from its program order, a barrier or a wait. -/
def Unfenced.known (x : Unfenced) (seen : List (Nat × Nat)) : Bool :=
  match x.writer.agent, x.fence with
  | some a, some f => seen.any fun y => y.1 == a && f ≤ y.2
  | _, _ => false

/-- The writes to the scratchpad of a path's crew, newest first, with what they replaced and whether an operation that the path
issues must see them (R267). -/
def writesFor (s : State) (c : Ctx) : List (Nat × List Byte × Bool) :=
  ((clusterAt s (clusterOf c.r.core)).unfenced.filter fun x => x.crew == c.t.crew).map fun x => (x.off, x.old, x.known c.p.seen)

/-- The completions of a train's operations in a cluster that a test picks, which a wait for them passes on (R334). -/
def doneOps (s : State) (cl : Nat) (pick : Writer → Bool) : List (Nat × Nat) :=
  ((clusterAt s cl).unfenced.filter fun x => pick x.writer).filterMap fun x =>
    x.writer.agent.bind fun a => x.fence.map fun f => (a, f)

/-- The key of an object that has passed its check, and the state after its translation. -/
def objKey (s : State) (c : Ctx) (o : Option DWord) : Option Nat × State :=
  match o with
  | none => (none, s)
  | some ea => ((objCheck s c c.issueLanes ea).key, walkEffect s c.r.core c.t.asid ea)

/-- The index register of a gathering operation and its values at issue (R262, R267). -/
def Ctx.indexSrc (c : Ctx) : Option Reg × List Word :=
  (regOfCode c.depth c.f.b.toNat, laneIds.map fun l => BitVec.ofNat 32 (c.v l (c.lane l) c.f.b false))

/-- An operation enters the pair's matrix queue (R255, R262). -/
def enqueueMat (c : Ctx) (s : State) (kind : MatKind) (acc : Nat) (desc : List Word) (obj : Option DWord)
    (gathered : Bool) : State :=
  let cl := clusterOf c.r.core
  let (key, s) := objKey s c obj
  let (id, s) := fresh s
  let (vb, ixs) := if gathered then c.indexSrc else (none, [])
  let o : MatOp := ⟨id, c.t.uid, c.r, c.t.crew, c.t.asid, c.act, kind, acc, desc, key, vb, ixs,
    [], writesFor s c, c.p.seen, [], [], [], id, false, false, false⟩
  let s := addTxn s c.r.core ⟨id, .engine, c.t.uid, 1, [], none, false, true⟩
  requestMats (modCluster s cl fun k => { k with
    pairs := updAt k.pairs (c.r.core % 6 / 2) fun p => { p with queue := p.queue ++ [o] } }) cl

/-- MMA (R261, R262). -/
def execMma (f : Fields) (s : State) : Out :=
  issue (.mma f) (mmaEntry false (.mma f)) (fun c s =>
    enqueueMat c s (.mma c.fmt (c.subBit 0) (c.subBit 1) (c.subBit 2)) c.f.d.toNat c.desc8 c.matObj false) s

/-- MMAG (R261, R262). -/
def execMmag (f : Fields) (s : State) : Out :=
  issue (.mmag f) (mmaEntry true (.mmag f)) (fun c s =>
    enqueueMat c s (.mmag c.fmt (c.subBit 0) (c.subBit 2)) c.f.d.toNat c.desc8 c.matObj true) s

/-- The fields that a GATHER uses. -/
def Ctx.gatherUse (c : Ctx) : DescUse := ⟨true, false, c.fmt == 2, false, false, if c.fmt == 1 then 64 else 128⟩

/-- The checks and waits of GATHER. -/
def gatherEntry (f : Fields) (s : State) (c : Ctx) : Entry :=
  (descEntry c (.gather f) c.gatherUse).andThen <| (leaderEntry c (.gather f)).andThen (engineEntry s c)

/-- GATHER (R261, R264). -/
def execGather (f : Fields) (s : State) : Out :=
  issue (.gather f)
    (gatherEntry f)
    (fun c s => enqueueMat c s (.gather c.fmt) 0 c.desc8 none true) s

/-! ## ACCRD and ACCWR -/

/-- The bytes of a row of 128 elements, by ACCRD's type code (R270). -/
def accRow (x : Nat) : Nat := match x with | 0 => 512 | 1 | 2 => 256 | 3 | 4 => 128 | _ => 1024

/-- The offset and pitch in a scalar pair (R270). -/
def Ctx.rowPair (c : Ctx) (code : BitVec 6) : Nat × Nat :=
  ((rdS c.t c.p code.toNat).toNat, (rdS c.t c.p (code.toNat + 1)).toNat)

/-- The checks of a scratchpad side (R270). -/
def accEntry (s : State) (c : Ctx) (i : Instr) (code : BitVec 6) (len : Nat) : Entry :=
  let (off, pitch) := c.rowPair code
  (r94 c i 0x05 (off % 16 != 0 || pitch % 16 != 0 || pitch < len)).andThen
    (r94 c i 0x07 (c.act.toList.any fun l => off + l * pitch + len > c.allocSize s))

/-- The rounding mode of an ACCRD: that in force, stochastic taken as nearest-even (R270). -/
def Ctx.accRm (c : Ctx) : Nat := let m := bitsOf c.p.mode.toNat 13 11; if m == 5 then 0 else m

/-- The checks and waits of ACCRD. -/
def accrdEntry (f : Fields) (s : State) (c : Ctx) : Entry :=
  (accEntry s c (.accrd f) c.f.d (accRow c.fmt)).andThen <| (leaderEntry c (.accrd f)).andThen (engineEntry s c)

/-- ACCRD (R270). -/
def execAccrd (f : Fields) (s : State) : Out :=
  issue (.accrd f) (accrdEntry f)
    (fun c s =>
      let (off, pitch) := c.rowPair c.f.d
      enqueueMat c s (.accrd c.fmt c.accRm c.satOn) c.f.a.toNat [BitVec.ofNat 32 off, BitVec.ofNat 32 pitch] none false) s

/-- The checks and waits of an ACCWR, of the rows that it reads where `len` gives their length (R270). -/
def accwrEntry (i : Instr) (len : Option Nat) (s : State) (c : Ctx) : Entry :=
  (match len with | some n => accEntry s c i c.f.a n | none => .ok).andThen <| (leaderEntry c i).andThen (engineEntry s c)

/-- An ACCWR that reads rows (R270). -/
def accwrRows (i : Instr) (op len : Nat) (s : State) : Out :=
  issue i (accwrEntry i (some len))
    (fun c s =>
      let (off, pitch) := c.rowPair c.f.a
      enqueueMat c s (.accwr op) c.f.d.toNat [BitVec.ofNat 32 off, BitVec.ofNat 32 pitch] none false) s

/-- An ACCWR without rows (R270). -/
def accwrPlain (i : Instr) (op : Nat) (s : State) : Out :=
  issue i (accwrEntry i none)
    (fun c s => enqueueMat c s (.accwr op) c.f.d.toNat [] none false) s

/-- ACCWR_LOAD (R270). -/
def execAccwrLoad (f : Fields) (s : State) : Out := accwrRows (.accwrLoad f) 0 512 s
/-- ACCWR_LOAD64 (R270). -/
def execAccwrLoad64 (f : Fields) (s : State) : Out := accwrRows (.accwrLoad64 f) 1 1024 s
/-- ACCWR_ZERO (R270). -/
def execAccwrZero (f : Fields) (s : State) : Out := accwrPlain (.accwrZero f) 2 s
/-- ACCWR_FREE (R270). -/
def execAccwrFree (f : Fields) (s : State) : Out := accwrPlain (.accwrFree f) 3 s

/-! ## Waits -/

/-- The matrix-queue operations of a train that are not complete. -/
def trainMats (s : State) (c : Ctx) : List MatOp :=
  ((clusterAt s (clusterOf c.r.core)).pairs.flatMap (·.queue)).filter fun o => o.train == c.t.uid

/-- A wait for operations, which returns at once where none is left (R268, R276); `known` are the completions that it covers so
far. -/
def waitOps (c : Ctx) (s : State) (known : List (Nat × Nat)) (ops : List Nat) (w : List Nat → Wake) : State :=
  let s := willLearn s c.r known
  if ops.isEmpty then endWait s c.r c.act else parkPath s c.r 0x0A (w ops)

/-- Whether a write is that of an ACCRD of a train which names an accumulator, or any (R268). -/
def Writer.accrdOf (train : Nat) (acc : Option Nat) (w : Writer) : Bool :=
  match w with
  | .accrd _ t accs => t == train && (match acc with | some a => accs.contains a | none => true)
  | _ => false
/-- Whether a write is that of a copy of a train. -/
def Writer.copyOf (train : Nat) (w : Writer) : Bool := match w with | .copy _ t => t == train | _ => false

/-- MWAIT (R268). -/
def execMwait (f : Fields) (s : State) : Out :=
  issue (.mwait f) noEntry (fun c s =>
    waitOps c s (doneOps s (clusterOf c.r.core) (Writer.accrdOf c.t.uid (some c.f.d.toNat)))
      (((trainMats s c).filter fun o => o.accs.contains c.f.d.toNat).map (·.id)) fun l => .mwait l c.act) s

/-- MWAIT_ALL (R268). -/
def execMwaitAll (f : Fields) (s : State) : Out :=
  issue (.mwaitAll f) noEntry (fun c s =>
    waitOps c s (doneOps s (clusterOf c.r.core) (Writer.accrdOf c.t.uid none)) ((trainMats s c).map (·.id)) fun l => .mwait l c.act) s

/-- The object that CWAIT or CTEST names. -/
def Ctx.waitObj (c : Ctx) : DWord := BitVec.ofNat 64 (c.s c.f.a true)

/-- The checks and waits of CWAIT and CTEST, whose read is an acquire (R271, R276). -/
def waitObjEntry (s : State) (c : Ctx) : Entry := (orderEntry s c).andThen (objEntry s c (some c.waitObj))

/-- CWAIT (R276). -/
def execCwait (f : Fields) (s : State) : Out :=
  issue (.cwait f) waitObjEntry (fun c s =>
    let (key, s) := objKey s c (some c.waitObj)
    let (bad, sat, s) := objTest s c.r.core c.t.asid key
    match bad, sat, key with
    | some k, _, _ => issuedTrap c s k c.issueLanes c.waitObj
    | none, false, some k => parkPath s c.r 0x0A (.cwait k c.act c.waitObj)
    | none, _, _ => endWait (willLearn s c.r (match key with | some k => (knownAt s k).done | none => [])) c.r c.act) s

/-- CWAIT_ALL (R276). -/
def execCwaitAll (f : Fields) (s : State) : Out :=
  issue (.cwaitAll f) noEntry (fun c s =>
    let ops := ((clusterAt s (clusterOf c.r.core)).copies.filter fun o => o.train == c.t.uid).map (·.id)
    waitOps c s (doneOps s (clusterOf c.r.core) (Writer.copyOf c.t.uid)) ops fun l => .cwaitAll l c.act) s

/-- CTEST (R276). -/
def execCtest (f : Fields) (s : State) : Out :=
  issue (.ctest f) waitObjEntry (fun c s =>
    let (key, s) := objKey s c (some c.waitObj)
    let (bad, sat, s) := objTest s c.r.core c.t.asid key
    match bad with
    | some k => issuedTrap c s k c.issueLanes c.waitObj
    | none => writeS s c.r c.f.d.toNat false (if sat then 1 else 0)) s

/-! ## Copies -/

/-- The fields of a copy at issue: bytes of a row, rows, and the strides (R273). -/
structure CopyArgs where
  rowBytes : Nat
  rows     : Nat
  sstride  : Int
  dstride  : Int
  bad      : Bool

/-- The arguments of a CPY. -/
def Ctx.cpyArgs (c : Ctx) : CopyArgs := ⟨c.s c.f.b false, 1, 0, 0, false⟩

/-- The arguments of a CPYX. -/
def Ctx.cpyxArgs (c : Ctx) : CopyArgs :=
  let g (i : Nat) : Nat := (rdS c.t c.p (c.f.b.toNat + i)).toNat
  ⟨g 0, g 1, signedOf 32 (g 2), signedOf 32 (g 3), g 0 > 2 ^ 24 || g 1 ≥ 65536⟩

/-- Whether an X bit of a copy is set. -/
def Ctx.xBit (c : Ctx) (n : Nat) : Bool := c.f.x.toNat.testBit n

/-- Whether the rows of one side leave the offsets 0 to `size`. -/
def rowsOutside (a : CopyArgs) (base : Nat) (stride : Int) (size : Nat) : Bool :=
  if a.rowBytes == 0 || a.rows == 0 then false
  else
    let last : Int := base + stride * (a.rows - 1 : Nat)
    last < 0 || max last base + a.rowBytes > size

/-- The destination pair of a copy, the source pair, and the object. -/
def Ctx.copyDst (c : Ctx) : Nat := c.s c.f.d true
/-- The source pair of a copy. -/
def Ctx.copySrc (c : Ctx) : Nat := c.s c.f.a true
/-- The object of a copy. -/
def Ctx.copyObj (c : Ctx) : Option DWord :=
  if c.xBit 2 then some (BitVec.ofNat 64 (c.s (ext0Of c.f).c true)) else none

/-- The check of a push's buffer (R274, R279). -/
def pushEntry (s : State) (c : Ctx) (i : Instr) (a : CopyArgs) : Entry :=
  if c.xBit 3 then
    match bufAt (clusterAt s (clusterOf c.r.core)) (c.copyDst % 8) with
    | none => r94 c i 0x07 true
    | some b => r94 c i 0x07 (b.freed || b.crew != c.t.crew || a.rows * a.rowBytes > b.size ||
        rowsOutside a 0 a.dstride b.size)
  else .ok

/-- The checks and waits of a copy (R273, R274). -/
def copyEntry (i : Instr) (a : CopyArgs) (s : State) (c : Ctx) : Entry :=
  (r94 c i 0x02 (a.bad || (c.xBit 3 && c.copyDst ≥ 8))).andThen <|
  (r94 c i 0x07 (c.xBit 1 && rowsOutside a (c.copySrc % 2 ^ 32) a.sstride (c.allocSize s))).andThen <|
  (r94 c i 0x07 (c.xBit 0 && rowsOutside a (c.copyDst % 2 ^ 32) a.dstride (c.allocSize s))).andThen <|
  (pushEntry s c i a).andThen <| (objEntry s c c.copyObj).andThen (engineEntry s c)

/-- The accesses of a path that have not performed, by their numbers (R274). -/
def pendingAccesses (s : State) (c : Ctx) : List Nat :=
  ((pathTxns s c).filter fun x => !x.perf && x.kind != .engine && x.kind != .store).map (·.id) ++
  (wcOf s c.r.core c.p.uid).map (·.id) ++ (s.outWrites.filter fun w => w.paths.contains c.p.uid).map (·.id)

/-- The point before which a copy that a path issues reads nothing: every access that the path issued earlier has performed by it
(R274, R337). -/
def copyFloor (s : State) (c : Ctx) : Nat :=
  match pathAt s c.r with
  | none => s.point
  | some p => (s.past.filter fun x => x.paths.contains p.uid).foldl (fun m x => max m (x.hi.getD x.lo + 1))
      (p.locs.foldl (fun m x => max m x.2.2) (max p.floor p.seqFloor))

/-- A copy enters the cluster's copy queue; one of no bytes that is no push completes at once (R255, R274). -/
def copyBody (c : Ctx) (a : CopyArgs) (s : State) : State :=
  let cl := clusterOf c.r.core
  let (key, s) := objKey s c c.copyObj
  if a.rows * a.rowBytes == 0 && !c.xBit 3 then signalObj s c.t.asid key none c.p.seen
  else
    let (id, s) := fresh s
    let s := addTxn s c.r.core ⟨id, .engine, c.t.uid, 1, [], none, false, true⟩
    let side (scr : Bool) (x : Nat) : DWord := BitVec.ofNat 64 (if scr then x % 2 ^ 32 else x)
    let o : CopyOp := {
      id := id, train := c.t.uid, who := c.r, trainId := c.t.trainId, crew := c.t.crew, asid := c.t.asid,
      dst := if c.xBit 3 then 0 else side (c.xBit 0) c.copyDst, src := side (c.xBit 1) c.copySrc, dScr := c.xBit 0,
      sScr := c.xBit 1, queue := if c.xBit 3 then some (c.copyDst % 8) else none, qslot := 0,
      rowBytes := a.rowBytes, rows := a.rows, sstride := a.sstride, dstride := a.dstride, obj := key, txn := id,
      arrived := false, granted := false, waiting := false, started := false, atPage := false,
      after := pendingAccesses s c, floor := copyFloor s c, know := c.p.seen, asked := false, got := [], moved := false, failed := none }
    modCluster s cl fun k => { k with copies := k.copies ++ [o] }

/-- The checks and waits of CPY. -/
def cpyEntry (f : Fields) (s : State) (c : Ctx) : Entry := copyEntry (.cpy f) c.cpyArgs s c

/-- CPY (R273, R274). -/
def execCpy (f : Fields) (s : State) : Out :=
  issue (.cpy f) (cpyEntry f) (fun c s => copyBody c c.cpyArgs s) s

/-- The checks and waits of CPYX. -/
def cpyxEntry (f : Fields) (s : State) (c : Ctx) : Entry := copyEntry (.cpyx f) c.cpyxArgs s c

/-- CPYX (R273, R274). -/
def execCpyx (f : Fields) (s : State) : Out :=
  issue (.cpyx f) (cpyxEntry f) (fun c s => copyBody c c.cpyxArgs s) s

/-! ## Circular buffers -/

/-- The checks of a QBIND (R278), and its transaction entry, which it gives back at once, being complete (R255). -/
def qbindEntry (i : Instr) (s : State) (c : Ctx) : Entry :=
  let base := c.s c.f.a false
  let g := c.s c.f.b false
  let size := g % 256 * 256
  let n := g / 256 % 256
  (r94 c i 0x07 (bufAt (clusterAt s (clusterOf c.r.core)) c.f.x.toNat).isSome).andThen <|
  (r94 c i 0x05 (base % 256 != 0)).andThen <|
  (r94 c i 0x02 (g ≥ 65536 || size == 0 || size > 128 * 256 || n < 2 || n > 64)).andThen <|
  (r94 c i 0x07 (base + n * size > c.allocSize s)).andThen (engineEntry s c)

/-- QBIND (R278). -/
def execQbind (f : Fields) (s : State) : Out :=
  issue (.qbind f) (qbindEntry (.qbind f)) (fun c s =>
    let g := c.s c.f.b false
    let b : Buffer := ⟨c.t.crew, c.t.tix, c.s c.f.a false, BitVec.ofNat 32 g, g % 256 * 256, 0, 0,
      List.replicate (g / 256 % 256) .empty, [], false⟩
    modCluster s (clusterOf c.r.core) fun k => { k with bufs := updAt k.bufs c.f.x.toNat fun _ => some b }) s

/-- The checks and waits of QFREE; its transaction entry is given back at once (R255). -/
def qfreeEntry (f : Fields) (s : State) (c : Ctx) : Entry :=
  (r94 c (.qfree f) 0x07 (match bufAt (clusterAt s (clusterOf c.r.core)) c.f.x.toNat with
    | some b => b.crew != c.t.crew || b.tix != c.t.tix
    | none => true)).andThen (engineEntry s c)

/-- QFREE (R278). -/
def execQfree (f : Fields) (s : State) : Out :=
  issue (.qfree f) (qfreeEntry f) (fun c s =>
    modCluster s (clusterOf c.r.core) fun k => { k with
      bufs := updAt k.bufs c.f.x.toNat (Option.map fun b => { b with freed := true }) }) s

end Sys2Proof.Machine
end

