-- ==== Sys2Proof/Machine/EngineSteps.lean ====
section
/-! DEFINITION. The steps of the matrix and copy engines: starts, completions, failures (R258, R262-R265, R269, R270),
copies (R274, R275, R279), freed buffers (R278). -/
namespace Sys2Proof.Machine

/-- A step that cannot occur in this state. -/
def disabled : Out := .fault .notEnabled

/-- A step that occurs where its condition holds. -/
@[inline] def stepWhen (b : Bool) (s : State) : Out := if b then .next s else disabled

/-! ## Ends of operations -/

/-- The paths of a train: those of its table and those of its handler. -/
def trainRefs (core slot : Nat) : List PathRef :=
  ((List.range 8).map fun i => ⟨core, slot, i, false⟩) ++ (List.range 4).map fun i => ⟨core, slot, i, true⟩

/-- A wait for operations with one of them complete: none where it waits for others still, else its active set. -/
def opWait (id : Nat) (w : Option Wake) : Option (Option Wake × Option LaneSet) :=
  match w with
  | some (.mwait ops act) =>
    if ops.contains id then
      let rest := ops.filter (· != id)
      some (some (.mwait rest act), if rest.isEmpty then some act else none)
    else none
  | some (.cwaitAll ops act) =>
    if ops.contains id then
      let rest := ops.filter (· != id)
      some (some (.cwaitAll rest act), if rest.isEmpty then some act else none)
    else none
  | _ => none

/-- The MWAITs and CWAIT.ALLs of a train that an operation's completion bears on (R268, R276). -/
def wakeOps (s : State) (uid id : Nat) : State :=
  match findTrain s uid with
  | none => s
  | some (core, slot) =>
    (trainRefs core slot).foldl (fun s r =>
      match (pathAt s r).bind fun p => opWait id p.wake with
      | none => s
      | some (w, none) => modPath (willLearn s r [(id, s.point)]) r fun p => { p with wake := w }
      | some (_, some act) => endWait (willLearn s r [(id, s.point)]) r act) s

/-- A train that is resident or in a retirement tracker. -/
def anyTrain (s : State) (uid : Nat) : Option Train :=
  s.cores.findSome? fun k =>
    (k.slots.findSome? fun o => o.filter fun t => t.uid == uid) <|>
    (k.trackers.findSome? fun o => (o.filter fun x => x.train.uid == uid).map (·.train))

/-- What every end of an engine operation does: its entry, its failure record, its object, its waiters (R255, R269,
R272). `know` is what its issuer knew, which its object passes on with its completion (R334). -/
def endOp (s : State) (core txn train asid id : Nat) (obj : Option Nat) (fail : Option (Nat × DWord)) (know : List (Nat × Nat)) :
    State :=
  let s := dropTxn s core txn
  let s := match fail with
    | some (cause, addr) => recordFail s train cause addr
    | none => s
  wakeOps (signalObj s asid obj fail (joinKnow know [(id, s.point)])) train id

/-- The writes of an agent are complete from a point on (R267, R338). -/
def sealWrites (s : State) (agent : Nat) : State := sealAll s fun x => x.writer.agent == some agent

/-- The head slot of a buffer is emptied, and the head moves on (R279). -/
def popSlot (k : Cluster) (q : Nat) : Cluster :=
  { k with bufs := updAt k.bufs q (Option.map fun b =>
    { b with slots := updAt b.slots b.head fun _ => .empty, head := (b.head + 1) % b.slots.length }) }

/-- The end of a matrix-queue operation (R262, R269). -/
def finishMat (s : State) (cl i : Nat) (o : MatOp) (fail : Option (Nat × DWord)) : State :=
  let s := modCluster s cl fun k =>
    let k := { k with pairs := updAt k.pairs i fun p => { p with queue := p.queue.filter fun x => x.id != o.id } }
    if o.bq then popSlot k o.qid else k
  requestAll (endOp (sealWrites s o.id) o.who.core o.txn o.train o.asid o.id o.obj fail o.know) cl

/-! ## The start of a matrix operation -/

/-- A word of an operation's descriptor. -/
def MatOp.w (o : MatOp) (n : Nat) : Nat := (nth 0 o.desc n).toNat

/-- The indices of a gathering operation: the register as it stands, or where it has changed since issue either value
(R262, R267). -/
def pickIndex (s : State) (o : MatOp) : List Word × State :=
  match o.vb, anyTrain s o.train with
  | some r, some t =>
    laneIds.foldl (fun (acc : List Word × State) l =>
      let old := nth 0 o.ixs l
      let new := match t.lanes[l]? with | some ln => laneReg ln r | none => old
      if old == new then (acc.1 ++ [new], acc.2)
      else
        let (d, s) := drawFree acc.2
        (acc.1 ++ [if d.getLsbD 0 then old else new], s)) ([], s)
  | _, _ => (o.ixs, s)

/-- The row of the A operand that lane `l` names: its data and scale offsets (R260, R262, R264). -/
def rowPlace (o : MatOp) (ixs : List Word) (l : Nat) : Nat × Nat :=
  let k := match o.kind with
    | .mma _ _ _ _ => l
    | _ => (nth 0 ixs l).toNat
  (o.w 0 + k * o.w 1, o.w 4 + 8 * k)

/-- The bytes of a row, and whether it has scales. -/
def MatOp.rowLen (o : MatOp) : Nat × Bool :=
  match o.kind with
  | .mma f _ _ _ | .mmag f _ _ => (if f == 7 then 64 else 128, f == 6)
  | .gather x => (if x == 1 then 64 else 128, x == 2)
  | _ => (0, false)

/-- The first gathered row or scale row outside the allocation (R262). -/
def rowOutside (s : State) (cl : Nat) (o : MatOp) (ixs : List Word) : Option Nat :=
  let size := (allocOf s cl o.crew).2
  let (len, sc) := o.rowLen
  o.act.toList.findSome? fun l =>
    let (a, b) := rowPlace o ixs l
    if a + len > size then some a else if sc && b + 8 > size then some b else none

/-- The values that a byte may be read as in place of the present one: what the writes replaced that an operation need not see,
down to the newest that it must see (R267). -/
def oldValues (i : Nat) : List (Nat × List Byte × Bool) → List Byte
  | [] => []
  | (off, old, known) :: rest =>
    if off ≤ i && i < off + old.length then (if known then [] else nth 0 old (i - off) :: oldValues i rest) else oldValues i rest

/-- Bytes read from an offset for an operation: each as its old or its new value (R267). -/
def pickOld (s : State) (o : MatOp) (off : Nat) (bs : List Byte) : List Byte × State :=
  if o.maybe.all fun x => x.2.2 || x.1 + x.2.1.length ≤ off || off + bs.length ≤ x.1 then (bs, s)
  else (bs.zipIdx).foldl (fun (acc : List Byte × State) (b, i) =>
    let vals := b :: oldValues (off + i) o.maybe
    if vals.all (· == b) then (acc.1 ++ [b], acc.2)
    else
      let (w, s) := drawFree acc.2
      (acc.1 ++ [nth b vals (w.toNat % vals.length)], s)) ([], s)

/-- Operand bytes at an offset, read from the scratchpad; a stash line that is not filled is filled (R267, R291). -/
def readOperand (s : State) (cl : Nat) (o : MatOp) (off n : Nat) : List Byte × State :=
  let (bs, _, s) := scrRead s cl o.crew o.asid off n
  pickOld s o off bs

/-- An operand row: its data, and its scales where it has some. -/
def readRow (s : State) (cl : Nat) (o : MatOp) (ix off soff : Nat) : OpRow × State :=
  let (len, sc) := o.rowLen
  let (d, s) := readOperand s cl o off len
  let (e, s) := if sc then readOperand s cl o soff 8 else ([], s)
  (⟨ix, off, soff, d, e⟩, s)

/-- Operand rows, each with its number and its places, in order. -/
def readAll (s : State) (cl : Nat) (o : MatOp) (l : List (Nat × Nat × Nat)) : List OpRow × State :=
  l.foldl (fun (acc : List OpRow × State) (ix, a, b) =>
    let (x, s) := readRow acc.2 cl o ix a b
    (acc.1 ++ [x], s)) ([], s)

/-- The operand rows of the active lanes, read from the scratchpad. -/
def readRows (s : State) (cl : Nat) (o : MatOp) (ixs : List Word) : List OpRow × State :=
  readAll s cl o (o.act.toList.map fun l => (l, rowPlace o ixs l))

/-- The offset that stands for a latch row, which no store reaches. -/
def latchOff : Nat := 2 ^ 40

/-- The operand rows of the latch: absent rows count as lanes outside the active set (R262, R264). -/
def latchRows (p : Pair) (o : MatOp) : List OpRow :=
  (o.act.toList.filter fun l => p.latch.present.has l).map fun l =>
    ⟨l, latchOff, latchOff, nth [] p.latch.rows l, nth [] p.latch.scales l⟩

/-- The columns of B (R260, R262). -/
def readCols (s : State) (cl : Nat) (o : MatOp) : List OpRow × State :=
  let slot := if o.bq then
    (match bufAt (clusterAt s cl) o.qid with | some b => b.base + b.head * b.size | none => 0) else 0
  readAll s cl o ((List.range 128).map fun j => (j, slot + o.w 2 + j * o.w 3, o.w 5 + 8 * j))

/-- Whether a store may still change bytes of a range for an operation (R267). -/
def rangeDirty (o : MatOp) (off n : Nat) : Bool := o.dirty.any fun (a, m) => a < off + n && off < a + m

/-- Whether an operand row has bytes that a store may still change; a latch row has none. -/
def rowDirty (o : MatOp) (x : OpRow) : Bool :=
  rangeDirty o x.off x.data.length || (!x.scale.isEmpty && rangeDirty o x.soff x.scale.length)

/-- Bytes read from an offset for an operation: those that a store may still change are free (R267). -/
def freeDirty (s : State) (o : MatOp) (off : Nat) (bs : List Byte) : List Byte × State :=
  if !rangeDirty o off bs.length then (bs, s)
  else
    let (fs, s) := freeBytes s bs.length
    ((bs.zipIdx).map fun (b, i) => if rangeDirty o (off + i) 1 then nth 0 fs i else b, s)

/-- The latch after a GATHER (R264). Without `.RSC` it writes no scale row, and the rows keep the scales that they held, which the
specification does not give (DESIGN CHOICE: log entry 114). -/
def fillLatch (s : State) (cl i : Nat) (o : MatOp) : State :=
  let (len, sc) := o.rowLen
  let (l, s) := o.rows.foldl (fun (acc : List OpRow × State) x =>
    let (d, s) := freeDirty acc.2 o x.off x.data
    let (e, s) := freeDirty s o x.soff x.scale
    (acc.1 ++ [{ x with data := d, scale := e }], s)) ([], s)
  modCluster s cl fun k => { k with pairs := updAt k.pairs i fun p =>
    let la := p.latch
    { p with latch := {
        valid := true, crew := o.crew, asid := o.asid,
        present := l.foldl (fun m x => m ||| LaneSet.single x.ix) 0,
        rows := l.foldl (fun r x => updAt r x.ix fun _ => x.data ++ List.replicate (128 - len) 0) la.rows,
        scales := l.foldl (fun r x => if sc then updAt r x.ix fun _ => x.scale else r) la.scales } } }

/-- The latch of a pair becomes invalid. -/
def spoilLatch (s : State) (cl i : Nat) : State :=
  modCluster s cl fun k => { k with pairs := updAt k.pairs i fun p => { p with latch := { p.latch with valid := false } } }

/-- The free accumulators that an operation names are claimed by its crew (R258). -/
def claimAccs (s : State) (cl i : Nat) (o : MatOp) : State :=
  modCluster s cl fun k => { k with pairs := updAt k.pairs i fun p => { p with
    accs := p.accs.mapIdx fun n a =>
      if o.accs.contains n && a.owner.isNone then { Acc.reset with owner := some o.crew } else a } }

/-- Whether an operation claims free accumulators: an ACCRD does not (R258, R270). -/
def MatOp.claims (o : MatOp) : Bool := match o.kind with | .accrd _ _ _ => false | _ => true

/-- Whether another crew owns an accumulator that an operation names. -/
def accTaken (p : Pair) (o : MatOp) : Bool :=
  o.accs.any fun n => match (nth Acc.reset p.accs n).owner with | some k => k != o.crew | none => false

/-- An operation is marked as started with its operands. -/
def markStarted (s : State) (cl i id : Nat) (rows cols : List OpRow) : State :=
  modCluster s cl fun k => { k with pairs := updAt k.pairs i fun p => { p with
    queue := p.queue.map fun o => if o.id == id then { o with started := true, rows := rows, cols := cols } else o } }

/-- The start of a matrix-queue operation (R258, R262, R264, R270): its failures, its claim, its operands. -/
def startMat (s : State) (cl i : Nat) (p : Pair) (o : MatOp) : State :=
  if accTaken p o then finishMat s cl i o (some (0x07, BitVec.ofNat 64 o.acc))
  else
    let s := if o.claims then claimAccs s cl i o else s
    match o.kind with
    | .accrd _ _ _ | .accwr _ => markStarted s cl i o.id [] []
    | .mma _ _ true _ =>
      if !p.latch.valid || p.latch.crew != o.crew then
        let (lo, s) := drawFree s
        let (hi, s) := drawFree s
        finishMat s cl i o (some (0x07, DWord.ofHalves lo hi))
      else
        let (cols, s) := readCols s cl o
        markStarted s cl i o.id (latchRows p o) cols
    | .mma _ _ false _ =>
      let (rows, s) := readRows s cl o o.ixs
      let (cols, s) := readCols s cl o
      markStarted s cl i o.id rows cols
    | .mmag _ _ _ =>
      let (ixs, s) := pickIndex s o
      (match rowOutside s cl o ixs with
       | some off => finishMat s cl i o (some (0x07, BitVec.ofNat 64 off))
       | none =>
         let (rows, s) := readRows s cl o ixs
         let (cols, s) := readCols s cl o
         markStarted s cl i o.id rows cols)
    | .gather _ =>
      let (ixs, s) := pickIndex s o
      (match rowOutside s cl o ixs with
       | some off => finishMat (spoilLatch s cl i) cl i o (some (0x07, BitVec.ofNat 64 off))
       | none =>
         let (rows, s) := readRows s cl o ixs
         markStarted s cl i o.id rows [])

/-- The slot that a `.BQ` operation reads is being read (R277). -/
def readSlot (s : State) (cl : Nat) (o : MatOp) : State :=
  if o.bq then modCluster s cl fun k => { k with bufs := updAt k.bufs o.qid (Option.map fun b =>
    { b with slots := updAt b.slots b.head fun _ => .reading }) }
  else s

/-- An operation of a pair (0-143 over the package). -/
def matOpAt (s : State) (pair id : Nat) : Option (Pair × MatOp) :=
  let p := nth Pair.reset (clusterAt s (pair / 3)).pairs (pair % 3)
  (p.queue.find? fun o => o.id == id).map fun o => (p, o)

/-- MATRIX_OP_START (R265). -/
def execMatrixOpStart (pair id : Nat) (s : State) : Out :=
  match matOpAt s pair id with
  | none => disabled
  | some (p, o) =>
    let cl := pair / 3
    stepWhen (o.granted && !o.started && matReady (clusterAt s cl) p o)
      (requestMats (startMat (readSlot s cl o) cl (pair % 3) p o) cl)

/-! ## The completion of a matrix operation -/

/-- The element types of a format's A and B, and the length of a group (R64, R261). -/
def fmtTypes (fmt : Nat) : ETy × ETy × Nat :=
  match fmt with
  | 0 => (.bf16, .bf16, 16)
  | 1 => (.fp16, .fp16, 16)
  | 2 => (.e4m3, .e4m3, 32)
  | 3 => (.e4m3, .e5m2, 32)
  | 4 => (.e5m2, .e4m3, 32)
  | 5 => (.e5m2, .e5m2, 32)
  | 6 => (.e2m1, .e2m1, 32)
  | _ => (.fp64, .fp64, 1)

/-- The elements of a row in memory order (R43, R260). -/
def rowElems (t : ETy) (bs : List Byte) : List Nat :=
  let x := leNat bs
  (List.range (8 * bs.length / tyBits t)).map fun k => elemOf (tyBits t) x k

/-- The exponent of a product of scales, none where one is a NaN (R58, R64). -/
def scaleExp (a b : List Byte) (g : Nat) : Option Int :=
  if a.isEmpty || b.isEmpty then some 0
  else
    let x := (nth 0 a g).toNat
    let y := (nth 0 b g).toNat
    if x == 255 || y == 255 then none else some ((x : Int) + y - 254)

/-- One group's sum added to an FP32 element (R64). -/
def groupAdd (t u : ETy) (scale : Option Int) (xs ys : List Nat) (s : Nat) : Nat :=
  let terms := (xs.zip ys).map fun (x, y) => termMul (decF t x) (decF u y)
  match scale with
  | none => nanPat .fp32
  | some k =>
    if terms.any Option.isNone then nanPat .fp32
    else
      match termSum 0 (terms.filterMap id) with
      | none => nanPat .fp32
      | some (.inf n) => (fAddSub false .fp32 .nearest 0 (signPat .fp32 n + infMag .fp32) s).1
      | some (.fin n m e) =>
        (fAddSub false .fp32 .nearest 0 (roundF .fp32 0 false 0 false false n m (e + k) false).1 s).1

/-- One element of a product (R64): the operands' elements and scales, and the element it starts from. -/
def matElem (fmt : Nat) (xs ys : List Nat) (a b : List Byte) (s : Nat) : Nat :=
  let (t, u, n) := fmtTypes fmt
  if fmt == 7 then (xs.zip ys).foldl (fun s (x, y) => (fFma .fp64 .nearest 0 x y s).1) s
  else (List.range (xs.length / n)).foldl (fun s g =>
    groupAdd t u (scaleExp a b g) ((xs.drop (g * n)).take n) ((ys.drop (g * n)).take n) s) s

/-- An element of an accumulator, FP64 elements from a pair (R257). -/
def accElem (p : Pair) (acc : Nat) (wide : Bool) (i j : Nat) : Nat :=
  let g (n : Nat) : Nat := (nth 0 (nth [] (nth Acc.reset p.accs n).rows i) j).toNat
  g acc + (if wide then 2 ^ 32 * g (acc + 1) else 0)

/-- Row `i` of an accumulator written, FP64 elements into a pair. -/
def putAccRow (p : Pair) (acc : Nat) (wide : Bool) (i : Nat) (xs : List Nat) : Pair :=
  let put (n sh : Nat) (as : List Acc) : List Acc := updAt as n fun a =>
    { a with rows := updAt a.rows i fun _ => xs.map fun x => BitVec.ofNat 32 (x >>> sh) }
  { p with accs := if wide then put (acc + 1) 32 (put acc 0 p.accs) else put acc 0 p.accs }

/-- The products of a started MMA or MMAG written into its accumulator (R262, R64), for the elements that a test picks: an
element that depends on bytes that a store may have changed is free (R267). -/
def mmaResult (p : Pair) (o : MatOp) (fmt : Nat) (za : Bool) (k : Nat) (pick : Nat → Nat → Bool) : Pair :=
  let wide := fmt == 7
  let (t, u, _) := fmtTypes fmt
  let cols := o.cols.map fun y => (rowDirty o y, rowElems u y.data, y.scale)
  o.rows.foldl (fun p x =>
    let xs := rowElems t x.data
    let bad := rowDirty o x
    putAccRow p o.acc wide x.ix ((cols.zipIdx).map fun ((d, ys, sc), j) =>
      if !pick x.ix j then accElem p o.acc wide x.ix j
      else if bad || d then
        let n := k + 2 * (128 * x.ix + j)
        (Config.freeWord n).toNat + 2 ^ 32 * (Config.freeWord (n + 1)).toNat
      else matElem fmt xs ys x.scale sc (if za then 0 else accElem p o.acc wide x.ix j))) p

/-- The bytes of a row that an ACCRD writes (R270). -/
def accrdRow (p : Pair) (acc ty rm : Nat) (sat : Bool) (i : Nat) : List Byte :=
  (List.range 128).flatMap fun j =>
    let env : FEnv := ⟨rm, false, 0, 0, 0⟩
    match ty with
    | 0 => leBytes 4 (accElem p acc false i j)
    | 1 => leBytes 2 (convert .fp32 .bf16 env 0 0 sat (accElem p acc false i j)).1
    | 2 => leBytes 2 (convert .fp32 .fp16 env 0 0 sat (accElem p acc false i j)).1
    | 3 => leBytes 1 (convert .fp32 .e4m3 env 0 0 sat (accElem p acc false i j)).1
    | 4 => leBytes 1 (convert .fp32 .e5m2 env 0 0 sat (accElem p acc false i j)).1
    | _ => leBytes 8 (accElem p acc true i j)

/-- A change of a pair. -/
def modPair (s : State) (cl i : Nat) (f : Pair → Pair) : State :=
  modCluster s cl fun k => { k with pairs := updAt k.pairs i f }

/-- The columns of a row whose elements a test picks. -/
def pickedCols (pick : Nat → Nat → Bool) (l : Nat) : List Nat := (List.range 128).filter (pick l)

/-- An ACCRD writes its rows, byte by byte (R270, R338): all of a row, or the elements that a test picks. -/
def doAccrd (s : State) (cl i : Nat) (o : MatOp) (ty rm : Nat) (sat : Bool) (pick : Nat → Nat → Bool) : State :=
  let p := nth Pair.reset (clusterAt s cl).pairs i
  let n := accRow ty / 128
  let write (s : State) (off : Nat) (bs : List Byte) : State :=
    matWrite s cl o.crew o.asid (.accrd o.id o.train o.accs) (fun x => x.id == o.id) off bs
  o.act.toList.foldl (fun s l =>
    let off := o.w 0 + l * o.w 1
    let bs := accrdRow p o.acc ty rm sat l
    let cols := pickedCols pick l
    if cols.length == 128 then write s off bs
    else cols.foldl (fun s j => write s (off + n * j) ((bs.drop (n * j)).take n)) s) s

/-- Row `l` of an accumulator with the elements that a test picks replaced. -/
def putPicked (p : Pair) (acc : Nat) (wide : Bool) (l : Nat) (pick : Nat → Nat → Bool) (new : Nat → Nat) : Pair :=
  putAccRow p acc wide l ((List.range 128).map fun j => if pick l j then new j else accElem p acc wide l j)

/-- An ACCWR.LOAD or LOAD64 copies the elements of its rows that a test picks (R270); bytes that a store may have changed are
free. -/
def doAccLoad (s : State) (cl i : Nat) (o : MatOp) (wide : Bool) (pick : Nat → Nat → Bool) : State :=
  let n := if wide then 8 else 4
  o.act.toList.foldl (fun s l =>
    let off := o.w 0 + l * o.w 1
    let (bs, s) := readOperand s cl o off (128 * n)
    let (bs, s) := freeDirty s o off bs
    modPair s cl i fun p => putPicked p o.acc wide l pick fun j => leAt bs (n * j) n) s

/-- Whether an accumulator is owned by an operation's crew. -/
def ownsAccs (p : Pair) (o : MatOp) : Bool := o.accs.all fun n => (nth Acc.reset p.accs n).owner == some o.crew

/-- What a started operation does to the elements that a test picks (R262, R270): a GATHER fills the latch, and an ACCWR.FREE frees the
accumulator, as a whole. -/
def pickEffect (s : State) (cl i : Nat) (o : MatOp) (pick : Nat → Nat → Bool) : State :=
  let owned := ownsAccs (nth Pair.reset (clusterAt s cl).pairs i) o
  match o.kind with
  | .gather _ => fillLatch s cl i o
  | .accrd ty rm sat => doAccrd s cl i o ty rm sat pick
  | .mma fmt za _ _ | .mmag fmt za _ =>
    if owned then modPair { s with free := s.free + 2 * 128 * 96 } cl i fun p => mmaResult p o fmt za s.free pick else s
  | .accwr op =>
    if !owned then s
    else if op == 3 then modPair s cl i fun p => { p with accs := updAt p.accs o.acc fun _ => Acc.reset }
    else if op == 2 then modPair s cl i fun p => o.act.toList.foldl (fun p l => putPicked p o.acc false l pick fun _ => 0) p
    else doAccLoad s cl i o (op == 1) pick

/-- Whether an operation acts on single elements of its accumulator. -/
def MatKind.byElement (k : MatKind) : Bool := match k with | .gather _ => false | .accwr op => op != 3 | _ => true

/-- Whether an operation is a started one of another train on an accumulator of an operation that completes, so that the two
interleave (R256). -/
def interleaves (o x : MatOp) : Bool :=
  x.started && x.train != o.train && x.kind.byElement && x.accs.any fun a => o.accs.contains a

/-- The elements of an operation that it has acted on already when another train's operation on its accumulator completes: which
they are the specification leaves open (R256). -/
def runAhead (s : State) (cl i : Nat) (x : MatOp) : State :=
  let k := s.free
  let new (l j : Nat) : Bool := !x.ahead.contains (128 * l + j) && (Config.freeWord (k + 128 * l + j)).getLsbD 0
  let s := pickEffect { s with free := s.free + 128 * 96 } cl i x new
  let done := x.act.toList.flatMap fun l => (pickedCols new l).map fun j => 128 * l + j
  modPair s cl i fun p => { p with
    queue := p.queue.map fun y => if y.id == x.id then { y with ahead := y.ahead ++ done } else y }

/-- The operations of other trains that interleave with a completing one have acted on some elements before it (R256). -/
def aheadOf (s : State) (cl i : Nat) (o : MatOp) : State :=
  ((nth Pair.reset (clusterAt s cl).pairs i).queue.filter (interleaves o)).foldl (fun s x => runAhead s cl i x) s

/-- What a started operation does at its completion (R262, R270). -/
def matEffect (s : State) (cl i : Nat) (o : MatOp) : State :=
  pickEffect (aheadOf s cl i o) cl i o fun l j => !o.ahead.contains (128 * l + j)

/-- MATRIX_OP_COMPLETE (R262, R263). -/
def execMatrixOpComplete (pair id : Nat) (s : State) : Out :=
  match matOpAt s pair id with
  | none => disabled
  | some (_, o) =>
    stepWhen o.started (finishMat (matEffect s (pair / 3) (pair % 3) o) (pair / 3) (pair % 3) o none)

/-! ## Copies -/

/-- A copy of a cluster. -/
def copyAt (s : State) (cl id : Nat) : Option CopyOp := (clusterAt s cl).copies.find? fun o => o.id == id
/-- Change of a copy. -/
def modCopy (s : State) (cl id : Nat) (f : CopyOp → CopyOp) : State :=
  modCluster s cl fun k => { k with copies := k.copies.map fun o => if o.id == id then f o else o }

/-- COPY_QUEUE_ARRIVAL (R279): copies arrive in issue order; a push reserves the slot at the tail. So does a push that was issued
before the buffer's QFREE and arrives after it, which the specification does not give (DESIGN CHOICE: log entry 113). -/
def execCopyQueueArrival (cluster id : Nat) (s : State) : Out :=
  match copyAt s cluster id with
  | none => disabled
  | some o =>
    let k := clusterAt s cluster
    let first := (k.copies.takeWhile fun x => x.id != id).all fun x => x.arrived
    let s := match o.queue.bind fun q => (bufAt k q).map fun b => (q, b) with
      | none => modCopy s cluster id fun o => { o with arrived := true }
      | some (q, b) =>
        let mark (x : SlotState) : SlotState := if x == .empty then .reserved else x
        modCopy (modCluster s cluster fun k => { k with bufs := updAt k.bufs q (Option.map fun b =>
            { b with slots := updAt b.slots b.tail mark, tail := (b.tail + 1) % b.slots.length }) })
          cluster id fun o => { o with arrived := true, qslot := b.tail }
    stepWhen (!o.arrived && first) (requestCopies s cluster)

/-- Where one byte of a copy lies, as its translation gives it (R275). -/
inductive Side where
  | scr (off : Nat)
  | key (k : Nat)
  | zero
  | peer (id pa : Nat)
  | park (lvl : Nat)
  | bad (cause : Nat)
  deriving DecidableEq, Repr

/-- The side of one byte (R157, R275). -/
def copySide (s : State) (o : CopyOp) (need : Need) (scr : Bool) (a : Nat) : Side :=
  if scr then .scr a
  else
    let va : DWord := BitVec.ofNat 64 a
    match checkLane s o.who.core o.asid false need 1 va with
    | .ok k => .key k
    | .peer id pa _ => .peer id pa
    | .zero | .idle => .zero
    | .park lvl => .park lvl
    | .trap cause => .bad cause

/-- The address of byte `i` of row `r` of a side. -/
def copyAddr (base : Nat) (scr : Bool) (stride : Int) (r i : Nat) : Nat :=
  let x : Int := base + stride * r + i
  if scr then x.toNat else wrapTo 64 x

/-- The base of a copy's destination: a push's is its slot (R279). -/
def copyBase (s : State) (cl : Nat) (o : CopyOp) : Nat :=
  match o.queue.bind fun q => bufAt (clusterAt s cl) q with
  | some b => b.base + o.qslot * b.size
  | none => o.dst.toNat

/-- The bytes of a copy: source and destination addresses. -/
def copyBytes (s : State) (cl : Nat) (o : CopyOp) : List (Nat × Nat) :=
  let d := copyBase s cl o
  (List.range o.rows).flatMap fun r => (List.range o.rowBytes).map fun i =>
    (copyAddr o.src.toNat o.sScr o.sstride r i, copyAddr d (o.dScr || o.queue.isSome) o.dstride r i)

/-- One byte with both its sides. -/
structure CopyByte where
  sa  : Nat
  da  : Nat
  src : Side
  dst : Side

/-- The bytes of a copy with their sides. -/
def copySides (s : State) (cl : Nat) (o : CopyOp) : List CopyByte :=
  (copyBytes s cl o).map fun (a, b) =>
    ⟨a, b, copySide s o .read o.sScr a, copySide s o .write (o.dScr || o.queue.isSome) b⟩

/-- What stops a copy before it moves a byte: an absent page that waits, with the fault record's KIND, or a failure. -/
inductive CopyStop where
  | park (va : DWord) (kind lvl : Nat)
  | fail (cause : Nat) (va : DWord)

/-- The first byte that stops a copy, the source before the destination (R275). -/
def copyStop (l : List CopyByte) : Option CopyStop :=
  l.findSome? fun x =>
    match x.src, x.dst with
    | .park lvl, _ => some (.park (BitVec.ofNat 64 x.sa) 0 lvl)
    | .bad k, _ => some (.fail k (BitVec.ofNat 64 x.sa))
    | _, .park lvl => some (.park (BitVec.ofNat 64 x.da) 1 lvl)
    | _, .bad k => some (.fail k (BitVec.ofNat 64 x.da))
    | _, _ => none

/-- The lines of peers that a copy has yet to receive, with their sectors (R401). -/
def copyWants (o : CopyOp) (l : List CopyByte) : List (Nat × Nat × BitVec 4) :=
  let refs := l.filterMap fun x => match x.src with | .peer id pa => some (id, pa / 256, pa % 256 / 64) | _ => none
  let lines := uniq (refs.map fun (id, line, _) => (id, line))
  (lines.filter fun (id, line) => !(o.got.any fun (a, b, _) => a == id && b == line)).map fun (id, line) =>
    (id, line, BitVec.ofNat 4 (((List.range 4).filter fun k => refs.contains (id, line, k)).foldl (fun n k => n + 2 ^ k) 0))

/-- The remote lines of a copy are asked for (R401). -/
def askLines (s : State) (cl : Nat) (o : CopyOp) (wants : List (Nat × Nat × BitVec 4)) : State :=
  modCopy (wants.foldl (fun s (id, line, sec) =>
    let (rid, s) := fresh s
    sendRemote s ⟨rid, id, line, sec, 0, o.who.core, o.txn, .copy cl o.id⟩ fun port => .readReq id port rid line sec) s)
    cl o.id fun o => { o with asked := true }

/-- What was received of a peer's byte: the byte, from the 256 of its line, or the cause of the line's failure (R404). -/
def gotByte (o : CopyOp) (id pa : Nat) : Byte × Option Nat :=
  match o.got.find? fun (a, b, _) => a == id && b == pa / 256 with
  | some (_, _, [cause]) => (0, some cause.toNat)
  | some (_, _, data) => (nth 0 data (pa % 256), none)
  | none => (0, none)

/-- A source byte read: its value, at a point of the order of its own, or the cause of bad data (R228, R275, R321, R337). -/
def copyRead (s : State) (cl : Nat) (o : CopyOp) (x : CopyByte) : Byte × Option Nat × State :=
  match x.src with
  | .scr off =>
    let (bs, bad, s) := scrRead s cl o.crew o.asid off 1
    let (bs, s) := readSingly s o.floor bs (scrLoc s cl o.crew off)
    (nth 0 bs 0, bad, s)
  | .key k =>
    let (bad, s) := demandRead s none o.asid k 1
    let (bs, s) := readSingly s o.floor [memRead s.mem k] k
    (nth 0 bs 0, bad, s)
  | .peer id pa => ((gotByte o id pa).1, (gotByte o id pa).2, s)
  | _ => (0, none, s)

/-- One number for a byte's place: a key of memory, one of the cluster's scratchpad beyond every key, or one of a
peer's line beyond those. -/
def placeOf (s : State) (cl : Nat) (o : CopyOp) (x : Side) : Option Nat :=
  match x with
  | .scr off =>
    (match chunkAt s cl o.crew off with
     | some ch => some (ch.key + (off - ch.off))
     | none => some (2 ^ 54 + (allocOf s cl o.crew).1 + off))
  | .key k => some k
  | .peer id pa => some (2 ^ 64 + id * 2 ^ 52 + pa)
  | _ => none

/-- What a failing source byte reports: its address, or for a lost peer the line (R275, R405). A peer's answer does not tell
which granule of its line was bad, so that the address is of any byte that the copy takes of that line. -/
def srcFailAddr (l : List CopyByte) (x : CopyByte) (cause : Nat) (s : State) : DWord × State :=
  match x.src with
  | .peer id pa =>
    if cause == 0x14 then (lossAddr (pa / 256) id 0 4, s)
    else if cause == 0x07 || cause == 0x09 then (BitVec.ofNat 64 x.sa, s)
    else
      let line := l.filter fun y => match y.src with | .peer id' pa' => id' == id && pa' / 256 == pa / 256 | _ => false
      let (w, s) := drawFree s
      (BitVec.ofNat 64 (nth x line (w.toNat % line.length)).sa, s)
  | _ => (BitVec.ofNat 64 x.sa, s)

/-- The bytes read: the values of those that are good, and the first failure; bytes move in no fixed order (R274). -/
def copyReadAll (s : State) (cl : Nat) (o : CopyOp) (l : List CopyByte) :
    List (CopyByte × Byte) × Option (Nat × DWord) × State :=
  l.foldl (fun (acc : List (CopyByte × Byte) × Option (Nat × DWord) × State) x =>
    let (b, bad, s) := copyRead acc.2.2 cl o x
    match bad, acc.2.1 with
    | none, f => (acc.1 ++ [(x, b)], f, s)
    | some _, some f => (acc.1, some f, s)
    | some k, none =>
      let (a, s) := srcFailAddr l x k s
      (acc.1, some (k, a), s)) ([], none, s)

/-- Whether a failing copy can have moved a byte: neither side stops it, and a peer's source has been received (R275). -/
def canMove (o : CopyOp) (x : CopyByte) : Bool :=
  (copyStop [x]).isNone &&
  (match x.src with | .peer id pa => o.got.any fun (a, b, _) => a == id && b == pa / 256 | _ => true)

/-- The destination bytes in the end: a byte that the copy's own source overlaps is free; of two bytes for one place
either one lands; in a failing copy each byte lands or not (R274, R275). -/
def copyLands (s : State) (cl : Nat) (o : CopyOp) (srcs : List Nat) (failing : Bool) (l : List (CopyByte × Byte)) :
    List (Nat × Side × Byte) × State :=
  l.foldl (fun (acc : List (Nat × Side × Byte) × State) (x, b) =>
    match placeOf acc.2 cl o x.dst with
    | none => acc
    | some k =>
      let (w, s) := drawFree acc.2
      let b : Byte := if srcs.contains k then w.setWidth 8 else b
      let twice := acc.1.any fun y => y.1 == k
      if (failing || twice) && w.getLsbD 8 then (acc.1, s)
      else (acc.1.filter (fun y => y.1 != k) ++ [(k, x.dst, b)], s)) ([], s)

/-- Bytes at rising places joined into runs that stay within a 64-byte granule. -/
def runsOf (l : List (Nat × Side × Byte)) : List (Nat × Side × List Byte) :=
  l.foldl (fun (acc : List (Nat × Side × List Byte)) (k, sd, b) =>
    match acc.getLast? with
    | some (k0, sd0, bs) =>
      if k0 + bs.length == k && k % 64 != 0 then acc.dropLast ++ [(k0, sd0, bs ++ [b])] else acc ++ [(k, sd, [b])]
    | none => [(k, sd, [b])]) []

/-- The remote bytes of a copy by peer and line. -/
def remoteRuns (l : List (Nat × Side × Byte)) : List (Nat × Nat × List (Nat × Byte)) :=
  l.foldl (fun acc (_, sd, b) =>
    match sd with
    | .peer id pa =>
      if acc.any fun g => g.1 == id && g.2.1 == pa / 256 then
        acc.map fun g => if g.1 == id && g.2.1 == pa / 256 then (g.1, g.2.1, g.2.2 ++ [(pa % 256, b)]) else g
      else acc ++ [(id, pa / 256, [(pa % 256, b)])]
    | _ => acc) []

/-- Bytes of a scratchpad that a copy writes: an operation issued by a path that has not observed its completion may read their
old values; a push's bytes are always read (R267, R279). -/
def copyScratch (s : State) (cl : Nat) (o : CopyOp) (off : Nat) (bs : List Byte) : State :=
  let mine (x : MatOp) : Bool := x.bq && o.queue == some x.qid
  if o.queue.isSome then dirtyOps (scrWriteAs .singly s cl o.crew o.asid off bs) cl o.crew off bs.length mine
  else matWrite s cl o.crew o.asid (.copy o.id o.train) mine off bs

/-- Bytes of memory that a copy writes, stashed ones among them (R267, R298). -/
def copyMemory (s : State) (o : CopyOp) (k : Nat) (bs : List Byte) : State :=
  let t := homeWriteAs .singly s o.asid k bs
  match chunkOfKey s k with
  | none => t
  | some (cl, ch) =>
    let off := ch.off + (k - ch.key)
    dirtyOps (noteWrite t cl ⟨ch.crew, .copy o.id o.train, off, memBytes s.mem k bs.length, none⟩) cl ch.crew off bs.length
      fun _ => false

/-- A copy's bytes are written: to memory at their homes, to the scratchpad, and towards peers (R274, R404). -/
def copyWrite (s : State) (cl : Nat) (o : CopyOp) (l : List (Nat × Side × Byte)) : State :=
  let s := (runsOf (l.filter fun x => match x.2.1 with | .key _ | .scr _ => true | _ => false)).foldl (fun s (k, sd, bs) =>
    match sd with
    | .scr off => copyScratch s cl o off bs
    | _ => copyMemory s o k bs) s
  (remoteRuns l).foldl (fun s (id, line, bytes) =>
    let (wid, s) := fresh s
    let mask := bytes.foldl (fun (m : BitVec 256) (i, _) => m ||| lineMask i 1) 0
    let data := bytes.foldl (fun d (i, b) => mergeBytes d i [b]) (List.replicate 256 0)
    sendOutWrite s ⟨wid, id, line, 0, 2, o.who.core, o.train, o.txn, [], [], none⟩ mask
      fun port => .write id port wid line mask data) s

/-- The end of a copy (R269, R272, R279). -/
def finishCopy (s : State) (cl : Nat) (o : CopyOp) (fail : Option (Nat × DWord)) : State :=
  let s := modCluster s cl fun k => { k with
    copies := k.copies.filter fun x => x.id != o.id,
    bufs := match o.queue with
      | none => k.bufs
      | some q => updAt k.bufs q (Option.map fun b => { b with slots := updAt b.slots o.qslot fun _ => .full }) }
  requestAll (endOp (sealWrites s o.id) o.who.core o.txn o.train o.asid o.id o.obj fail o.know) cl

/-- COPY_START (R265, R279). -/
def execCopyStart (cluster id : Nat) (s : State) : Out :=
  match copyAt s cluster id with
  | none => disabled
  | some o =>
    let s' := modCluster s cluster fun k => { k with
      copies := k.copies.map fun x => if x.id == id then { x with started := true } else x,
      bufs := match o.queue with
        | none => k.bufs
        | some q => updAt k.bufs q (Option.map fun b => { b with slots := updAt b.slots o.qslot fun _ => .reserved }) }
    stepWhen (o.granted && !o.started && slotFree (clusterAt s cluster) o) s'

/-- Whether accesses of a core have performed (R274). -/
def accessesDone (s : State) (core : Nat) (after : List Nat) : Bool :=
  let k := coreAt s core
  !(k.txns.any fun x => after.contains x.id && !x.perf) && !(k.wc.any fun e => after.contains e.id) &&
  !(s.outWrites.any fun w => after.contains w.id)

/-- Whether the accesses that a copy waits for have performed (R274). -/
def copyAfterDone (s : State) (o : CopyOp) : Bool := accessesDone s o.who.core o.after

/-- Whether a copy awaits nothing from the fabric. -/
def copyAnswered (s : State) (o : CopyOp) : Bool :=
  !(s.remotes.any fun q => match q.use with | .copy _ n => n == o.id | _ => false) &&
  !(s.outWrites.any fun w => w.kind == 2 && w.txn == o.txn)

/-- The translations that a copy makes (R231, R238). -/
def copyWalks (s : State) (o : CopyOp) (l : List CopyByte) : State :=
  let vas := ((if o.sScr then [] else l.map (·.sa)) ++ (if o.dScr || o.queue.isSome then [] else l.map (·.da)))
  (vas.foldl (fun (acc : List Nat × State) a =>
    if acc.1.contains (a / 65536) then acc
    else (a / 65536 :: acc.1, walkEffect acc.2 o.who.core o.asid (BitVec.ofNat 64 a))) ([], s)).2

/-- The write-combining entries of a copy's core that hold a line which it is to read of a peer (R403). -/
def lineHeld (s : State) (o : CopyOp) (x : Nat × Nat × BitVec 4) : List WcEntry :=
  (coreAt s o.who.core).wc.filter fun e => e.peer == x.1 && e.line == x.2.1

/-- The remote lines that a copy wants are asked for, once no write-combining entry of its core holds them (R401, R403). -/
def wantLines (s : State) (cl : Nat) (o : CopyOp) (wants : List (Nat × Nat × BitVec 4)) : State :=
  let held := wants.flatMap fun x => (lineHeld s o x).map (·.id)
  let s := wcDrain s o.who.core fun e => held.contains e.id
  askLines s cl o (wants.filter fun x => (lineHeld s o x).isEmpty)

/-- Bytes of a copy go to their places, and draw its tokens (R207, R274); one that has written to a peer ends once the peer has
answered (R272). -/
def landCopy (s : State) (cl : Nat) (o : CopyOp) (out : List (Nat × Side × Byte)) (n : Nat) (fail : Option (Nat × DWord)) : State :=
  let s := dieDraw (copyWrite s cl o out) (cl / 12) n
  if out.any fun x => match x.2.1 with | .peer _ _ => true | _ => false then
    modCopy s cl o.id fun o => { o with moved := true, failed := fail }
  else finishCopy s cl o fail

/-- The peers' lines that a failing copy has asked for before it fails: any of those that it could move, once (R274, R275). -/
def askBefore (s : State) (o : CopyOp) (l : List CopyByte) : List (Nat × Nat × BitVec 4) × State :=
  if o.asked then ([], s)
  else (copyWants o (l.filter fun x => (copyStop [x]).isNone)).foldl
    (fun (acc : List (Nat × Nat × BitVec 4) × State) x =>
      let (w, s) := drawFree acc.2
      (if w.getLsbD 0 then acc.1 ++ [x] else acc.1, s)) ([], s)

/-- A started copy moves its bytes, fails, stops at an absent page, or asks a peer (R274, R275). -/
def moveCopy (s : State) (cl : Nat) (o : CopyOp) : State :=
  let l := copySides s cl o
  let s := copyWalks s o l
  match copyStop l with
  | some (.park va kind lvl) =>
    faultRecord (modCopy s cl o.id fun o => { o with atPage := true }) o.asid va kind lvl o.trainId
      (if o.who.handler then 0 else o.who.entry)
  | some (.fail cause va) =>
    let (wants, s) := askBefore s o l
    if !wants.isEmpty then wantLines s cl o wants
    else
      let (vals, _, s) := copyReadAll s cl o (l.filter (canMove o))
      let (out, s) := copyLands s cl o [] true vals
      landCopy s cl o out vals.length (some (cause, va))
  | none =>
    let wants := copyWants o l
    if !wants.isEmpty then wantLines s cl o wants
    else
      let (vals, fail, s) := copyReadAll s cl o l
      let srcs := l.filterMap fun x => placeOf s cl o x.src
      let (out, s) := copyLands s cl o srcs fail.isSome vals
      landCopy s cl o out l.length fail

/-- COPY_COMPLETE (R274, R275). -/
def execCopyComplete (cluster id : Nat) (s : State) : Out :=
  match copyAt s cluster id with
  | none => disabled
  | some o =>
    stepWhen (o.started && !o.atPage && copyAfterDone s o && copyAnswered s o && unitPaid s (cluster / 12))
      (match o.failed with
       | some f => finishCopy s cluster o (some f)
       | none => if o.moved then finishCopy s cluster o none else moveCopy s cluster o)

/-- BUFFER_FREED (R278): no reserved slot's copy and no reading operation is left. A `.BQ` operation that has not started does not hold
the buffer, and waits until a later binding of that number fills a head slot, which the specification does not give (DESIGN CHOICE:
log entry 112). -/
def execBufferFreed (cluster q : Nat) (s : State) : Out :=
  let k := clusterAt s cluster
  match bufAt k q with
  | none => disabled
  | some b =>
    stepWhen (b.freed && !(k.copies.any fun o => o.queue == some q) && !(b.slots.any fun x => x == .reading))
      (modCluster s cluster fun k => { k with bufs := updAt k.bufs q fun _ => none })

end Sys2Proof.Machine
end

