-- ==== Sys2Proof/Machine/ServiceSteps.lean ====
section
/-! DEFINITION. The steps of the service trains (R296-R305, R311), of WAITADDR (R307), and the writes of outstanding
results (R33, R228, R246). -/
namespace Sys2Proof.Machine

/-! ## Results -/

/-- Change of the outstanding result of a path by its number. -/
def modPending (s : State) (r : PathRef) (id : Nat) (f : Pending → Pending) : State :=
  modPath s r fun p => { p with pending := p.pending.map fun q => if q.id == id then f q else q }

/-- A reply of a lane: its writes, or its error; `key` is what was awaited. -/
def replyLane (s : State) (r : PathRef) (id key : Nat) (ws : List RegWrite) (errs : List LaneErr) : State :=
  modPending s r id fun q => { q with
    writes := q.writes ++ ws, errs := q.errs ++ errs, awaiting := q.awaiting.filter (· != key) }

/-- One write of a result; a retired lane's is discarded (R297). -/
def applyWrite (s : State) (r : PathRef) (w : RegWrite) : State :=
  match w.reg with
  | .scalar n => writeS s r n false w.val.toNat
  | g => modTrain s r.core r.slot fun t =>
      if t.retired.has w.lane then t
      else { t with lanes := updAt t.lanes w.lane fun ln => setLaneReg ln g w.val }

/-- The table that a TABLD brings is in force from now on (R115). -/
def flipBank (s : State) (core : Nat) (b : ActBank) : State :=
  modCore s core fun k => { k with
    actBanks := updAt k.actBanks (1 - k.actCur) fun _ => b, actCur := 1 - k.actCur, tabld := none }

/-- The words of an image by their numbers. -/
def imageWords (ws : List RegWrite) : List Nat :=
  (List.range 264).map fun i => match ws.find? fun w => w.lane == i with | some w => w.val.toNat | none => 0

/-- What a result that has come brings beside its writes (R115, R228): a bank, or a trap's cause, lanes and address. -/
def Pending.outcome (q : Pending) (asid : Nat) : Option ActBank × Option (Nat × LaneSet × DWord) :=
  match q.flip with
  | none => (none, errTrap q.errs)
  | some (.bank b) => (some b, none)
  | some (.words a lanes) =>
    match errTrap q.errs with
    | some (cause, _, ea) => (none, some (cause, lanes, ea))
    | none =>
      match tabBadWord (imageWords q.writes) with
      | some i => (none, some (0x07, lanes, a + BitVec.ofNat 64 (4 * i)))
      | none => (some (tabBank asid (imageWords q.writes)), none)

/-- The outstanding result of a path by its number, and whether it is its oldest. -/
def pendingAt (s : State) (r : PathRef) (id : Nat) : Option (Path × Pending) :=
  (pathAt s r).bind fun p => (p.pending.find? fun q => q.id == id).map fun q => (p, q)

/-- One register of a result is written in a lane; where a later instruction of the path has written it meanwhile, the lane keeps
either value (R142). -/
def landWrite (s : State) (r : PathRef) (raced : Bool) (w : RegWrite) : State :=
  if raced then
    let (x, s) := drawFree s
    if x.getLsbD 0 then applyWrite s r w else s
  else applyWrite s r w

/-- A result lands (R33, R228, R246): clean lanes are written or the table flips, the entries are freed, and bad lanes raise
the trap unless an earlier bad result of the path has. -/
def landResult (s : State) (r : PathRef) (p : Path) (q : Pending) : State :=
  let asid := match trainAt s r.core r.slot with | some t => t.asid | none => 0
  let (bank, bad) := q.outcome asid
  let raced (g : Reg) : Bool := p.raced.any fun x => x.1 == q.id && x.2 == g
  let s := if q.flip.isSome then s else q.writes.foldl (fun s w => landWrite s r (raced w.reg) w) s
  let s := match bank with | some b => flipBank s r.core b | none => s
  let s := modPath (dropTxn s r.core q.id) r fun p => { p with
    pending := p.pending.filter fun x => x.id != q.id, raced := p.raced.filter fun x => x.1 != q.id }
  match bad with
  | none => deliver s r.core r.slot
  | some (cause, lanes, addr) =>
    if p.errDue then deliver s r.core r.slot
    else takeTrap (modPath s r fun p => { p with errDue := true }) r ⟨cause, lanes, q.pc, addr⟩

/-- LONG_LATENCY_RESULT_WRITE (R33): any result whose replies have come; one with bad data only when it is the path's
oldest. The fills of the core's die wait while its bucket is at the floor (R362). -/
def execLongLatencyResultWrite (r : PathRef) (id : Nat) (s : State) : Out :=
  match pendingAt s r id with
  | none => disabled
  | some (p, q) =>
    stepWhen (workPaid s (dieOf r.core) && q.awaiting.isEmpty && ((q.outcome 0).2.isNone || p.pending.head? == some q)) (landResult s r p q)

/-- STORE_ACK (R246): the home acknowledges a store, and its entries are freed. -/
def execStoreAck (core id : Nat) (s : State) : Out :=
  stepWhen ((coreAt s core).txns.any fun x => x.id == id && x.kind == .store) (dropTxn s core id)

/-! ## Service trains -/

/-- What a request acts on: the scratchpad or memory, and the line (R296). -/
def reqLine (q : SvcReq) : Bool × Nat :=
  match q with
  | .atomic key scr _ _ _ _ _ _ _ _ _ _ _ _ _ _ _ _ _ => (scr, key / 256)
  | .arrive key scr _ => (scr, key / 256)
  | .complete key _ _ _ _ _ _ => (false, key / 256)

/-- Whether a request is of an earlier lane of the sequenced instruction that another is of (R304, R322). -/
def earlierLane (x q : SvcReq) : Bool :=
  match x, q with
  | .atomic _ _ _ _ _ _ _ _ _ _ _ _ _ _ n t _ _ (some a), .atomic _ _ _ _ _ _ _ _ _ _ _ _ _ _ m u _ _ (some b) =>
    n == m && t == u && a < b
  | _, _ => false

/-- The request at a place of a queue, where no earlier request of its line stands before it, and no queue holds an earlier
lane of its instruction (R296, R304). -/
def svcAt (s : State) (cl i : Nat) : Option SvcReq :=
  let l := (clusterAt s cl).svc
  match l[i]? with
  | none => none
  | some q =>
    if ((l.take i).any fun x => reqLine x == reqLine q) || s.clusters.any fun k => k.svc.any fun x => earlierLane x q then none
    else some q

/-- The queue with one request taken. -/
def svcTake (s : State) (cl i : Nat) : State := modCluster s cl fun k => { k with svc := k.svc.eraseIdx i }

/-- Bits of the word of a cluster in an ASID's status area are set (R299). -/
def statusOr (s : State) (cl asid bits : Nat) : State :=
  let k := ctxStatus s asid + 8 * cl
  if ctxValid s asid then homeWrite s asid k (leBytes 8 (memLe s.mem k 8 ||| bits)) else s

/-- The crew whose allocation holds an address of a cluster's scratchpad. -/
def crewAt (s : State) (cl a : Nat) : CrewRef :=
  match (clusterAt s cl).allocs.find? fun x => x.base ≤ a && a < x.base + x.size with
  | some x => x.crew
  | none => ⟨0, 0⟩

/-- A read of an operand at its owner: its value or the cause of bad data (R298). -/
def ownerRead (s : State) (cl : Nat) (scr : Bool) (asid key n : Nat) : Nat × Option Nat × State :=
  if scr then (scrLe s cl (crewAt s cl key) key n, none, settleBytes s (scrKey cl key) n)
  else
    let (bad, s) := demandRead (settleBytes s key n) none asid key n
    (memLe s.mem key n, bad, s)

/-- A write of an operand at its owner: to the scratchpad, to the stashed line, or at the home (R292, R298). -/
def ownerWrite (kind : WriteKind) (s : State) (cl : Nat) (scr : Bool) (asid key : Nat) (bs : List Byte) : State :=
  if scr then
    let crew := crewAt s cl key
    scrLand kind s cl crew (key - (allocOf s cl crew).1) bs
  else homeWriteAs kind s asid key bs

/-- The service train of a cluster performs a request: its instructions are charged to core 5 (R203, R294); the specification
does not give them, so that how many tokens they cost is a free value, no more than the balance less what is reserved for a path
(R209). -/
def chargeService (s : State) (cl : Nat) : State :=
  let core := 6 * cl + 5
  let (w, s) := drawFree s
  let n := w.toNat % (tokensFor s ⟨core, 11, 0, false⟩ + 1)
  modDie (modCore s core fun k => { k with balance := k.balance - n }) (dieOf core) fun d => { d with spent := d.spent + n }

/-- What an atomic's request computes: the new value, none where nothing is written, and V of an FXADD: signed
overflow, and whether the conversion failed (R301-R303). -/
def atomNew (op bytes tyc : Nat) (b c : DWord) (rm : Nat) (ftz : Bool) (draw : BitVec 24) (old : Nat) :
    Option Nat × Bool × Bool :=
  let w := 8 * bytes
  match op with
  | 12 => (if old == b.toNat % 2 ^ w then some (c.toNat % 2 ^ w) else none, false, false)
  | 13 =>
    let x := signedOf 64 old
    let y := signedOf 64 b.toNat
    let sum := x + y
    (some (wrapTo 64 sum), decide (sum < -(2 ^ 63 : Nat)) || decide (sum ≥ (2 ^ 63 : Nat)), c != 0)
  | _ => (some (atomResult op (ETy.ofCode tyc) rm ftz draw.toNat old (b.toNat % 2 ^ w)), false, false)

/-- An access of a train has been answered on one lane: its holding is settled once no lane of it is left (R246), and where later
accesses waited for it they perform after it (R328). -/
def settleTxn (s : State) (core txn : Nat) (noReply : Bool) : State :=
  let left := (s.clusters.any fun k => k.svc.any fun q => match q with
      | .atomic _ _ _ _ _ _ _ _ _ _ _ _ _ _ n t _ _ _ => n == core && t == txn
      | _ => false) || s.remotes.any fun q => q.core == core && q.txn == txn
  if left then s
  else
    let s := match (coreAt s core).txns.find? (·.id == txn) with
      | some x => if x.acq then raiseFloors s core x.paths else s
      | none => s
    if noReply then dropTxn s core txn
    else modCore s core fun k => { k with
    txns := k.txns.map fun x => if x.id == txn then { x with perf := true, acq := false } else x }

/-- The reply of an atomic goes to its return slot (R297, R305). -/
def atomReply (s : State) (ret : Option (PathRef × Nat × Nat × List Reg)) (x : Nat) (errs : List LaneErr) : State :=
  match ret with
  | none => s
  | some (r, pend, lane, dests) => replyLane s r pend lane (if errs.isEmpty then regWrites dests lane x else []) errs

/-- Where the return slot's lane fails (R305). -/
def atomErr (ret : Option (PathRef × Nat × Nat × List Reg)) (cause : Nat) (va : DWord) : List LaneErr :=
  match ret with
  | none => []
  | some (_, _, lane, _) => [⟨lane, cause, va⟩]

/-- One atomic request is performed (R298, R302, R303, R305). -/
def performAtomic (s : State) (cl : Nat) (q : SvcReq) : State :=
  match q with
  | .atomic key scr op bytes tyc b c _ rm ftz draw noReply asid ret core txn va _ _ =>
    let paths := (((coreAt s core).txns.find? (·.id == txn)).map (·.paths)).getD []
    let (old, bad, s) := ownerRead s cl scr asid key bytes
    let s := match bad with
      | some cause => if noReply then statusOr s cl asid 4 else atomReply s ret 0 (atomErr ret cause va)
      | none =>
        let (new, ovf, cnv) := atomNew op bytes tyc b c rm ftz draw old
        let s := match new with
          | some x => ownerWrite (.update paths) s cl scr asid key (leBytes bytes x)
          | none => notePaths s core paths (noteRead false false s.point (if scr then scrKey cl key else key) bytes)
        if op == 13 && noReply then
          let bits := (if ovf then 1 else 0) + (if cnv then 2 else 0)
          if bits == 0 then s else statusOr s cl asid bits
        else atomReply s ret (if op == 13 then (if ovf || cnv then 1 else 0) else old) []
    settleTxn s core txn noReply
  | _ => s

/-- ATOMIC_REQUEST (R302) of this package's own queue. -/
def localAtomic (cluster idx : Nat) (s : State) : Out :=
  match svcAt s cluster idx with
  | some (.atomic key scr op bytes tyc b c sc rm ftz draw nr asid ret core txn va o ord) =>
    .next (performAtomic (chargeService (svcTake s cluster idx) cluster) cluster
      (.atomic key scr op bytes tyc b c sc rm ftz draw nr asid ret core txn va o ord))
  | _ => disabled

/-! ## Barriers -/

/-- Every reference to a path of the package that satisfies a test. -/
def findPaths (s : State) (cores : List Nat) (test : Path → Bool) : List PathRef :=
  cores.flatMap fun core =>
    (((coreAt s core).slots).zipIdx).flatMap fun (o, slot) =>
      match o with
      | none => []
      | some t =>
        ((livePaths t.paths).filterMap fun (i, p) => if test p then some ⟨core, slot, i, false⟩ else none) ++
        (match t.handler with
         | some h => (livePaths h.paths).filterMap fun (i, p) => if test p then some ⟨core, slot, i, true⟩ else none
         | none => [])

/-- The cores that can wait on a word: those of the cluster for its scratchpad, else every core. -/
def waiterCores (cl : Nat) (scr : Bool) : List Nat := if scr then (List.range 6).map fun i => 6 * cl + i else List.range 288

/-- The waiters on a barrier word wake (R311). -/
def wakeBarrier (s : State) (cl key : Nat) (scr : Bool) : State :=
  (findPaths s (waiterCores cl scr) fun p => match p.wake with
    | some (.barrier k _ _ cw _) => k == key && cw == scr
    | _ => false).foldl (fun s r => modPath s r fun p => learnPath (knownAt s (if scr then scrKey cl key else key)).done
      (wakePath s.point p)) s

/-- The arriving path takes its token: into its scalar, or to wait with it (R311); `known` is what the phase passes on where it has
moved. -/
def takeToken (s : State) (r : PathRef) (key token : Nat) (moved : Bool) (known : List (Nat × Nat)) : State :=
  match (pathAt s r).bind (·.wake) with
  | some (.arrive k addr dst thenWait scr ros) =>
    if k != key then s
    else
      let s := match dst with
        | some d => writeS s r d false token
        | none => s
      if thenWait && !moved then modPath s r fun p => { p with wake := some (.barrier k addr token scr ros) }
      else modPath s r fun p => learnPath (if thenWait then known else []) (wakePath s.point p)
  | _ => s

/-- An arrival that fails traps its path (R311). -/
def failArrive (s : State) (r : PathRef) (key cause : Nat) : State :=
  match pathAt s r with
  | some p =>
    (match p.wake with
     | some (.arrive k addr _ _ _ _) =>
       if k == key then takeTrap (modPath s r (wakePath s.point)) r ⟨cause, p.mask, p.lastPc, addr⟩ else s
     | _ => s)
  | none => s

/-- An arrival is performed (R311). -/
def performArrive (s : State) (cl key : Nat) (scr : Bool) (r : PathRef) : State :=
  let asid := match trainAt s r.core r.slot with | some t => t.asid | none => 0
  let (w, bad, s) := ownerRead s cl scr asid key 8
  let count := bitsOf w 15 0
  let expect := bitsOf w 31 16
  let phase := bitsOf w 47 32
  match bad with
  | some cause => failArrive s r key cause
  | none =>
    if expect == 0 || count ≥ expect || bitsOf w 63 48 != 0 then failArrive s r key 0x07
    else
      let last := count + 1 == expect
      let w' := if last then expect * 2 ^ 16 + (phase + 1) % 2 ^ 16 * 2 ^ 32 else w + 1
      let place := if scr then scrKey cl key else key
      let brought := match pathAt s r with | some p => p.seen | none => []
      let s := modKnown (ownerWrite .relaxed s cl scr asid key (leBytes 8 w')) place fun x =>
        let cur := joinKnow x.cur brought
        if last then { x with cur := [], done := joinKnow x.done cur } else { x with cur := cur }
      let s := takeToken s r key phase last (knownAt s place).done
      if last then wakeBarrier s cl key scr else s

/-- BARRIER_ARRIVE (R311). -/
def execBarrierArrive (cluster idx : Nat) (s : State) : Out :=
  match svcAt s cluster idx with
  | some (.arrive key scr r) => .next (performArrive (chargeService (svcTake s cluster idx) cluster) cluster key scr r)
  | _ => disabled

/-! ## Completion objects -/

/-- The key of a waiter's word: its page may have moved since the path parked. -/
def keyNow (s : State) (r : PathRef) (asid : Nat) (va : DWord) (pa : Nat) : Nat :=
  match xlate s r.core asid va with
  | .leaf w bits => if w.testBit 10 then pa else leafKey w bits va
  | _ => pa

/-- A waiter on an object rechecks it: a CWAIT returns, a YIELD goes on at its continuation, where it is satisfied
(R145, R276). Where the object is bad at a parked YIELD's wake, TRAPMASK names the path's mask (DESIGN CHOICE, unsafe: log entry
117). -/
def recheckObj (s : State) (r : PathRef) : State :=
  match pathAt s r, trainAt s r.core r.slot with
  | some p, some t =>
    (match p.wake with
     | some (.cwait pa act va) =>
       (match objTest s r.core t.asid (some (keyNow s r t.asid va pa)) with
        | (some cause, _, s) => takeTrap (modPath s r (wakePath s.point)) r ⟨cause, waitLanes p act, p.lastPc, va⟩
        | (none, true, s) => endWait (willLearn s r (knownAt s (keyNow s r t.asid va pa)).done) r act
        | (none, false, s) => s)
     | some (.yield pa cont va) =>
       (match objTest s r.core t.asid (some (keyNow s r t.asid va pa)) with
        | (some cause, _, s) => takeTrap (modPath s r (wakePath s.point)) r ⟨cause, p.mask, p.lastPc, va⟩
        | (none, true, s) => goTo (modPath s r (wakePath s.point)) r cont p.pc
        | (none, false, s) => s)
     | _ => s)
  | _, _ => s

/-- Whether a path waits on an object of a key. -/
def waitsOn (key : Nat) (p : Path) : Bool :=
  match p.wake with
  | some (.cwait pa _ _) => pa == key
  | some (.yield pa _ _) => pa == key
  | _ => false

/-- COMPLETION_OBJECT_UPDATE (R272). -/
def execCompletionObjectUpdate (cluster idx : Nat) (s : State) : Out :=
  match svcAt s cluster idx with
  | some (.complete key add errs cause addr asid know) =>
    let s := performComplete (chargeService (svcTake s cluster idx) cluster) key add errs cause addr asid
    let s := if know.isEmpty then s else modKnown s key fun x => { x with done := joinKnow x.done know }
    .next ((findPaths s (List.range 288) (waitsOn key)).foldl recheckObj s)
  | _ => disabled

/-! ## WAITADDR -/

/-- The watchdog of an agent counts anew from the end of its wait (R181). -/
def restartWatch (s : State) (r : PathRef) : State :=
  if r.handler then modTrain s r.core r.slot fun t => { t with handler := t.handler.map fun h =>
    if h.agent then { h with started := s.time } else h }
  else s

/-- The end of a WAITADDR with the value it read (R307). -/
def endWaitaddr (s : State) (r : PathRef) (pa dst : Nat) (wide : Bool) (v : Nat) : State :=
  writeS (modPath (disarm (restartWatch s r) (pa / 256) r) r (wakePath s.point)) r dst wide v

/-- The wait of a path in WAITADDR that may go on now: it is parked and not Frozen (R41). -/
def waitaddrOf (s : State) (r : PathRef) : Option (Path × Train) :=
  match pathAt s r, trainAt s r.core r.slot with
  | some p, some t => if p.pstate == .parked && p.frozen == .none then some (p, t) else none
  | _, _ => none

/-- Whether a WAITADDR on a peer's word has a read outstanding. -/
def waPending (s : State) (r : PathRef) : Bool :=
  s.remotes.any fun q => match q.use with | .waitAddr x => x == r | _ => false

/-- A WAITADDR's re-read finds a value in a place of its own package, or on a page that reads as zero (R307): the wait ends, or its
monitor is armed at the line where the word lies now. -/
def rereadHere (s : State) (r : PathRef) (pa : Nat) (k : Option Nat) (out : Bool) (v : Nat) : State :=
  match pathAt s r with
  | none => s
  | some p =>
    match p.wake with
    | some (.waitAddr va _ cmp wide eq d dst act _ _) =>
      if out || waCond eq cmp v then endWaitaddr s r pa dst wide v
      else
        let s := modPath (disarm s (pa / 256) r) r fun p =>
          { p with wake := some (.waitAddr va (k.getD (2 * remoteKey)) cmp wide eq d dst act false false) }
        (match k with
         | some k => armMonitor s (k / 256) r
         | none => s)
    | _ => s

/-- A WAITADDR re-reads its word, as one sequenced load lane (R307): on a page that is not present it parks for the page and is
replayed, which sets a deadline of its own (R234; DEDUCED, unsafe: log entry 111), and a lane that fails its checks traps. A peer's
word is asked for once the write-combining entries of its line have been acknowledged (R403). -/
def rereadWait (s : State) (r : PathRef) (p : Path) (t : Train) : State :=
  match p.wake with
  | some (.waitAddr va pa cmp wide eq d dst act _ lost) =>
    let n := if wide then 8 else 4
    let out := lost || (match d with | some x => s.time ≥ x | none => false)
    let x : LaneAcc := ⟨0, va, checkLane s r.core t.asid r.handler .read n va⟩
    let trap (s : State) (cause : Nat) : State :=
      takeTrap (modPath (disarm (restartWatch s r) (pa / 256) r) r (wakePath s.point)) r ⟨cause, waitLanes p act, p.lastPc, va⟩
    let s := walkEffects s r.core t.asid [x]
    match x.out with
    | .trap cause => trap s cause
    | .park lvl => parkForPages (disarm (restartWatch s r) (pa / 256) r) r p.lastPc act [(va, lvl)] 0
    | .zero | .idle => rereadHere s r pa none out 0
    | .peer id a _ =>
      (match (coreAt s r.core).wc.filter fun e => e.peer == id && e.line == a / 256 with
       | [] => waRemote (modPath (disarm s (pa / 256) r) r fun p =>
           { p with wake := some (.waitAddr va remoteKey cmp wide eq d dst act false false) }) r t.uid p.uid id a n
       | es => wcDrain s r.core fun e => es.any fun x => x.id == e.id)
    | .ok k =>
      let (bad, s) := demandRead (settleBytes s k n) (some r.core) t.asid k n
      (match bad with
       | some cause => trap s cause
       | none => rereadHere s r pa (some k) out (memLe s.mem k n))
  | _ => s

/-- WAITADDR_WAKE (R307): a write to the line, or the loss of the monitor. A wait on a peer's word is woken from
outside. -/
def execWaitaddrWake (r : PathRef) (s : State) : Out :=
  match waitaddrOf s r with
  | none => disabled
  | some (p, t) =>
    match p.wake with
    | some (.waitAddr _ pa _ _ _ _ _ _ hit lost) =>
      stepWhen ((hit || lost || pa == remoteKey) && !waPending s r) (rereadWait s r p t)
    | _ => disabled

/-- WAITADDR_TIMEOUT (R307). -/
def execWaitaddrTimeout (r : PathRef) (s : State) : Out :=
  match waitaddrOf s r with
  | none => disabled
  | some (p, t) =>
    match p.wake with
    | some (.waitAddr _ _ _ _ _ (some d) _ _ _ _) =>
      stepWhen (s.time ≥ d && !waPending s r) (rereadWait s r p t)
    | _ => disabled

end Sys2Proof.Machine
end

