-- ==== Sys2Proof/Machine/NearMem.lean ====
section
/-! DEFINITION. Near-memory commands (R371-R375, R467): NMC, NMFENCE, and the steps of the stacks' engines. -/
namespace Sys2Proof.Machine

/-- A word of a command's descriptor (R372). -/
def Ctx.nmWord (c : Ctx) (i : Nat) : Word := rdS c.t c.p ((ext0Of c.f).c.toNat + i)
/-- DST. -/
def Ctx.nmDst (c : Ctx) : DWord := DWord.ofHalves (c.nmWord 0) (c.nmWord 1)
/-- SRC. -/
def Ctx.nmSrc (c : Ctx) : DWord := DWord.ofHalves (c.nmWord 2) (c.nmWord 3)
/-- The object of a command. -/
def Ctx.nmObj (c : Ctx) : Option DWord := if c.subBit 0 then some (BitVec.ofNat 64 (c.s c.f.a true)) else none

/-- The checks and waits of an NMC (R372). -/
def nmcEntry (i : Instr) (s : State) (c : Ctx) : Entry :=
  (r94 c i 0x02 (c.nmWord 7 != 0 || (c.f.x == 0 && c.nmSrc != 0))).andThen <|
  (r94 c i 0x07 (c.nmWord 4 == 0 || (c.nmWord 4).toNat > 2 ^ 24)).andThen <|
  (r94 c i 0x05 (c.nmDst.toNat % 4 != 0 || c.nmSrc.toNat % 4 != 0)).andThen <|
  (objEntry s c c.nmObj).andThen (engineEntry s c)

/-- NMC (R371, R372). -/
def execNmc (f : Fields) (s : State) : Out :=
  issue (.nmc f) (nmcEntry (.nmc f)) (fun c s =>
    let (key, s) := objKey s c c.nmObj
    let (id, s) := fresh s
    let s := addTxn s c.r.core ⟨id, .engine, c.t.uid, 1, [], none, false, true⟩
    let n := (c.nmWord 4).toNat
    let q : NmcCmd := {
      id := id, train := c.t.uid, who := c.r, crew := c.t.crew, asid := c.t.asid, paths := [c.p.uid],
      op := c.f.x.toNat, ty := c.ty.code, dst := c.nmDst, src := c.nmSrc, count := n, alpha := c.nmWord 5,
      beta := c.nmWord 6, obj := key, txn := id, left := List.range n, parked := [], failed := none, paid := [] }
    { s with nmcs := s.nmcs ++ [q] }) s

/-- The waits of an NMFENCE (R339, R375). -/
def nmfenceEntry (s : State) (c : Ctx) : Entry :=
  (waitIf (s.nmcs.any fun q => q.paths.contains c.p.uid) 0x05).andThen <|
  (fenceEntry s c).andThen (reportEntry c)

/-- NMFENCE (R375). -/
def execNmfence (f : Fields) (s : State) : Out :=
  issue (.nmfence f) nmfenceEntry (fun c s => endWait s c.r c.act) s

/-! ## The engines -/

/-- A command by its number. -/
def nmcAt (s : State) (id : Nat) : Option NmcCmd := s.nmcs.find? fun q => q.id == id
/-- Change of a command. -/
def modNmc (s : State) (id : Nat) (f : NmcCmd → NmcCmd) : State :=
  { s with nmcs := s.nmcs.map fun q => if q.id == id then f q else q }

/-- The addresses of element `i`. -/
def NmcCmd.d (q : NmcCmd) (i : Nat) : DWord := q.dst + BitVec.ofNat 64 (4 * i)
/-- The source address of element `i`. -/
def NmcCmd.s (q : NmcCmd) (i : Nat) : DWord := q.src + BitVec.ofNat 64 (4 * i)

/-- Where a byte of a command lies: a stack, nowhere for a ZERO page, an absent page, or a failure (R374). -/
inductive NmPlace where
  | key (k : Nat)
  | zero
  | park (lvl : Nat)
  | bad (cause : Nat)
  deriving DecidableEq, Repr

/-- The place of an address of a command (R157, R292, R374). -/
def nmPlace (s : State) (q : NmcCmd) (need : Need) (va : DWord) : NmPlace :=
  match checkLane s q.who.core q.asid false need 4 va with
  | .idle => .zero
  | .ok k => if k ≥ tierBase || (chunkOfKey s k).isSome then .bad 0x07 else .key k
  | .peer _ _ _ => .bad 0x07
  | .zero => .zero
  | .park lvl => .park lvl
  | .trap c => .bad c

/-- What an operation needs of DST. -/
def NmcCmd.need (q : NmcCmd) : Need := if q.op == 0 then .write else .update

/-- The stack whose engine takes element `i`: that of its home, or stack 0 where it has none. -/
def homeStack (s : State) (q : NmcCmd) (i : Nat) : Nat :=
  match nmPlace s q q.need (q.d i) with
  | .key k => k / 256 % 12
  | _ => 0

/-- The value of an element (R373). -/
def nmOp (q : NmcCmd) (x y : Nat) : Nat :=
  let v := FEnv.nearest
  match q.op with
  | 0 => q.alpha.toNat
  | 1 =>
    let a := decF .fp32 q.alpha.toNat
    let b := decF .fp32 q.beta.toNat
    (match termMul a (decF .fp32 x), termMul b (decF .fp32 y) with
     | some p, some r => (finish .fp32 v 0 (termSum 0 [p, r])).1
     | _, _ => nanPat .fp32)
  | _ => if ETy.ofCode q.ty == .fp32 then (fAddSub false .fp32 v 0 x y).1 else (x + y) % 2 ^ 32

/-- Whether element `i` is unpredictable: the ranges overlap there and are not the same (R373). -/
def nmOverlap (q : NmcCmd) (i : Nat) : Bool :=
  let inside (a b : DWord) : Bool := (a - b).toNat < 4 * q.count
  q.op != 0 && q.src != q.dst && (inside (q.d i) q.src || inside (q.s i) q.dst)

/-- Whether a fill covers a whole granule. -/
def nmWhole (q : NmcCmd) (i : Nat) : Bool :=
  let a := (q.d i).toNat / 64 * 64
  q.op == 0 && a ≥ q.dst.toNat && a + 64 ≤ q.dst.toNat + 4 * q.count

/-- A granule as an engine meets it: recalled, and where it is bad its cause; an uncorrectable one becomes poisoned
without a log record of its own (R298, R374). -/
def nmGranule (s : State) (q : NmcCmd) (i k : Nat) : Option Nat × State :=
  let g := k / 64
  let s := recallMasks s q.asid g none
  if s.poison.contains g then (some 0x0A, s)
  else if s.latent.contains g then
    if nmWhole q i then (none, { s with latent := s.latent.filter (· != g), logged := s.logged.filter (· != g) })
    else (some 0x0B, { s with latent := s.latent.filter (· != g), poison := g :: s.poison })
  else (none, s)

/-- A skipped element: the one with the lowest DST address is the command's reported failure (R374). -/
def nmSkip (s : State) (q : NmcCmd) (i cause : Nat) (g : Option Nat) : State :=
  modNmc s q.id fun q => { q with failed := match q.failed with
    | some (c, a, h) => if (q.d i).toNat < a.toNat then some (cause, q.d i, g) else some (c, a, h)
    | none => some (cause, q.d i, g) }

/-- Whether a granule is bad for a reason that this command has met before as an uncorrectable error. -/
def nmCause (q : NmcCmd) (g cause : Nat) : Nat :=
  match q.failed with
  | some (0x0B, _, some h) => if h == g then 0x0B else cause
  | _ => cause

/-- An absent page of a command: one fault record for each page (R275, R374). -/
def nmPark (s : State) (q : NmcCmd) (va : DWord) (kind lvl : Nat) : State :=
  if q.parked.contains (va.toNat / 65536) then s
  else
    let tid := match anyTrain s q.train with | some t => t.trainId | none => 0
    faultRecord (modNmc s q.id fun q => { q with parked := va.toNat / 65536 :: q.parked }) q.asid va kind lvl tid
      (if q.who.handler then 0 else q.who.entry)

/-- An element is done with. -/
def nmDone (s : State) (q : NmcCmd) (i : Nat) : State := modNmc s q.id fun q => { q with left := q.left.filter (· != i) }

/-- One element is processed (R373, R374): it waits for an absent page, is skipped for a failure, or is written. The engine's work
in the stack is paid for by the granule. -/
def nmElement (s : State) (id i : Nat) : State :=
  match nmcAt s id with
  | none => s
  | some q =>
    let dp := nmPlace s q q.need (q.d i)
    let sp := if q.op == 0 then NmPlace.zero else nmPlace s q .read (q.s i)
    let s := walkEffect s q.who.core q.asid (q.d i)
    let s := if q.op == 0 then s else walkEffect s q.who.core q.asid (q.s i)
    let skip (cause : Nat) : State := nmDone (nmSkip s q i cause none) q i
    match dp, sp with
    | .park lvl, _ => nmPark s q (q.d i) 1 lvl
    | .bad c, _ => skip c
    | _, .park lvl => nmPark s q (q.s i) 0 lvl
    | _, .bad c => skip c
    | dp, sp =>
      let look (s : State) (x : NmPlace) : Option (Nat × Nat) × Nat × State := match x with
        | .key k =>
          let (bad, s) := nmGranule (settleBytes s k 4) q i k
          (bad.map fun c => (nmCause q (k / 64) c, k / 64), memLe s.mem k 4, s)
        | _ => (none, 0, s)
      let (b1, x, s) := look s dp
      let (b2, y, s) := look s sp
      match b1 <|> b2 with
      | some (cause, g) => nmDone (nmSkip s q i cause (some g)) q i
      | none =>
        let (w, s) := if nmOverlap q i then (let (w, s) := drawFree s; (w.toNat, s)) else (nmOp q x y, s)
        let s := match dp with
          | .key k => { homeWrite s q.asid k (leBytes 4 w) with dies := s.dies }
          | _ => s
        nmDone s q i

/-- Whether an element can be taken now: it waits for no page whose absence has been recorded. -/
def nmReady (s : State) (q : NmcCmd) (i : Nat) : Bool :=
  let known (va : DWord) : Bool := q.parked.contains (va.toNat / 65536)
  match nmPlace s q q.need (q.d i), nmPlace s q .read (q.s i) with
  | .park _, _ => !(known (q.d i))
  | _, .park _ => q.op == 0 || !(known (q.s i))
  | _, _ => true

/-- The granules of DST among some elements of a command that a stack homes, and has drawn nothing for yet: the others' pages have
failed, and no stack processes a granule for them (R374). -/
def nmGrans (s : State) (q : NmcCmd) (l : List Nat) : List Nat :=
  (uniq (l.filterMap fun i => match nmPlace s q q.need (q.d i) with | .key k => some (k / 64) | _ => none)).filter
    fun g => !q.paid.contains g

/-- NMC_SHARE_START (R467): the elements that a stack homes are processed, 400 tokens drawn for each granule of those that do
not wait for a page (R374). -/
def execNmcShareStart (id stack : Nat) (s : State) : Out :=
  match nmcAt s id with
  | none => disabled
  | some q =>
    let mine := q.left.filter fun i => homeStack s q i == stack && nmReady s q i
    let s' := mine.foldl (fun s i => nmElement s id i) s
    let still := match nmcAt s' id with | some x => x.left | none => []
    let grans := nmGrans s q (mine.filter fun i => !still.contains i)
    stepWhen (stack < 12 && !mine.isEmpty && unitPaid s (stack / 3))
      (dieDraw (modNmc s' id fun q => { q with paid := grans ++ q.paid }) (stack / 3) (400 * grans.length))

/-- The log record of a failure that a stack's engine met (R374). -/
def nmLog (s : State) (q : NmcCmd) : State :=
  match q.failed with
  | some (_, _, some g) => logError s (g * 64) 5 (g * 64 / 256 % 12) (errDetail (g * 64)) q.asid
  | _ => s

/-- NMC_COMPLETE (R373, R374). -/
def execNmcComplete (id : Nat) (s : State) : Out :=
  match nmcAt s id with
  | none => disabled
  | some q =>
    let fail := q.failed.map fun (c, a, _) => (c, a)
    let s := nmLog { s with nmcs := s.nmcs.filter fun x => x.id != id } q
    stepWhen q.left.isEmpty (endOp s q.who.core q.txn q.train q.asid q.id q.obj fail [])

end Sys2Proof.Machine
end

