-- ==== Sys2Proof/Machine/WorkLists.lean ====
section
/-! DEFINITION. Work lists (R356-R361): WLPUSH, WLPOP, QUIESCE and the termination detector. -/
namespace Sys2Proof.Machine

/-- A bound list (R356). -/
def listAt (s : State) (id : Nat) : Option WorkList := s.lists.find? fun l => l.id == id
/-- Change of a list. -/
def modList (s : State) (id : Nat) (f : WorkList → WorkList) : State :=
  { s with lists := s.lists.map fun l => if l.id == id then f l else l }
/-- Whether a list is bound to an ASID. -/
def listOk (s : State) (asid id : Nat) : Bool := match listAt s id with | some l => l.asid == asid | none => false
/-- Whether a list has room (R358). -/
def listRoom (l : WorkList) : Bool := l.tail - l.head < 2 ^ l.k

/-- An item is appended to a list: whether there was room, and the state (R358). -/
def appendItem (s : State) (id : Nat) (item : DWord) : Bool × State :=
  match listAt s id with
  | none => (false, s)
  | some l =>
    if listRoom l then
      let s := homeWrite s l.asid (l.ring + 8 * (l.tail % 2 ^ l.k)) (leBytes 8 item.toNat)
      (true, modList s id fun l => { l with tail := l.tail + 1 })
    else (false, s)

/-- The oldest item of a list is taken (R359). -/
def takeItem (s : State) (id : Nat) : Option (DWord × State) :=
  match listAt s id with
  | none => none
  | some l =>
    if l.tail == l.head then none
    else some (BitVec.ofNat 64 (memLe s.mem (l.ring + 8 * (l.head % 2 ^ l.k)) 8),
      modList s id fun l => { l with head := l.head + 1 })

/-- The holds of an ASID's lanes, resident or saved (R359, R360). -/
def holdsOf (s : State) (asid : Nat) : Nat :=
  (s.cores.foldl (fun n k => k.slots.foldl (fun n o => match o with
    | some t => if t.asid == asid then n + (t.lanes.filter fun l => l.hold.isSome).length else n
    | none => n) n) 0) +
  (s.saved.foldl (fun n c => if c.crew.asid == asid then n + ((c.trains.flatMap (·.lanes)).filter fun l => l.hold.isSome).length else n) 0)

/-- Whether an ASID is quiescent (R360): no item on its lists, no hold, and no notify accepted and not yet appended. -/
def quiescent (s : State) (asid : Nat) : Bool :=
  (s.lists.all fun l => l.asid != asid || l.tail == l.head) && holdsOf s asid == 0 &&
  !(s.notifies.any fun n => n.ok && n.asid == asid)

/-- The list that a lane names (R357). -/
def Ctx.listId (c : Ctx) (l : Nat) : Nat :=
  if c.f.x.toNat.testBit 0 then c.s c.f.a false else c.v l (c.lane l) c.f.a false

/-- The trap of lanes whose list is not bound to the path's ASID: the lowest lane's list as TRAPADDR (R358). -/
def listTrap (s : State) (c : Ctx) : Option (LaneSet × DWord) :=
  let bad := c.act.toList.filter fun l => !listOk s c.t.asid (c.listId l)
  match bad with
  | [] => none
  | l :: _ => some (bad.foldl (fun m l => m ||| LaneSet.single l) 0, BitVec.ofNat 64 (c.listId l))

/-- The check and waits of a WLPUSH (R358). -/
def wlpushEntry (s : State) (c : Ctx) : Entry :=
  (match listTrap s c with
   | some (lanes, ea) => Entry.trap 0x07 lanes ea
   | none => Entry.ok).andThen (fenceEntry s c)

/-- WLPUSH (R358). -/
def execWlpush (f : Fields) (s : State) : Out :=
  issue (.wlpush f) wlpushEntry (fun c s =>
    let (ok, s) := c.act.toList.foldl (fun (acc : LaneSet × State) l =>
      let (b, s) := appendItem acc.2 (c.listId l) (BitVec.ofNat 64 (c.v l (c.lane l) c.f.b true))
      (if b then acc.1 ||| LaneSet.single l else acc.1, s)) ((0 : LaneSet), s)
    c.writeP s fun l _ => ok.has l) s

/-- The holds of lanes end (R359). -/
def releaseHolds (s : State) (core slot : Nat) (m : LaneSet) : State :=
  modTrain s core slot fun t => { t with lanes := mapLanes t.lanes m fun _ ln => { ln with hold := none } }

/-- One pass of a WLPOP over its lanes: whether some lane took an item, and the state (R359). -/
def popPass (s : State) (r : PathRef) (depth dst flag : Nat) (lists : List (Nat × Nat)) : Bool × State :=
  lists.foldl (fun (acc : Bool × State) (l, id) =>
    let put (s : State) (g : Lane → Lane) : State :=
      modTrain s r.core r.slot fun t => { t with lanes := updAt t.lanes l g }
    match takeItem acc.2 id with
    | some (x, s) => (true, put s fun ln => { setPred (wrV depth ln dst true x.toNat) flag true with hold := some id })
    | none => (acc.1, put acc.2 fun ln => setPred ln flag false)) (false, s)

/-- The predicate that a WLPOP writes (R357). -/
def Ctx.popFlag (c : Ctx) : Nat := subOf c.f

/-- WLPOP (R359). -/
def execWlpop (f : Fields) (s : State) : Out :=
  issue (.wlpop f) noEntry (fun c s =>
    let s := releaseHolds s c.r.core c.r.slot c.p.mask
    match listTrap s c with
    | some (lanes, ea) => issuedTrap c s 0x07 lanes ea
    | none =>
      let lists := c.act.toList.map fun l => (l, c.listId l)
      let (took, s) := popPass s c.r c.depth c.f.d.toNat c.popFlag lists
      if !c.f.x.toNat.testBit 1 || took || quiescent s c.t.asid then s
      else parkPath s c.r 0x15 (.wlpop lists c.f.d.toNat c.popFlag)) s

/-- WLPOP_DONE (R359). -/
def execWlpopDone (f : Fields) (s : State) : Out :=
  issue (.wlpopDone f) noEntry (fun c s => releaseHolds s c.r.core c.r.slot c.p.mask) s

/-- QUIESCE (R361). -/
def execQuiesce (f : Fields) (s : State) : Out :=
  issue (.quiesce f) noEntry (fun c s =>
    let s := releaseHolds s c.r.core c.r.slot c.p.mask
    if quiescent s c.t.asid then writeS s c.r c.f.d.toNat false 1
    else parkPath s c.r 0x15 (.quiesce c.f.d.toNat)) s

/-- QUIESCE_TEST (R361). -/
def execQuiesceTest (f : Fields) (s : State) : Out :=
  issue (.quiesceTest f) noEntry (fun c s =>
    let s := releaseHolds s c.r.core c.r.slot c.p.mask
    writeS s c.r c.f.d.toNat false (if quiescent s c.t.asid then 1 else 0)) s

/-- A path parked in WLPOP or QUIESCE looks again (R359, R361); quiescence is noted while it is Frozen (R41). -/
def recheckList (s : State) (r : PathRef) : State :=
  match pathAt s r, trainAt s r.core r.slot with
  | some p, some t =>
    let quiet := quiescent s t.asid || p.woken
    if heldPath p then (if quiet then modPath s r fun p => { p with woken := true } else s)
    else
      match p.wake with
      | some (.wlpop lists dst flag) =>
        let (took, s) := popPass s r (depthOf p) dst flag lists
        if took || quiet then modPath s r (wakePath s.point) else s
      | some (.quiesce dst) =>
        if quiet then writeS (modPath s r (wakePath s.point)) r dst false 1 else s
      | _ => s
  | _, _ => s

end Sys2Proof.Machine
end

