-- ==== Sys2Proof/Machine/Fabric.lean ====
section
/-! DEFINITION. Notify stores (R412-R415), multicasts (R416-R418), SHSYNC (R424, R425), TOKQ and CURQ (R210). -/
namespace Sys2Proof.Machine

/-! ## STN -/

/-- The access size of an STN (R412). -/
def Ctx.stnSize (c : Ctx) : Nat := 2 ^ (subOf c.f / 8 % 8)

/-- The address of an STN lane: base and index without a displacement (R412). -/
def Ctx.stnEa (c : Ctx) (l : Nat) (ln : Lane) : DWord :=
  let scale : DWord := if (subOf c.f).testBit 1 then BitVec.ofNat 64 c.stnSize else 1
  c.base l ln + c.index l ln * scale

/-- The literal of an STN: list and tag. -/
def Ctx.stnLit (c : Ctx) : Nat := match c.f.ext with | .w _ lit => lit.toNat | _ => 0

/-- The lanes of an STN: a leaf of this package is an access violation (R413). -/
def stnLanes (s : State) (c : Ctx) : List LaneAcc :=
  (memLanes s c .write c.stnSize c.stnEa).map fun x =>
    { x with out := match x.out with | .ok _ => .trap 0x07 | o => o }

/-- The bytes of one line of a notify write. -/
structure NotifyLine where
  peer : Nat
  line : Nat
  mask : BitVec 256
  data : List Byte

/-- The lanes' bytes merged by peer and line, in ascending lane order (R407, R413). -/
def notifyLines (c : Ctx) (l : List LaneAcc) : List NotifyLine :=
  l.foldl (fun acc x =>
    match x.out with
    | .peer id pa _ =>
      let bs := c.dBytes c.stnSize x.lane
      let add (n : NotifyLine) : NotifyLine :=
        { n with mask := n.mask ||| lineMask (pa % 256) bs.length, data := mergeBytes n.data (pa % 256) bs }
      if acc.any fun n => n.peer == id && n.line == pa / 256 then
        acc.map fun n => if n.peer == id && n.line == pa / 256 then add n else n
      else acc ++ [add ⟨id, pa / 256, 0, List.replicate 256 0⟩]
    | _ => acc) []

/-- The packets towards one target leave in the order of their lines, the last one marked; the target answers them with one
acknowledgement (R413, R461). -/
def sendNotify (c : Ctx) (s : State) (lines : List NotifyLine) (peer : Nat) : State :=
  let mine := sortBy (fun a b => a.line ≤ b.line) (lines.filter fun n => n.peer == peer)
  let list := c.stnLit % 4096
  let tag := c.stnLit / 2 ^ 16
  let (wid, s) := fresh s
  let low := match mine with | n :: _ => n.line | [] => 0
  let port := routePort s peer
  let s := { s with outWrites := s.outWrites ++ [⟨wid, peer, low, port, 0, c.r.core, c.t.uid, 0, [c.p.uid], [c.p.uid], none⟩] }
  if routeLost s peer then queueStep s (.writeAcknowledgement wid .lost)
  else
    (mine.zipIdx).foldl (fun s (n, i) => sendPacket s port (1 + sectorsOf n.mask)
      (.notify peer port wid wid n.line n.mask n.data list tag (i + 1 == mine.length))) s

/-- The checks and waits of STN. -/
def stnEntry (s : State) (c : Ctx) : Entry := (orderEntry s c).andThen <| (readsEntry s c).andThen (wcEntry s c)

/-- STN (R413). -/
def execStn (f : Fields) (s : State) : Out :=
  issue (.stn f) stnEntry (fun c s =>
    let l := stnLanes s c
    let s := walkEffects s c.r.core c.t.asid l
    match trapOf l with
    | some (k, lanes, ea) => issuedTrap c s k lanes ea
    | none =>
      let lines := notifyLines c (doneOf true l)
      let unf := unfinished true l
      let s := (uniq (lines.map (·.peer))).foldl (fun s peer => sendNotify c s lines peer) s
      if unf.isEmpty then s else parkForPages s c.r c.p.pc (lanesOf unf) (parkedPages unf) 1) s

/-! ## MCST -/

/-- Whether the port towards a group's root depot has failed with no other left (R398, R434). -/
def groupCut (s : State) (g : Nat) : Bool := (nth ⟨false, 0, false⟩ s.ports (groupPort s g)).failed

/-- The result block of an MCST or a COLL. -/
def Ctx.block (c : Ctx) : DWord := BitVec.ofNat 64 (c.s c.f.d true)
/-- The source line of an MCST. -/
def Ctx.mcSrc (c : Ctx) : DWord := BitVec.ofNat 64 (c.s c.f.a true)

/-- The check of a result block (R417, R428). -/
def blockEntry (i : Instr) (s : State) (c : Ctx) : Entry :=
  (r94 c i 0x05 (c.block.toNat % 64 != 0)).andThen (objEntry s c (some c.block))

/-- Change of a multicast. -/
def modMcst (s : State) (id : Nat) (f : McstOp → McstOp) : State :=
  { s with mcsts := s.mcsts.map fun o => if o.id == id then f o else o }

/-- A write by the device at a virtual address, in blocks of 32 bytes; what a block's page does not let it write is
dropped (R418, R432). -/
def deviceWrite (s : State) (core asid : Nat) (va : DWord) (bs : List Byte) : State :=
  (List.range ((bs.length + 31) / 32)).foldl (fun s i =>
    let a := va + BitVec.ofNat 64 (32 * i)
    let s := walkEffect s core asid a
    match checkLane s core asid false .write 32 a with
    | .ok k => homeWrite s asid k ((bs.drop (32 * i)).take 32)
    | _ => s) s

/-- The end of a multicast (R418). -/
def endMcst (s : State) (o : McstOp) (fail : Option (Nat × DWord)) : State :=
  signalObj { s with mcsts := s.mcsts.filter fun x => x.id != o.id } o.asid o.obj fail []

/-- A multicast whose source line fails as a copy's would (R274, R275). -/
def failMcst (s : State) (o : McstOp) (cause : Nat) : State :=
  endMcst (recordFail s o.train cause o.src) o (some (cause, o.src))

/-- The line of a multicast leaves for the root depot (R417); towards a group with no path left, it ends as though every
member were lost (R398). -/
def sendMcst (s : State) (o : McstOp) (data : List Byte) : State :=
  if groupCut s o.group then endMcst s o (some (0x14, BitVec.ofNat 64 o.group))
  else
    let port := groupPort s o.group
    sendPacket (modMcst s o.id fun o => { o with sent := true, port := port }) port 5
      (.multicast o.group port o.id o.off data)

/-- A multicast reads its source line, where the accesses it waits for have performed (R274, R417). -/
def moveMcst (s : State) (o : McstOp) : State :=
  if o.sent || o.atPage || !accessesDone s o.who.core o.after then s
  else
    let out := checkLane s o.who.core o.asid false .read 256 o.src
    let s := walkEffect s o.who.core o.asid o.src
    match out with
    | .ok k =>
      let (bad, s) := demandRead (settleBytes s k 256) none o.asid k 256
      (match bad with
       | some cause => failMcst s o cause
       | none => sendMcst s o (memBytes s.mem k 256))
    | .zero | .idle => sendMcst s o (List.replicate 256 0)
    | .peer _ _ _ => failMcst s o 0x07
    | .trap cause => failMcst s o cause
    | .park lvl =>
      let tid := match anyTrain s o.train with | some t => t.trainId | none => 0
      faultRecord (modMcst s o.id fun o => { o with atPage := true }) o.asid o.src 0 lvl tid
        (if o.who.handler then 0 else o.who.entry)

/-- The checks of an MCST's result block, which it makes once issued, as R224 makes its own (R417). -/
def mcstBlock (s : State) (c : Ctx) : Entry :=
  if c.block.toNat % 64 != 0 then .trap 0x05 c.issueLanes c.block else objEntry s c (some c.block)

/-- MCST (R416, R417). -/
def execMcst (f : Fields) (s : State) : Out :=
  issue (.mcst f) orderEntry (fun c s =>
    let g := c.s c.f.b false
    let out := checkLane s c.r.core c.t.asid c.priv .read 256 c.mcSrc
    let s := walkEffects s c.r.core c.t.asid [⟨0, c.mcSrc, out⟩]
    let blk := mcstBlock s c
    match out, blk with
    | .trap k, _ => issuedTrap c s k c.issueLanes c.mcSrc
    | .peer _ _ _, _ => issuedTrap c s 0x07 c.issueLanes c.mcSrc
    | _, .trap k lanes ea => issuedTrap c s k lanes ea
    | out, blk =>
      if g ≥ 4096 || !groupRouted s g then issuedTrap c s 0x07 c.issueLanes (BitVec.ofNat 64 g)
      else
        match out, blk with
        | .park lvl, _ => parkForPages s c.r c.p.pc c.act [(c.mcSrc, lvl)] 0
        | _, .park pages kind _ => parkForPages s c.r c.p.pc c.act pages kind
        | _, _ =>
          let (key, s) := objKey s c (some c.block)
          let (id, s) := fresh s
          let o : McstOp := {
            id := id, train := c.t.uid, who := c.r, crew := c.t.crew, asid := c.t.asid, group := g, src := c.mcSrc,
            off := c.s (ext0Of c.f).c false, block := c.block, obj := key, port := 0, after := pendingAccesses s c,
            sent := false, atPage := false }
          moveMcst { s with mcsts := s.mcsts ++ [o] } o) s

/-- The 2-bit codes of members as a number. -/
def codesNat (codes : List (BitVec 2)) : Nat :=
  match codes with
  | [] => 0
  | x :: r => x.toNat + 4 * codesNat r

/-- ECAUSE for a member's code (R418). -/
def codeCause (x : BitVec 2) : Nat := if x == 1 then 0x07 else if x == 2 then 0x14 else 0x0B

/-- The failure of a multicast: the lowest negative member's (R418). -/
def mcstFail (group : Nat) (codes : List (BitVec 2)) : Option (Nat × DWord) :=
  ((codes.zipIdx).find? fun x => x.1 != 0).map fun (x, m) => (codeCause x, BitVec.ofNat 64 (group + m * 4096))

/-- MULTICAST_ACK_RECEIVE (R418). -/
def execMulticastAckReceive (id : Nat) (codes : List (BitVec 2)) (s : State) : Out :=
  match s.mcsts.find? fun o => o.id == id with
  | none => disabled
  | some o =>
    let m := codes.length
    let blocks := (m + 127) / 128
    let s := dieDraw s (o.port / 4) (1000 * (1 + (m + 255) / 256))
    let s := deviceWrite s o.who.core o.asid (o.block + 64) (leBytes (32 * blocks) (codesNat codes))
    let s := deviceWrite s o.who.core o.asid (o.block + 32) (leBytes 4 m)
    stepWhen (unitPaid s (o.port / 4) && o.sent && 1 ≤ m && m ≤ 4096) (endMcst s o (mcstFail o.group codes))

/-! ## SHSYNC -/

/-- Whether one shard version stands before another, modulo 2^32 (R425). -/
def verBefore (v w : Word) : Bool := v != w && !(w - v).getLsbD 31

/-- Whether a binding is of an ASID and older than a version. -/
def oldBind (asid : Nat) (v : Word) (b : Nat × Word) : Bool := b.1 == asid && verBefore b.2 v

/-- Whether an LDT or STT lane of an ASID bound before a version has not performed (R425). -/
def shardBusy (s : State) (asid : Nat) (v : Word) : Bool :=
  (s.cores.any fun k =>
    (k.txns.any fun x => !x.perf && (match x.shver with | some b => oldBind asid v b | none => false)) ||
    k.wc.any fun e => e.shver.any (oldBind asid v)) ||
  s.outWrites.any fun w => match w.shver with | some b => oldBind asid v b | none => false

/-- The write-combining entries that hold such lanes' bytes drain (R407, R425). -/
def drainShards (s : State) (asid : Nat) (v : Word) : State :=
  (List.range s.cores.length).foldl (fun s n =>
    if (coreAt s n).wc.isEmpty then s else wcDrain s n fun e => e.shver.any (oldBind asid v)) s

/-- SHSYNC_WAIT (R425). -/
def execShsyncWait (f : Fields) (s : State) : Out :=
  issue (.shsyncWait f) noEntry (fun c s =>
    let v := shardVerOf s c.t.asid
    let s := drainShards s c.t.asid v
    if shardBusy s c.t.asid v then parkPath s c.r 0x05 (.shsync v c.f.d.toNat)
    else writeS s c.r c.f.d.toNat false v.toNat) s

/-- A path parked in SHSYNC.WAIT looks again (R425). -/
def recheckShsync (s : State) (r : PathRef) : State :=
  match pathAt s r, trainAt s r.core r.slot with
  | some p, some t =>
    if heldPath p then s
    else
      match p.wake with
      | some (.shsync v dst) =>
        if shardBusy s t.asid v then s else writeS (modPath s r (wakePath s.point)) r dst false v.toNat
      | _ => s
  | _, _ => s

/-- The checks and waits of a SHSYNC.PUB (R425, R466). -/
def shsyncPubEntry (s : State) (c : Ctx) : Entry :=
  (if c.s c.f.a true % 4096 != 0 then Entry.trap 0x05 c.p.mask (BitVec.ofNat 64 (c.s c.f.a true)) else Entry.ok).andThen <|
  (if c.s c.f.b false > 4096 then Entry.trap 0x07 c.p.mask (BitVec.ofNat 64 (c.s c.f.b false)) else Entry.ok).andThen
    (fenceEntry s c)

/-- The shard version of an ASID is set. -/
def setShardVer (s : State) (asid : Nat) (v : Word) : State :=
  { s with shardVer := (asid, v) :: s.shardVer.filter fun x => x.1 != asid }

/-- SHSYNC_PUB (R425). -/
def execShsyncPub (f : Fields) (s : State) : Out :=
  issue (.shsyncPub f) shsyncPubEntry (fun c s =>
    let v := shardVerOf s c.t.asid + 1
    let k := shardDir c.t.asid
    let s := homeWriteAs .relaxed s c.t.asid k (leBytes 8 (c.s c.f.a true) ++ leBytes 2 (c.s c.f.b false))
    writeS (setShardVer s c.t.asid v) c.r c.f.d.toNat false v.toNat) s

/-! ## TOKQ and CURQ -/

/-- TOKQ_BAL (R210). -/
def execTokqBal (f : Fields) (s : State) : Out :=
  issue (.tokqBal f) noEntry (fun c s => writeS s c.r c.f.d.toNat false (tokBal s c.r.core)) s
/-- TOKQ_RATE (R210). -/
def execTokqRate (f : Fields) (s : State) : Out :=
  issue (.tokqRate f) noEntry (fun c s => writeS s c.r c.f.d.toNat false (coreAt s c.r.core).allot) s
/-- TOKQ_CHG (R210): the count includes the instruction's own charge. -/
def execTokqChg (f : Fields) (s : State) : Out :=
  issue (.tokqChg f) noEntry (fun c s =>
    writeS s c.r c.f.d.toNat true (tokChg s c.r)) s

/-- The core's token reservation as TOKQ.RSV writes it (R210). -/
def rsvWord (k : Core) : Nat :=
  match k.resv with
  | some v => v.amount % 2 ^ 21 + v.entry % 8 * 2 ^ 21 + v.slot % 16 * 2 ^ 24 + 2 ^ 31
  | none => 0

/-- TOKQ_RSV (R210). -/
def execTokqRsv (f : Fields) (s : State) : Out :=
  issue (.tokqRsv f) noEntry (fun c s => writeS s c.r c.f.d.toNat false (rsvWord (coreAt s c.r.core))) s

/-- The matrix and copy grants that a core's operations hold (R210, R316). -/
def grantsOf (s : State) (core : Nat) : Nat :=
  let k := clusterAt s (clusterOf core)
  ((k.pairs.flatMap (·.queue)).filter fun o => o.granted && o.who.core == core).length +
  (k.copies.filter fun o => o.granted && o.who.core == core).length

/-- The power state of a core as CURQ writes it (R210). -/
def curqWord (s : State) (core : Nat) : Nat :=
  let k := coreAt s core
  k.band % 4 + (if k.raising then 4 else 0) + min (grantsOf s core) 255 * 2 ^ 8 + min k.renewIn 511 * 2 ^ 16

/-- CURQ (R210). -/
def execCurq (f : Fields) (s : State) : Out :=
  issue (.curq f) noEntry (fun c s => writeS s c.r c.f.d.toNat false (curqWord s c.r.core)) s

end Sys2Proof.Machine
end

