-- ==== Sys2Proof/Machine/Depot.lean ====
section
/-! DEFINITION. What the root depot makes of the contributions of a COLL (R426, R430, R431, R433): its checks, the fixed tree,
and the part of the result that one member receives. -/
namespace Sys2Proof.Machine

/-- The fixed tree Comb(b, n) of the ranks that contribute (R431); the first argument bounds its depth. -/
def combTree (node : Nat → Nat → Nat) (leaf : Nat → Option Nat) : Nat → Nat → Nat → Option Nat
  | 0, _, _ => none
  | k + 1, b, n =>
    if n ≤ 1 then leaf b
    else
      let p := 2 ^ Nat.log2 (n - 1)
      match combTree node leaf k b p, combTree node leaf k (b + p) (n - p) with
      | some x, some y => some (node x y)
      | some x, none => some x
      | none, y => y

/-- The type in which the nodes of a sum work (R431). -/
def nodeTy (t : ETy) : ETy := if t == .fp16 || t == .bf16 then .fp32 else t

/-- Whether a type that a reduction accepts is a floating one (R429). -/
def depotFloat (t : ETy) : Bool := floatTypes.contains t

/-- A node of the tree (R431): RED 1 is MIN, 2 is MAX, and 0 and 3 sum. -/
def depotNode (red : Nat) (t : ETy) (x y : Nat) : Nat :=
  let w := tyBits t
  let sg := tySigned t
  if red == 1 || red == 2 then
    if depotFloat t then (fMinMax (red == 2) t FEnv.nearest x y).1
    else if red == 1 then (if asView sg w y < asView sg w x then y else x)
    else (if asView sg w y > asView sg w x then y else x)
  else if depotFloat t then (fAddSub false (nodeTy t) FEnv.nearest 0 x y).1
  else (x + y) % 2 ^ w

/-- A contribution's element as the tree takes it (R431). -/
def depotLeaf (red : Nat) (t : ETy) (x : Nat) : Nat :=
  if (red == 0 || red == 3) && nodeTy t != t then (convert t .fp32 FEnv.nearest 0 0 false x).1 else x

/-- A finite value times a whole number. -/
def FVal.times (n : Nat) : FVal → FVal
  | .fin neg m e => .fin neg (m * n) e
  | v => v

/-- The result of a tree (R431): AVG divides by the live ranks, and a floating sum under POLICY REWEIGHT is scaled to all
members, each rounded once. -/
def depotFinal (red : Nat) (t : ETy) (m nlive policy x : Nat) : Nat :=
  let scaled : Bool := red == 0 && depotFloat t && policy == 1 && nlive < m
  if red == 3 || scaled then
    (fDiv t FEnv.nearest 0 ((decF (nodeTy t) x).times (if scaled then m else 1)) (.fin false nlive 0)).1
  else if red == 0 && nodeTy t != t then (convert .fp32 t FEnv.nearest 0 0 false x).1
  else x

/-- Element `i` of a contribution. -/
def sendElem (t : ETy) (x : CollSend) (i : Nat) : Nat := let w := tyBits t / 8; leAt x.data (i * w) w

/-- Element `i` of a reduction over the contributions of the live ranks (R431). -/
def reduceElem (t : ETy) (red policy nlive : Nat) (sends : List (Option CollSend)) (i : Nat) : Nat :=
  let leaf (r : Nat) : Option Nat := (nth none sends r).map fun x => depotLeaf red t (sendElem t x i)
  match combTree (depotNode red t) leaf (sends.length + 1) 0 sends.length with
  | some x => depotFinal red t sends.length nlive policy x
  | none => 0

/-- The parameters by which the depot matches the contributions of one SEQ (R433). -/
def collParams (x : CollSend) : Nat × Nat × Nat × Nat × Nat := (x.kind, x.red, x.ty, x.count, x.root)

/-- The lowest rank of contributions that have a property. -/
def lowestWith (sends : List (Option CollSend)) (p : CollSend → Bool) : Option Nat :=
  (List.range sends.length).find? fun r => match nth none sends r with | some x => p x | none => false

/-- The rank for which contributions fail at every member with cause 0x07 (R426, R430, R433): the lowest whose M differs from
the size of the depot group, or the lowest whose parameters differ from those of the lowest rank. DEDUCED. -/
def depotRefuses (size : Nat) (sends : List (Option CollSend)) : Option Nat :=
  match lowestWith sends fun x => x.m != size with
  | some r => some r
  | none =>
    match sends.findSome? fun x => x with
    | none => none
    | some a => lowestWith sends fun x => collParams x != collParams a

/-- Whether an element of a result depends on a contribution that has no value for it (R430): `bad r k` tells so of element
`k` of rank `r`'s. -/
def elemBad (sends : List (Option CollSend)) (bad : Nat → Nat → Bool) (k : Nat) : Bool :=
  (List.range sends.length).any fun r => (nth none sends r).isSome && bad r k

/-- The bytes that member `rank` receives, with their offsets in RECV (R428, R431): an all-gather has none for a rank that is
not live, and bytes that depend on a contribution without a value are free. -/
def depotParts (t : ETy) (kind red policy count root rank nlive : Nat) (sends : List (Option CollSend))
    (bad : Nat → Nat → Bool) (s : State) : List (Nat × List Byte) × State :=
  let w := tyBits t
  let n := count * w / 8
  let copied (r off : Nat) (x : CollSend) (acc : List (Nat × List Byte) × State) : List (Nat × List Byte) × State :=
    let (fs, s) := freeBytes acc.2 n
    (acc.1 ++ [(off, (List.range n).map fun i =>
      if bad r (i * 8 / w) || bad r ((i * 8 + 7) / w) then nth 0 fs i else nth 0 x.data i)], s)
  match kind with
  | 0 | 1 =>
    let base := if kind == 1 then rank * count else 0
    let (fs, s) := freeBytes s n
    ([(0, (List.range count).flatMap fun i =>
      if elemBad sends bad (base + i) then (fs.drop (i * (w / 8))).take (w / 8)
      else leBytes (w / 8) (reduceElem t red policy nlive sends (base + i)))], s)
  | 2 => (List.range sends.length).foldl (fun acc r => match nth none sends r with
      | some x => copied r (r * n) x acc
      | none => acc) ([], s)
  | 3 => match nth none sends root with
      | some x => copied root 0 x ([], s)
      | none => ([], s)
  | _ => ([], s)

end Sys2Proof.Machine
end

