-- ==== Sys2Proof/Machine/Groups.lean ====
section
/-! DEFINITION. Collective groups and their operations (R426-R445): COLL, FBAR, VIEWQ, VJOIN, INTENT, and the steps by which
group entries, contributions, views and releases come about. -/
namespace Sys2Proof.Machine

/-! ## Group entries -/

/-- The key of a group's entry in the control window (R426). -/
def groupKey (g : Nat) : Nat := ctlBase + 0xF10000 + 64 * g

/-- A field of a group's entry. -/
def groupField (s : State) (g off n : Nat) : Nat := memLe s.mem (groupKey g + off) n

/-- Whether a group's entry is valid (R426). -/
def entryValid (s : State) (g : Nat) : Bool :=
  let f := groupField s g
  (f 9 1).testBit 0 && f 9 1 < 4 && 1 ≤ f 0 2 && f 0 2 ≤ 4096 && f 2 2 < f 0 2 && f 4 2 < 1024 && f 6 2 < 4096 &&
  f 8 1 ≤ 2 && 1 ≤ f 12 2 && f 14 1 ≤ 20 && (memBytes s.mem (groupKey g + 15) 49).all (· == 0)

/-- A group by its number; none where its entry is not valid. -/
def groupAt (s : State) (g : Nat) : Option Group := s.groups.find? fun x => x.id == g
/-- Change of a group. -/
def modGroup (s : State) (g : Nat) (f : Group → Group) : State :=
  { s with groups := s.groups.map fun x => if x.id == g then f x else x }

/-- Whether this package is inside a group's view. -/
def Group.inside (g : Group) : Bool := g.view == .stable || g.view == .changing

/-- Whether a rank is live. -/
def Group.alive (g : Group) (r : Nat) : Bool := nth false g.live r
/-- The number of live ranks (R427). -/
def Group.nlive (g : Group) : Nat := (g.live.filter fun b => b).length
/-- The lowest rank of a mask (R427). -/
def lowestRank (m : List Bool) : Nat := m.findIdx fun b => b

/-- Whether an entry may take effect: the group has no COLL, FBAR phase or agreement in progress here (R426). -/
def Group.idle (g : Group) : Bool :=
  g.colls.isEmpty && g.arrivals == 0 && g.arrPhase == g.phase && g.held == 0 && g.view != .changing && g.ackedAt.isNone &&
  g.joiner.isNone

/-- A group that its entry brings up (R427, R440). -/
def newGroup (s : State) (g : Nat) : Group :=
  let f := groupField s g
  let join := (f 9 1).testBit 1
  { id := g, m := f 0 2, rank := f 2 2, asid := f 4 2, dgrp := f 6 2, policy := f 8 1, fbexp := f 12 2, spread := f 14 1,
    view := if join then .joining else .stable, tag := if join then 0 else f 10 2,
    live := List.replicate (f 0 2) (!join), seq := 0, colls := [], arrivals := 0, held := 0, arrPhase := 0, phase := 0, gone := [],
    proposed := f 10 2, propMask := [], leader := 0, acks := [], lost := [], ackedAt := none, joiner := none }

/-- A bound group whose entry has been written again with V = 1: its view stays (R440). -/
def reEntry (s : State) (g : Nat) (x : Group) : Group :=
  let n := newGroup s g
  { x with m := n.m, rank := n.rank, asid := n.asid, dgrp := n.dgrp, policy := n.policy, fbexp := n.fbexp,
           spread := n.spread, live := if n.m == x.m then x.live else n.live }

/-- A group follows its entry (R440). -/
def followEntry (s : State) (g : Nat) : State :=
  if entryValid s g then
    match groupAt s g with
    | some _ => modGroup s g (reEntry s g)
    | none => { s with groups := s.groups ++ [newGroup s g] }
  else { s with groups := s.groups.filter fun x => x.id != g }

/-- GROUP_ENTRY_APPLY (R426): the oldest waiting write of the entry takes effect. -/
def execGroupEntryApply (group : Nat) (s : State) : Out :=
  match s.applying.find? fun x => x.1 == group with
  | none => disabled
  | some (_, off, bs) =>
    let free := match groupAt s group with | some g => g.idle | none => true
    stepWhen free
      (followEntry (homeWrite { s with applying := s.applying.erase (group, off, bs) } fabricAsid (groupKey group + off) bs)
        group)

/-! ## Checks -/

/-- The group operand (R428, R438). -/
def Ctx.groupWord (c : Ctx) : Nat := c.s c.f.b false

/-- Whether a group word names a valid group of the path's ASID. -/
def ownGroup (s : State) (c : Ctx) (w : Nat) : Option Group :=
  if w ≥ 4096 then none else (groupAt s w).filter fun g => g.asid == c.t.asid

/-! ## COLL -/

/-- The words of a COLL's descriptor (R428). -/
def Ctx.collWord (c : Ctx) (i : Nat) : Nat := (rdS c.t c.p ((ext0Of c.f).c.toNat + i)).toNat
/-- KIND (R428). -/
def Ctx.collKind (c : Ctx) : Nat := subOf c.f % 8
/-- RED. -/
def Ctx.collRed (c : Ctx) : Nat := subOf c.f / 8
/-- The send buffer. -/
def Ctx.collSend (c : Ctx) : Nat := c.s c.f.a true
/-- The receive buffer. -/
def Ctx.collRecv (c : Ctx) : Nat := c.collWord 0 + 2 ^ 32 * c.collWord 1
/-- COUNT. -/
def Ctx.collCount (c : Ctx) : Nat := c.collWord 2
/-- ROOT. -/
def Ctx.collRoot (c : Ctx) : Nat := c.collWord 3

/-- The bits that a member sends, for M members (R428). -/
def sendBits (kind bits count m : Nat) : Nat := if kind == 4 then 0 else if kind == 1 then m * count * bits else count * bits
/-- The bits that a member receives. -/
def recvBits (kind bits count m : Nat) : Nat := if kind == 4 then 0 else if kind == 2 then m * count * bits else count * bits

/-- The checks of R429 on the buffers. -/
def bufferEntry (i : Instr) (c : Ctx) (m : Nat) : Entry :=
  let w := tyBits c.ty
  let al := max 4 (w / 8)
  r94 c i 0x05 (c.collSend % al != 0 || c.collRecv % al != 0 || sendBits c.collKind w c.collCount m % 32 != 0 ||
    recvBits c.collKind w c.collCount m % 32 != 0)

/-- The checks and waits of a COLL (R428, R429). -/
def collEntry (i : Instr) (s : State) (c : Ctx) : Entry :=
  let g := ownGroup s c c.groupWord
  let m := match g with | some g => g.m | none => 1
  let bar := c.collKind == 4
  (if bar then Entry.ok else bufferEntry i c m).andThen <|
  (r94 c i 0x07 (match g with | some g => !g.inside | none => true)).andThen <|
  (if bar then Entry.ok
   else r94 c i 0x07 (c.collCount == 0 || c.collCount > 2 ^ 24 ||
     (if c.collKind == 3 then c.collRoot ≥ m else c.collRoot != 0))).andThen <|
  (blockEntry i s c).andThen <|
  (waitIf (match g with | some g => g.colls.length ≥ 16 | none => false) 0x06).andThen (engineEntry s c)

/-- Change of a COLL of a group. -/
def modColl (s : State) (g id : Nat) (f : CollOp → CollOp) : State :=
  modGroup s g fun x => { x with colls := x.colls.map fun o => if o.id == id then f o else o }

/-- The fault record of a buffer page of a COLL that is not present (R275, R430). -/
def collPark (s : State) (g : Nat) (o : CollOp) (va : DWord) (kind lvl : Nat) : State :=
  let tid := match anyTrain s o.train with | some t => t.trainId | none => 0
  faultRecord (modColl s g o.id fun o => { o with atPage := true }) o.asid va kind lvl tid
    (if o.who.handler then 0 else o.who.entry)

/-- What reading a buffer gives. -/
inductive BufRead where
  | bytes (bs : List Byte)
  | park (va : DWord) (lvl : Nat)
  | fail (cause : Nat) (va : DWord)

/-- A buffer read as a copy reads (R275, R430), byte by byte from its start; a peer window fails it. -/
def readBuf (s : State) (o : CollOp) (va : DWord) (n : Nat) : BufRead × State :=
  (List.range n).foldl (fun (acc : BufRead × State) i =>
    match acc.1 with
    | .bytes bs =>
      let a := va + BitVec.ofNat 64 i
      let out := checkLane acc.2 o.who.core o.asid false .read 1 a
      let s := if i == 0 || a.toNat % 65536 == 0 then walkEffects acc.2 o.who.core o.asid [⟨0, a, out⟩] else acc.2
      (match out with
       | .ok k =>
         let (bad, s) := demandRead (settleBytes s k 1) none o.asid k 1
         (match bad with
          | some cause => (.fail cause a, s)
          | none => (.bytes (memRead s.mem k :: bs), s))
       | .zero | .idle => (.bytes (0 :: bs), s)
       | .park lvl => (.park a lvl, s)
       | .peer _ _ _ => (.fail 0x07 a, s)
       | .trap cause => (.fail cause a, s))
    | _ => acc) (.bytes [], s)

/-- The contribution of a COLL leaves for the root depot (R430). -/
def contribute (s : State) (g : Group) (o : CollOp) (data : List Byte) (poisoned : Bool) : State :=
  let x : CollSend := ⟨g.m, o.kind, o.red, o.ty, o.count, o.root, data, poisoned⟩
  sendGroup (modColl s g.id o.id fun o => { o with sent := true, mine := some x }) g.id data.length
    (.contribution g.id o.seq o.tag x)

/-- Whether a member's send buffer is read (R428): `.BC` at its ROOT only, `.BAR` nowhere. -/
def readsSend (g : Group) (o : CollOp) : Bool := o.kind < 3 || (o.kind == 3 && o.root == g.rank)

/-- How many bytes a COLL receives (R428). -/
def recvLen (g : Group) (o : CollOp) : Nat := recvBits o.kind (tyBits (ETy.ofCode o.ty)) o.count g.m / 8
/-- How many bytes a COLL sends here (R428). -/
def sendLen (g : Group) (o : CollOp) : Nat :=
  if readsSend g o then sendBits o.kind (tyBits (ETy.ofCode o.ty)) o.count g.m / 8 else 0

/-- The pages of a range of addresses. -/
def pagesOf (va : DWord) (n : Nat) : List DWord :=
  if n == 0 then []
  else va :: ((List.range (n / 65536 + 1)).map fun i => BitVec.ofNat 64 ((va.toNat / 65536 + 1 + i) * 65536)).filter
    fun a => (a - va).toNat < n

/-- A fault of the receive buffer, or a peer window in it, which fails a COLL before it contributes (R430). -/
def recvFault (s : State) (g : Group) (o : CollOp) : Option (Nat × DWord) :=
  (pagesOf o.recv (recvLen g o)).findSome? fun a =>
    match checkLane s o.who.core o.asid false .write 1 a with
    | .peer _ _ _ => some (0x07, a)
    | .trap cause => some (cause, a)
    | _ => none

/-- A started COLL reads its send buffer and sends its contribution (R430). -/
def sendColl (s : State) (g : Group) (o : CollOp) : State :=
  if !o.started || o.sent || o.atPage || g.view != .stable || !accessesDone s o.who.core o.after then s
  else if o.failed.isSome then contribute s g o [] true
  else
    let stop (s : State) (f : Nat × DWord) : State :=
      contribute (modColl s g.id o.id fun o => { o with failed := some f }) g o [] true
    match readBuf s o o.send (sendLen g o) with
    | (.park va lvl, s) => collPark s g.id o va 0 lvl
    | (.fail cause va, s) => stop s (cause, va)
    | (.bytes bs, s) =>
      match recvFault s g o with
      | some f => stop s f
      | none => contribute s g o bs.reverse false

/-- A COLL starts: SEQ and tag are bound (R430, R435). -/
def startColl (s : State) (g id : Nat) : State :=
  modGroup s g fun x =>
    if x.colls.any fun o => o.id == id && !o.started then
      { x with seq := (x.seq + 1) % 2 ^ 32,
               colls := x.colls.map fun o => if o.id == id then { o with started := true, seq := x.seq, tag := x.tag } else o }
    else x

/-- The COLLs of a group that may start do, in issue order (R430): not while a JOIN waits at the leader (R438). -/
def startColls (s : State) (g : Nat) : State :=
  match groupAt s g with
  | some x => if x.view == .stable && x.joiner.isNone then x.colls.foldl (fun s o => startColl s g o.id) s else s
  | none => s

/-- What stops a receive: the first byte of a part that cannot be written. -/
def recvStop (s : State) (o : CollOp) (parts : List (Nat × List Byte)) : BufRead :=
  (parts.flatMap fun (off, bs) => pagesOf (o.recv + BitVec.ofNat 64 off) bs.length).foldl (fun acc a =>
    match acc with
    | .bytes _ =>
      (match checkLane s o.who.core o.asid false .write 1 a with
       | .park lvl => .park a lvl
       | .peer _ _ _ => .fail 0x07 a
       | .trap cause => .fail cause a
       | _ => acc)
    | _ => acc) (.bytes [])

/-- Bytes written to memory by an engine, dropped on a page whose policy is ZERO. -/
def engineWrite (s : State) (core asid : Nat) (va : DWord) (bs : List Byte) : State :=
  let places := (bs.zipIdx).filterMap fun (b, i) =>
    match checkLane s core asid false .write 1 (va + BitVec.ofNat 64 i) with
    | .ok k => some (k, b)
    | _ => none
  places.foldl (fun s (k, b) => homeWrite s asid k [b]) s

/-- RECV takes free bytes where it can be written: the receive bytes of a COLL are unpredictable until its object is
satisfied, and no bytes are stated for one that fails (R430, R436). -/
def blurRecv (s : State) (g : Group) (o : CollOp) : State :=
  let (bs, s) := freeBytes s (recvLen g o)
  engineWrite s o.who.core o.asid o.recv bs

/-- The end of a COLL (R432, R437): the block, the record, the object, the entry. -/
def finishColl (s : State) (g : Nat) (o : CollOp) (tag nlive : Nat) (fail : Option (Nat × DWord)) : State :=
  let s := modGroup { s with meddled := s.meddled.filter fun x => x.1 != o.id } g fun x => { x with
    colls := x.colls.filter fun y => y.id != o.id }
  let s := deviceWrite s o.who.core o.asid (o.block + 32)
    (leBytes 2 tag ++ leBytes 2 nlive ++ leBytes 4 o.seq ++ List.replicate 24 0)
  endOp s o.who.core o.txn o.train o.asid o.id o.obj (o.failed <|> fail) []

/-- A COLL completes failed, with nothing received. -/
def failColl (s : State) (g : Group) (o : CollOp) (tag nlive : Nat) (fail : Nat × DWord) : State :=
  finishColl (blurRecv s g o) g.id o tag nlive (some fail)

/-- The bytes of an all-gather's slots that no rank has filled are again what they were when it was issued (R436). DESIGN CHOICE,
unsafe: log entry 89. -/
def keepSlots (s : State) (o : CollOp) (parts : List (Nat × List Byte)) : State :=
  let filled (i : Nat) : Bool := parts.any fun p => p.1 ≤ i && i < p.1 + p.2.length
  ((o.was.zipIdx).filter fun x => !filled x.2).foldl (fun s (b, i) => match b with
    | some b => engineWrite s o.who.core o.asid (o.recv + BitVec.ofNat 64 i) [b]
    | none => s) s

/-- A received result is written, and the COLL completes; it waits at an absent page (R275, R430). -/
def landColl (s : State) (g : Group) (o : CollOp) : State :=
  match o.result with
  | none => s
  | some x =>
    if o.atPage then s
    else
      match x.parts with
      | none => finishColl (blurRecv s g o) g.id o x.tag x.nlive x.fail
      | some parts =>
        match recvStop s o parts with
        | .park va lvl => collPark s g.id o va 1 lvl
        | .fail cause va => failColl s g o x.tag x.nlive (cause, va)
        | .bytes _ =>
          finishColl (parts.foldl (fun s (off, bs) =>
            engineWrite s o.who.core o.asid (o.recv + BitVec.ofNat 64 off) bs) (keepSlots s o parts)) g.id o x.tag x.nlive x.fail

/-- The COLLs of a group go as far as they can. -/
def moveColls (s : State) (g : Nat) : State :=
  match groupAt s g with
  | none => s
  | some x => x.colls.foldl (fun s o =>
      match groupAt s g with
      | none => s
      | some x =>
        match x.colls.find? fun y => y.id == o.id with
        | none => s
        | some o => if o.result.isSome then landColl s x o else sendColl s x o) s

/-- The bytes of an all-gather's receive buffer as they stand, none where they cannot be written. -/
def recvBytes (s : State) (g : Group) (o : CollOp) : List (Option Byte) :=
  if o.kind != 2 then []
  else (List.range (recvLen g o)).map fun i =>
    match checkLane s o.who.core o.asid false .write 1 (o.recv + BitVec.ofNat 64 i) with
    | .ok k => some (memRead s.mem k)
    | _ => none

/-- Where a COLL's send bytes lie: for each part of a page, its offset in the buffer, its key and its length. -/
def sendKeys (s : State) (g : Group) (o : CollOp) : List (Nat × Nat × Nat) :=
  let n := sendLen g o
  (pagesOf o.send n).filterMap fun a =>
    let off := (a - o.send).toNat
    match checkLane s o.who.core o.asid false .read 1 a with
    | .ok k => some (off, k, min (65536 - a.toNat % 65536) (n - off))
    | _ => none

/-- A COLL enters its group's operations; its receive bytes are unpredictable from now on until its object is satisfied
(R430; log entry 89). -/
def collBody (c : Ctx) (s : State) : State :=
  let (key, s) := objKey s c (some c.block)
  let (id, s) := fresh s
  let s := addTxn s c.r.core ⟨id, .engine, c.t.uid, 1, [], none, false, true⟩
  let g := c.groupWord
  let bar := c.collKind == 4
  let o : CollOp := {
    id := id, train := c.t.uid, who := c.r, crew := c.t.crew, asid := c.t.asid, kind := c.collKind, red := c.collRed,
    ty := if bar then 0 else c.ty.code, send := BitVec.ofNat 64 c.collSend, recv := BitVec.ofNat 64 c.collRecv,
    count := if bar then 0 else c.collCount, root := if c.collKind == 3 then c.collRoot else 0, block := c.block,
    obj := key, txn := id, seq := 0, tag := 0, started := false, sent := false, after := pendingAccesses s c,
    atPage := false, failed := none, mine := none, result := none, was := [], keys := [] }
  let (o, s) := match groupAt s g with
    | some x => if bar then (o, s) else ({ o with was := recvBytes s x o, keys := sendKeys s x o }, blurRecv s x o)
    | none => (o, s)
  moveColls (startColls (modGroup s g fun x => { x with colls := x.colls ++ [o] }) g) g

/-- COLL_AR (R430). -/
def execCollAr (f : Fields) (s : State) : Out := issue (.collAr f) (collEntry (.collAr f)) collBody s
/-- COLL_RS (R430). -/
def execCollRs (f : Fields) (s : State) : Out := issue (.collRs f) (collEntry (.collRs f)) collBody s
/-- COLL_AG (R430). -/
def execCollAg (f : Fields) (s : State) : Out := issue (.collAg f) (collEntry (.collAg f)) collBody s
/-- COLL_BC (R430). -/
def execCollBc (f : Fields) (s : State) : Out := issue (.collBc f) (collEntry (.collBc f)) collBody s
/-- COLL_BAR (R430). -/
def execCollBar (f : Fields) (s : State) : Out := issue (.collBar f) (collEntry (.collBar f)) collBody s

/-! ## Views -/

/-- The next tag of a proposal: one more than the highest installed or seen proposed (R435). -/
def nextTag (g : Group) : Nat := (g.proposed + 1) % 2 ^ 16
/-- The later of two tags, counted modulo 2^16. -/
def laterTag (a b : Nat) : Nat := if (b + 2 ^ 16 - a) % 2 ^ 16 < 2 ^ 15 then b else a

/-- The mask that a leader would propose: the live ranks without the lost ones, and the joiner (R435, R438). -/
def wantMask (g : Group) : List Bool :=
  g.live.mapIdx fun r b => (b && !g.lost.contains r) || (g.joiner == some (r, true) && !g.lost.contains r)

/-- The leader of an agreement: the lowest live rank that is not lost (R427, R435). -/
def leads (g : Group) : Bool := lowestRank (g.live.mapIdx fun r b => b && !g.lost.contains r) == g.rank

/-- Every rank of the proposed mask has acknowledged. -/
def allAcked (g : Group) : Bool := (g.propMask.zipIdx).all fun (b, r) => !b || g.acks.contains r

/-- The COMMIT of a proposal that every rank of its mask has acknowledged is sent (R435). -/
def sendCommit (s : State) (g : Nat) : State :=
  match groupAt s g with
  | some x => if allAcked x then sendGroup s g 0 (.commit g x.proposed x.propMask x.seq) else s
  | none => s

/-- The leader proposes (R435 step 2); it acknowledges its own proposal. -/
def proposeView (s : State) (g : Nat) : State :=
  match groupAt s g with
  | none => s
  | some x =>
    if x.view == .changing && leads x then
      let t := nextTag x
      let mask := wantMask x
      let s := modGroup s g fun x => { x with
        proposed := t, propMask := mask, leader := x.rank, acks := [x.rank], ackedAt := some s.time }
      sendCommit (sendGroup s g 0 (.propose g t mask)) g
    else s

/-- A JOIN that waits at the leader is proposed once the group is Stable and nothing of it is in progress (R438). -/
def tryJoin (s : State) (g : Nat) : State :=
  match groupAt s g with
  | none => s
  | some x =>
    if x.joiner.isSome && x.view == .stable && !(x.colls.any fun o => o.started) && x.arrPhase == x.phase &&
        x.arrivals == 0 then
      proposeView (modGroup s g fun x => { x with
        view := .changing, joiner := x.joiner.map fun j => (j.1, true) }) g
    else s

/-- The contributions of a live view (R431): this package's own is what it sent, and a rank that is not live has none. -/
def viewSends (g : Group) (o : CollOp) (sends : List (Option CollSend)) : List (Option CollSend) :=
  (List.range g.m).map fun r => if !(g.alive r) then none else if r == g.rank then o.mine else nth none sends r

/-- Whether a byte of this package's send buffer no longer holds what the COLL sent (R430); the changes that `landMem` has met since
the issue stand in the state. -/
def sendChanged (s : State) (o : CollOp) (i : Nat) : Bool :=
  match o.mine with
  | none => false
  | some x =>
    (match checkLane s o.who.core o.asid false .read 1 (o.send + BitVec.ofNat 64 i) with
     | .ok k => memRead s.mem k != nth 0 x.data i
     | .zero => nth 0 x.data i != 0
     | _ => true)

/-- Whether two ranges of addresses overlap. -/
def rangesMeet (a : DWord) (n : Nat) (b : DWord) (m : Nat) : Bool := (b - a).toNat < n || (a - b).toNat < m

/-- What a COLL is to write once its contributions are combined (R430, R431): a poisoned contribution fails it with the lowest
rank that sent one, and bytes that depend on that contribution, on send bytes changed meanwhile, or on a buffer that overlaps
the other are free. -/
def collResult (g : Group) (o : CollOp) (sends : List (Option CollSend)) (s : State) : CollResult × State :=
  let t := ETy.ofCode o.ty
  let w := tyBits t
  let own := readsSend g o && o.failed.isNone
  let meet := own && rangesMeet o.send (sendBits o.kind w o.count g.m / 8) o.recv (recvLen g o)
  let bad (r k : Nat) : Bool :=
    meet || (match nth none sends r with | some x => x.poisoned | none => false) ||
      (own && r == g.rank && ((List.range (max 1 (w / 8))).any fun i =>
        sendChanged s o (k * w / 8 + i) || s.meddled.contains (o.id, k * w / 8 + i)))
  let (parts, s) := depotParts t o.kind o.red g.policy o.count o.root g.rank g.nlive sends bad s
  let fail := (lowestWith sends fun x => x.poisoned).map fun r => (0x0A, (BitVec.ofNat 64 (g.id + r * 4096) : DWord))
  (⟨g.tag, g.nlive, fail, some parts⟩, s)

/-- COLL_RESULT_RECEIVE (R430-R433): contributions that the depot refuses fail at every member, others are combined once every
live rank has sent. -/
def execCollResultReceive (group seq tag size : Nat) (sends : List (Option CollSend)) (s : State) : Out :=
  match groupAt s group with
  | none => disabled
  | some g =>
    match g.colls.find? fun o => o.started && o.sent && o.seq == seq && o.tag == tag && o.result.isNone with
    | none => disabled
    | some o =>
      let sends := viewSends g o sends
      let land (x : CollResult) (s : State) : State :=
        tryJoin (moveColls (modColl s group o.id fun o => { o with result := some x }) group) group
      match depotRefuses size sends with
      | some r => stepWhen (groupTakes s group && tag == g.tag) (land ⟨tag, g.nlive, some (0x07, BitVec.ofNat 64 (group + r * 4096)), none⟩ (takeGroup s group 0))
      | none =>
        stepWhen (groupTakes s group && tag == g.tag && (List.range g.m).all fun r => !(g.alive r) || (nth none sends r).isSome)
          (let (x, s) := collResult g o sends (takeGroup s group (recvLen g o))
           land x s)

/-- The ranks that a notice names are lost: the group moves to Changing and its leader proposes (R435). -/
def loseRanks (s : State) (g : Nat) (ranks : List Nat) : State :=
  proposeView (modGroup s g fun x => { x with
    lost := (ranks.filter fun r => !x.lost.contains r) ++ x.lost,
    joiner := x.joiner.filter fun j => !ranks.contains j.1,
    view := if x.view == .stable then .changing else x.view }) g

/-- MEMBERSHIP_NOTICE (R434, R435). -/
def execMembershipNotice (group rank : Nat) (s : State) : Out :=
  match groupAt s group with
  | none => disabled
  | some g => stepWhen (groupTakes s group && g.inside && rank < g.m && rank != g.rank)
      (loseRanks (takeGroup s group 0) group [rank])

/-- VIEW_PROPOSE_RECEIVE (R435, R440): ACK for a mask that omits every rank known to be lost, else NACK. -/
def execViewProposeReceive (group tag : Nat) (mask : List Bool) (leader : Nat) (s : State) : Out :=
  match groupAt s group with
  | none => disabled
  | some g =>
    let bad := g.lost.filter fun r => nth false mask r
    let s1 := modGroup (takeGroup s group 0) group fun x => { x with
      proposed := laterTag x.proposed tag, view := if x.view == .stable then .changing else x.view }
    stepWhen (groupTakes s group && mask.length == g.m && nth false mask g.rank && nth false mask leader && leader != g.rank && tag < 2 ^ 16)
      (if bad.isEmpty then
        sendGroup (modGroup s1 group fun x => { x with propMask := mask, leader := leader, ackedAt := some s.time }) group 0
          (.ack group tag leader)
       else sendGroup s1 group 0 (.nack group tag leader bad))

/-- VIEW_ACK_RECEIVE (R435). -/
def execViewAckReceive (group tag rank : Nat) (s : State) : Out :=
  match groupAt s group with
  | none => disabled
  | some g =>
    stepWhen (groupTakes s group && g.view == .changing && g.leader == g.rank && g.proposed == tag &&
        nth false g.propMask rank && !g.acks.contains rank)
      (sendCommit (modGroup (takeGroup s group 0) group fun x => { x with acks := rank :: x.acks }) group)

/-- VIEW_NACK_RECEIVE (R435): the agreement begins again with the merged mask. -/
def execViewNackReceive (group tag : Nat) (lost : List Nat) (s : State) : Out :=
  match groupAt s group with
  | none => disabled
  | some g =>
    stepWhen (groupTakes s group && g.view == .changing && g.leader == g.rank && g.proposed == tag && !lost.isEmpty &&
        lost.all fun r => r < g.m && r != g.rank) (loseRanks (takeGroup s group 0) group lost)

/-- COMMIT_TIMEOUT (R435): 1 ms after the ACK the proposal's leader counts as lost. -/
def execCommitTimeout (group : Nat) (s : State) : Out :=
  match groupAt s group with
  | none => disabled
  | some g =>
    match g.ackedAt with
    | none => disabled
    | some t =>
      stepWhen (g.view == .changing && g.leader != g.rank && s.time ≥ t + 1000000)
        (loseRanks (modGroup s group fun x => { x with ackedAt := none }) group [g.leader])

/-- The address that a view change reports (R437). -/
def changeAddr (old new : Nat) : DWord := BitVec.ofNat 64 (old % 2 ^ 16 + new % 2 ^ 16 * 2 ^ 16)

/-- Whether an operation completes failed at a COMMIT (R436). -/
def failsAtCommit (g : Group) (mask : List Bool) (o : CollOp) : Bool :=
  o.kind != 4 && (g.policy == 2 || (o.kind == 3 && !(nth false mask o.root)))

/-- One operation is resolved at a COMMIT that has been installed (R435, R436): it fails, or starts, or sends its
contribution again unless the depot has kept it. -/
def resolveColl (addr : DWord) (restamped : List Nat) (g nlive : Nat) (s : State) (o : CollOp) : State :=
  match groupAt s g with
  | none => s
  | some x =>
    if o.result.isSome then s
    else
      let s := startColl s g o.id
      match (groupAt s g).bind fun y => y.colls.find? fun q => q.id == o.id with
      | none => s
      | some q =>
        if failsAtCommit x x.live q then failColl s x q x.tag nlive (0x13, addr)
        else modColl s g o.id fun q => { q with
          tag := x.tag, sent := o.started && o.sent && restamped.contains q.seq }

/-- The FBARs of a group that are parked in a phase. -/
def fbarWaiters (s : State) (g : Nat) (phase : Nat → Bool) : List PathRef :=
  findPaths s (List.range 288) fun p => match p.wake with | some (.fbar n k) => n == g && phase k | _ => false

/-- Parked FBARs of some phases trap (R434, R443); those that a saved crew holds, once it is restored. -/
def trapFbars (s : State) (g cause : Nat) (addr : DWord) (phase : Nat → Bool) : State :=
  let waits (p : Path) : Bool := match p.wake with | some (.fbar n k) => n == g && phase k | _ => false
  let kept := (s.saved.flatMap (·.trains)).flatMap fun t => (livePaths t.paths).filterMap fun (_, p) =>
    if waits p then some (p.uid, cause, addr) else none
  (fbarWaiters s g phase).foldl (fun s r =>
    match pathAt s r with
    | some p => takeTrap (modPath s r (wakePath s.point)) r ⟨cause, p.mask, p.lastPc, addr⟩
    | none => s) (modGroup s g fun x => { x with gone := kept ++ x.gone })

/-- The phases of a group that are not released are discarded (R443). -/
def discardPhases (s : State) (g : Nat) (addr : DWord) : State :=
  match groupAt s g with
  | none => s
  | some x =>
    let n := (x.arrPhase + 2 ^ 16 - x.phase) % 2 ^ 16 + (if x.arrivals == 0 then 0 else 1)
    let next := (x.phase + n) % 2 ^ 16
    modGroup (trapFbars s g 0x13 addr fun k => (k + 2 ^ 16 - x.phase) % 2 ^ 16 < n) g fun x => { x with
      phase := next, arrPhase := next, arrivals := 0 }

/-- The paths parked in VJOIN for a group go on with a value (R438). -/
def wakeVjoin (s : State) (g x : Nat) (test : Nat → Bool) : State :=
  (findPaths s (List.range 288) fun p => match p.wake with | some (.vjoin n _ t) => n == g && test t | _ => false).foldl
    (fun s r => match (pathAt s r).bind (·.wake) with
      | some (.vjoin _ dst _) => writeS (modPath s r (wakePath s.point)) r dst false x
      | _ => s) s

/-- An FBAR arrival is counted; the last of a phase sends the package's arrival (R441), whose flits the depots draw,
none while the group is Changing (R435). While a JOIN waits at the leader no phase starts: the arrival is counted once the COMMIT has
come (R438). -/
def fbarArrive (s : State) (g : Nat) : State :=
  match groupAt s g with
  | none => s
  | some x =>
    if x.joiner.isSome && x.arrivals == 0 then modGroup s g fun x => { x with held := x.held + 1 }
    else if x.arrivals + 1 < x.fbexp then modGroup s g fun x => { x with arrivals := x.arrivals + 1 }
    else
      let s := modGroup s g fun x => { x with arrivals := 0, arrPhase := (x.arrPhase + 1) % 2 ^ 16 }
      if x.view == .stable && groupUp s g then sendPacket s (collPort s g) 0 (.fbarArrival g x.tag) else s

/-- The FBAR arrivals that a JOIN has held back are counted (R438). -/
def countHeld (s : State) (g : Nat) : State :=
  match groupAt s g with
  | none => s
  | some x => (List.range x.held).foldl (fun s _ => fbarArrive s g) (modGroup s g fun x => { x with held := 0 })

/-- A COMMIT is installed (R435-R438, R443). What the root depot completed before its first notice has arrived before it, since
all that a group's root depot sends comes through one port in order (R396, R397; DEDUCED, unsafe: log entry 118). -/
def installView (s : State) (g : Group) (tag : Nat) (mask : List Bool) (restamped : List Nat) (nextSeq : Nat) : State :=
  let joining := g.view == .joining
  let adds := (mask.zip g.live).any fun (a, b) => a && !b
  let addr := changeAddr g.tag tag
  let s := modGroup s g.id fun x => { x with
    tag := tag, live := mask, view := .stable, proposed := laterTag x.proposed tag, propMask := [], acks := [],
    ackedAt := none, lost := x.lost.filter (fun r => nth false mask r),
    joiner := x.joiner.filter fun j => !(nth false mask j.1), seq := if joining then nextSeq else x.seq }
  if joining then wakeVjoin s g.id tag fun _ => true
  else
    let ops := g.colls.filter fun o => o.result.isNone
    let s := if adds then s else ops.foldl (fun s o => recordFail s o.train 0x13 addr) s
    let s := discardPhases s g.id addr
    let nlive := (mask.filter fun b => b).length
    countHeld (tryJoin (moveColls (g.colls.foldl (resolveColl addr restamped g.id nlive) s) g.id) g.id) g.id

/-- VIEW_COMMIT (R436): of a proposal that this member has acknowledged. -/
def execViewCommit (group tag : Nat) (mask : List Bool) (restamped : List Nat) (nextSeq : Nat) (s : State) : Out :=
  match groupAt s group with
  | none => disabled
  | some g =>
    stepWhen (groupTakes s group && (g.view == .changing || g.view == .joining) && g.ackedAt.isSome && g.proposed == tag && g.propMask == mask &&
        nth false mask g.rank && (g.leader != g.rank || allAcked g) && (g.policy == 1 || restamped.isEmpty) &&
        nextSeq < 2 ^ 32)
      (installView (takeGroup s group 0) g tag mask restamped nextSeq)

/-- JOIN_RECEIVE (R438): the leader holds the request until the group is Stable and drained. -/
def execJoinReceive (group rank : Nat) (s : State) : Out :=
  match groupAt s group with
  | none => disabled
  | some g =>
    stepWhen (groupTakes s group && g.inside && leads g && rank < g.m && !(g.alive rank) && g.joiner.isNone)
      (tryJoin (modGroup (takeGroup s group 0) group fun x => { x with joiner := some (rank, false), lost := x.lost.filter (· != rank) }) group)

/-- A package that has lost its own path to a group's root depot leaves the view (R434, R440). The specification states no
address for these failures. -/
def leaveView (s : State) (g : Group) : State :=
  if g.view == .unbound then s
  else
    let (lo, s) := drawFree s
    let (hi, s) := drawFree s
    let addr := DWord.ofHalves lo hi
    let s := g.colls.foldl (fun s o => failColl s g o g.tag g.nlive (0x14, addr)) s
    modGroup (trapFbars s g.id 0x14 addr fun k => (k + 2 ^ 16 - g.phase) % 2 ^ 16 ≤ (g.arrPhase + 2 ^ 16 - g.phase) % 2 ^ 16) g.id fun x => { x with
      view := .joining, live := List.replicate x.m false, arrivals := 0, held := 0, arrPhase := x.phase, propMask := [], acks := [],
      ackedAt := none, joiner := none, lost := [] }

/-! ## VJOIN and VIEWQ -/

/-- The check of the group operand's upper bits (R438). -/
def upperEntry (i : Instr) (c : Ctx) : Entry := r94 c i 0x07 (c.groupWord ≥ 4096)

/-- The checks and waits of VJOIN. -/
def vjoinEntry (f : Fields) (_ : State) (c : Ctx) : Entry := upperEntry (.vjoin f) c

/-- VJOIN (R438). -/
def execVjoin (f : Fields) (s : State) : Out :=
  issue (.vjoin f) (vjoinEntry f) (fun c s =>
    match groupAt s c.groupWord with
    | some g =>
      if g.view == .joining then
        parkPath (sendGroup s g.id 0 (.join g.id g.rank)) c.r 0x08 (.vjoin g.id c.f.d.toNat s.time)
      else writeS s c.r c.f.d.toNat false 0x80000000
    | none => writeS s c.r c.f.d.toNat false 0x80000000) s

/-- VJOIN_TIMEOUT (R438): 10 ms without a COMMIT. -/
def execVjoinTimeout (group : Nat) (s : State) : Out :=
  let due (t : Nat) : Bool := s.time ≥ t + 10000000
  let any := !(findPaths s (List.range 288) fun p => match p.wake with
    | some (.vjoin n _ t) => n == group && due t | _ => false).isEmpty
  stepWhen any (wakeVjoin s group 0x80000000 due)

/-- The state code of a view (R439). -/
def viewCode (v : ViewState) : Nat := match v with | .unbound => 0 | .stable => 1 | .changing => 2 | .joining => 3

/-- VIEWQ.TAG's value (R439). -/
def viewTag (s : State) (g : Nat) : Nat :=
  match groupAt s g with
  | some x => if x.inside then x.tag % 2 ^ 16 + x.nlive % 2 ^ 16 * 2 ^ 16 else 0
  | none => 0

/-- VIEWQ.STATE's value. -/
def viewState (s : State) (g : Nat) : Nat :=
  let st := match groupAt s g with | some x => viewCode x.view | none => 0
  st + groupField s g 8 1 % 4 * 4 + groupField s g 2 2 % 2 ^ 12 * 16 + groupField s g 0 2 * 2 ^ 16

/-- VIEWQ.LIVE's value: word `k` of the live mask. -/
def viewLive (s : State) (g k : Nat) : Nat :=
  match groupAt s g with
  | some x => if x.inside then (List.range 32).foldl (fun n i => if x.alive (32 * k + i) then n + 2 ^ i else n) 0 else 0
  | none => 0

/-- VIEWQ.SEQ's value. -/
def viewSeq (s : State) (g : Nat) : Nat := match groupAt s g with | some x => x.seq | none => 0

/-- The checks of a VIEWQ (R438, R439). -/
def viewqEntry (i : Instr) (s : State) (c : Ctx) : Entry :=
  (upperEntry i c).andThen (r94 c i 0x07 (groupField s c.groupWord 4 2 != c.t.asid))

/-- A VIEWQ's value becomes an outstanding result (R33, R439). -/
def viewqBody (x : State → Ctx → Nat) (c : Ctx) (s : State) : State :=
  let (id, s) := fresh s
  let d := Reg.scalar c.f.d.toNat
  addPending c s ⟨id, c.p.pc, windowOf c.f.x.toNat, [⟨d, 0, BitVec.ofNat 32 (x s c)⟩], [d], [], [], none⟩

/-- VIEWQ_TAG (R439). -/
def execViewqTag (f : Fields) (s : State) : Out :=
  issue (.viewqTag f) (viewqEntry (.viewqTag f)) (viewqBody fun s c => viewTag s c.groupWord) s
/-- VIEWQ_STATE (R439). -/
def execViewqState (f : Fields) (s : State) : Out :=
  issue (.viewqState f) (viewqEntry (.viewqState f)) (viewqBody fun s c => viewState s c.groupWord) s
/-- VIEWQ_LIVE (R439). -/
def execViewqLive (f : Fields) (s : State) : Out :=
  issue (.viewqLive f) (viewqEntry (.viewqLive f))
    (viewqBody fun s c => if c.s c.f.a false < 128 then viewLive s c.groupWord (c.s c.f.a false) else 0) s
/-- VIEWQ_SEQ (R439). -/
def execViewqSeq (f : Fields) (s : State) : Out :=
  issue (.viewqSeq f) (viewqEntry (.viewqSeq f)) (viewqBody fun s c => viewSeq s c.groupWord) s

/-! ## FBAR -/

/-- The checks and waits of an FBAR (R312, R441, R442): its arrival releases at FAB scope. -/
def fbarEntry (i : Instr) (s : State) (c : Ctx) : Entry :=
  (if partialMask c then Entry.trap 0x04 c.p.mask (BitVec.ofNat 64 (c.groupWord % 4096)) else Entry.ok).andThen <|
  (r94 c i 0x07 (match ownGroup s c c.groupWord with | some g => !g.inside | none => true)).andThen <|
  releaseWaits s c

/-- FBAR (R441). -/
def execFbar (f : Fields) (s : State) : Out :=
  issue (.fbar f) (fbarEntry (.fbar f)) (fun c s =>
    let g := c.groupWord
    let ph := match groupAt s g with | some x => x.arrPhase | none => 0
    fbarArrive (parkPath s c.r 0x08 (.fbar g ph)) g) s

/-- FBAR_RELEASE (R441). -/
def execFbarRelease (group tag : Nat) (s : State) : Out :=
  match groupAt s group with
  | none => disabled
  | some g =>
    let s1 := (fbarWaiters s group fun k => k == g.phase).foldl (fun s r => modPath s r (wakePath s.point)) s
    stepWhen (g.inside && tag == g.tag && g.arrPhase != g.phase)
      (tryJoin (modGroup s1 group fun x => { x with phase := (x.phase + 1) % 2 ^ 16 }) group)

/-! ## Intents -/

/-- INTEN (R380). -/
def intEn (s : State) : Bool := s.rampset.getLsbD 28
/-- PCAP in watts (R380). -/
def pcapW (s : State) : Nat := 4 * bitsOf s.rampset.toNat 17 8

/-- An intent whose hold has ended (R379, R445). -/
def Intent.ended (x : Intent) (now : Nat) : Bool := (now : Int) > x.start + 20000

/-- The held intents less the one with the earliest TS. -/
def dropEarliest (l : List Intent) : List Intent :=
  match l.foldl (fun (b : Option Intent) x => match b with
    | none => some x
    | some y => if x.ts < y.ts then some x else some y) none with
  | none => l
  | some x => l.erase x

/-- An intent is offered to the governor (R445); `off` is its stagger in ns. -/
def offerIntent (s : State) (src ts watts off : Nat) : State :=
  if !intEn s || watts > pcapW s || ts < s.time + 1000 || ts > s.time + 10000000 then s
  else
    let held := s.intents.filter fun x => !(x.ended s.time)
    if held.any fun x => x.src == src && x.ts == ts && x.watts == watts then { s with intents := held }
    else
      let l := held ++ [⟨src, (ts : Int) - off, ts, watts⟩]
      { s with intents := if l.length > 8 then dropEarliest l else l }

/-- The checks and waits of INTENT. -/
def intentEntry (f : Fields) (_ : State) (c : Ctx) : Entry := r94 c (.intent f) 0x07 (c.s c.f.b false ≥ 2 ^ 16)

/-- INTENT (R444, R445). -/
def execIntent (f : Fields) (s : State) : Out :=
  issue (.intent f) (intentEntry f)
    (fun c s => offerIntent s s.pkgId (c.s c.f.a true) (c.s c.f.b false) 0) s

/-- The group of an INTENT.G. -/
def Ctx.intentGroup (c : Ctx) : Nat := c.s (ext0Of c.f).c false

/-- The checks and waits of INTENT.G. -/
def intentGEntry (f : Fields) (s : State) (c : Ctx) : Entry :=
  (r94 c (.intentG f) 0x07 (c.s c.f.b false ≥ 2 ^ 16)).andThen
    (r94 c (.intentG f) 0x07 (ownGroup s c c.intentGroup).isNone)

/-- INTENT_G (R444, R445). -/
def execIntentG (f : Fields) (s : State) : Out :=
  issue (.intentG f)
    (intentGEntry f)
    (fun c s => sendGroup s c.intentGroup 0 (.intentG c.intentGroup (BitVec.ofNat 64 (c.s c.f.a true)) (c.s c.f.b false))) s

/-- Bits [11:0] of a rank reversed (R445). -/
def bitRev12 (r : Nat) : Nat := (List.range 12).foldl (fun n i => if r.testBit i then n + 2 ^ (11 - i) else n) 0

/-- INTENT_G_DELIVERY (R445). -/
def execIntentGDelivery (group src : Nat) (ts : DWord) (watts : Nat) (s : State) : Out :=
  match groupAt s group with
  | none => disabled
  | some g =>
    stepWhen (groupTakes s group && g.inside && watts < 2 ^ 16)
      (offerIntent (takeGroup s group 0) src ts.toNat watts (bitRev12 g.rank * g.spread * 1000 / 4096))

end Sys2Proof.Machine
end

