-- ==== Sys2Proof/Machine/Window.lean ====
section
/-! DEFINITION. CALL, CALLX, RET and WFLUSH (R153-R172). -/
namespace Sys2Proof.Machine

/-- The groups of a call (R161). -/
def callGroups (c : Ctx) (indirect : Bool) : List PGroup := movingGroups c (callTarget c indirect) (calledBase c.p)
/-- The groups of a return (R163). -/
def retGroups (c : Ctx) : List PGroup := movingGroups c c.linkOf (returnedBase c.p)

/-- The records of a division; a handler that lacks entries is killed (R127 step 4, R177). -/
def recordsEntry (s : State) (c : Ctx) (groups : List PGroup) : Entry :=
  match divide s c groups with
  | none => .kill
  | some d => demandEntry c (d.recs.map (·.1))

/-- The drains, checks and transfers of a call (R161). -/
def callEntry (indirect : Bool) (s : State) (c : Ctx) : Entry :=
  (drainEntry c).andThen <|
  if c.act == 0 then .ok
  else
    (trapEntry (checkTargets c (callTarget c indirect))).andThen <|
    (if depthOf c.p + 1 ≥ framesOf c.t then Entry.trap 0x08 c.act (BitVec.ofNat 64 (depthOf c.p)) else Entry.ok).andThen <|
    (demandEntry c (callJobs c (callGroups c indirect))).andThen (recordsEntry s c (callGroups c indirect))

/-- The commit of a call: the groups move and the callee's link pairs are written (R161, R162). -/
def callNow (indirect : Bool) (c : Ctx) (s : State) : State :=
  if c.act == 0 then s
  else
    let link (_ : Nat) (ln : Lane) : Lane := wrV (c.depth + 1) ln 38 true c.nextPc.toNat
    divideNow (c.onLanes s link) c (callGroups c indirect)

/-- CALL (R161). -/
def execCall (f : Fields) (s : State) : Out := issue (.call f) (callEntry false) (callNow false) s
/-- CALLX (R161). -/
def execCallx (f : Fields) (s : State) : Out := issue (.callx f) (callEntry true) (callNow true) s

/-- The drains, checks and transfers of a return (R163). -/
def retEntry (s : State) (c : Ctx) : Entry :=
  (drainEntry c).andThen <|
  if c.act == 0 then .ok
  else if depthOf c.p == 0 then .trap 0x08 c.act (BitVec.ofNat 64 (2 ^ 16))
  else
    (trapEntry (checkTargets c c.linkOf)).andThen <|
    (demandEntry c (retJobs c)).andThen (recordsEntry s c (retGroups c))

/-- RET (R163). -/
def execRet (f : Fields) (s : State) : Out :=
  issue (.ret f) retEntry (fun c s => if c.act == 0 then s else divideNow s c (retGroups c)) s

/-- The checks and waits of WFLUSH. -/
def wflushEntry (_ : State) (c : Ctx) : Entry := (drainEntry c).andThen (demandEntry c (flushJobs c.p c.p.mask))

/-- WFLUSH (R165). -/
def execWflush (f : Fields) (s : State) : Out :=
  issue (.wflush f) wflushEntry
    (fun c s => modPath s c.r fun p => { p with wbase := mkWbase (depthOf p) 0 }) s

end Sys2Proof.Machine
end

