-- ==== Sys2Proof/Machine/Tender.lean ====
section
/-! DEFINITION. The Tender (R158, R159): the start of a transfer, spills and fills (R161, R163), deferred records and refills
(R20-R22, R127-R129), and their faults (R166). -/
namespace Sys2Proof.Machine

/-- The transfer at the head of a core's queue; the Tender pauses while the core's clock relocks (R320). -/
def tenderHead (s : State) (core : Nat) : Option TenderJob :=
  if (coreAt s core).relock then none else (coreAt s core).tender.head?

/-- The head transfer is marked as started. -/
def startHead (s : State) (core : Nat) : State :=
  modCore s core fun k => { k with tender := match k.tender with
    | j :: r => { j with started := true } :: r
    | [] => [] }

/-- TENDER_TRANSFER_START (R158, R159): a frame transfer is charged as it starts, or waits for tokens. -/
def execTenderTransferStart (core : Nat) (s : State) : Out :=
  match tenderHead s core with
  | none => disabled
  | some j =>
    if j.started then disabled
    else if !j.kind.isFrame then .next (startHead s core)
    else if tokensFor s j.who < framePrice then
      .next (setStall s j.who 0x03)
    else
      let s := modCore s core fun k => { k with balance := k.balance - framePrice }
      let s := modDie s (dieOf core) fun d => { d with spent := d.spent + framePrice }
      let s := modTrain s core j.who.slot fun t => { t with charged := t.charged + BitVec.ofNat 64 framePrice }
      .next (startHead s core)

/-- Where bytes of a transfer lie (R157, R166). -/
inductive TPlace where
  | key (k : Nat)
  | zero
  | park (lvl : Nat)
  | bad (cause : Nat)
  deriving DecidableEq, Repr

/-- The place of `n` bytes of a transfer: WS = 1 and PEER = 0 are all it needs (R157). -/
def tenderPlace (s : State) (core asid : Nat) (va : DWord) (n : Nat) : TPlace :=
  if !canonical va then .bad 0x07
  else
    match xlate s core asid va with
    | .bad c _ => .bad c
    | .absent pol lvl => if pol == 0 then .park lvl else if pol == 1 then .zero else if pol == 2 then .bad 0x0A
        else .bad 0x06
    | .leaf w bits =>
      if !w.testBit 5 || w.testBit 10 then .bad 0x07
      else if physOk s (leafKey w bits va) n then .key (leafKey w bits va) else .bad 0x07

/-- The head transfer leaves the queue. -/
def dropHead (s : State) (core : Nat) : State := modCore s core fun k => { k with tender := k.tender.drop 1 }

/-- The head transfer is made, and the path's instruction may go on (R161, R163). -/
def headDone (s : State) (core : Nat) (j : TenderJob) : State :=
  modPath (dropHead s core) j.who fun p => { p with xfers := p.xfers ++ [j.kind] }

/-- Every transfer of a path leaves the queue, and those made for its instruction count no more. -/
def clearJobs (s : State) (r : PathRef) : State :=
  modPath (modCore s r.core fun k => { k with tender := k.tender.filter fun j => j.who != r || j.kind == .refill }) r
    fun p => { p with xfers := [] }

/-- Whether a pre-emption has stopped a path, so that its transfers are the flush of its save (R170, R189): an agent's transfers
are, once it is parked in WAITADDR. -/
def savingPath (s : State) (r : PathRef) (p : Path) : Bool :=
  if r.handler then (match p.wake with | some (.waitAddr ..) => true | _ => false) && (trainAt s r.core r.slot).any (·.preempt.isSome)
  else p.stop == .atRegion || p.stop == .inFull

/-- A transfer of a path fails (R166): a trap on the lanes of the transfer, at the demanding instruction, or where a save
flushes the path. An instruction that a pre-emption has found in a transfer has not issued (R170). -/
def transferTrap (s : State) (j : TenderJob) (lanes : LaneSet) (cause : Nat) (va : DWord) : State :=
  match pathAt s j.who with
  | some p =>
    let s := clearJobs s j.who
    if savingPath s j.who p then
      (if (flushJobs p p.mask).contains j.kind then
        takeTrap s j.who ⟨cause, lanes, if p.stop == .atRegion then p.region.entry else p.pc, va⟩ else s)
    else takeTrap s j.who ⟨cause, lanes, p.pc, va⟩
  | none => dropHead s j.who.core

/-- A transfer meets an absent page whose policy is PARK (R166): the path parks at its instruction, or the flush of a save
waits for the page. -/
def transferPark (s : State) (j : TenderJob) (va : DWord) (lvl : Nat) : State :=
  match pathAt s j.who, trainAt s j.who.core j.who.slot with
  | some p, some t =>
    let s := clearJobs s j.who
    if !savingPath s j.who p then parkForPages s j.who p.pc 0 [(va, lvl)] 3
    else if (flushJobs p p.mask).contains j.kind then
      faultRecord (modPath s j.who fun p => { p with flushWait := true }) t.asid va 3 lvl t.trainId
        (if j.who.handler then 0 else j.who.entry)
    else s
  | _, _ => dropHead s j.who.core

/-- The addresses of a frame's registers for some lanes, ascending, with the register and the lane (R155). -/
def frameVas (t : Train) (frame : Nat) (lanes : LaneSet) : List (Nat × Nat × DWord) :=
  (List.range 24).flatMap fun k => lanes.toList.map fun l => (k, l, slotRegVa t frame k l)

/-- The first address of a transfer whose place a test names. -/
def firstStop (s : State) (core asid : Nat) (vas : List (Nat × Nat × DWord)) (stop : TPlace → Bool) :
    Option (DWord × TPlace) :=
  vas.findSome? fun (_, _, va) => let x := tenderPlace s core asid va 4; if stop x then some (va, x) else none

/-- The addresses up to the one at which a transfer stops, which it translates. -/
def untilStop (vas : List (Nat × Nat × DWord)) (stop : Option (DWord × TPlace)) : List (Nat × Nat × DWord) :=
  match stop with
  | none => vas
  | some (va, _) => vas.takeWhile (fun x => x.2.2 != va) ++ (vas.find? fun x => x.2.2 == va).toList

/-- The translations of a transfer. -/
def tenderWalks (s : State) (core asid : Nat) (vas : List (Nat × Nat × DWord)) : State :=
  (vas.foldl (fun (acc : List Nat × State) (_, _, va) =>
    if acc.1.contains (va.toNat / 65536) then acc
    else (va.toNat / 65536 :: acc.1, walkEffect acc.2 core asid va)) ([], s)).2

/-- The lanes of a frame's register that are written at once: a granule of sixteen where all take part, else one by one. -/
def frameRuns (lanes : LaneSet) : List (List Nat) :=
  (List.range 6).flatMap fun g =>
    let ls := ((List.range 16).map fun i => 16 * g + i).filter lanes.has
    if ls.length == 16 then [ls] else ls.map fun l => [l]

/-- A lane whose frame a transfer has moved holds no unpredictable value in its slot any more (R158, R167). -/
def settleLane (frame : Nat) (ln : Lane) : Lane := keepRegs frame (2 ^ 24 - 1) ln

/-- How a transfer's write stands in the order: among the accesses of the path that demanded it (R325). DEDUCED: log entry 21. -/
def transferKind (s : State) (r : PathRef) : WriteKind := .update ((pathAt s r).map (·.uid)).toList

/-- A frame of some lanes is written to its slot (R158); bytes that cover a granule clear its poison (R243). -/
def putFrame (kind : WriteKind) (s : State) (core : Nat) (t : Train) (frame : Nat) (lanes : LaneSet) : State :=
  (List.range 24).foldl (fun s k => (frameRuns lanes).foldl (fun s ls =>
    match tenderPlace s core t.asid (slotRegVa t frame k (ls.headD 0)) (4 * ls.length) with
    | .key a =>
      homeWriteAs kind s t.asid a (ls.flatMap fun l =>
        leBytes 4 (match t.lanes[l]? with | some ln => (nth 0 ln.ring (ringIx frame k)).toNat | none => 0))
    | _ => s) s) s

/-- SPILL_COMPLETE (R161, R166); the slot is the one that WINSTACK gives now (R156; DESIGN CHOICE, unsafe: log entry 87). -/
def execSpillComplete (core : Nat) (s : State) : Out :=
  match tenderHead s core with
  | some ⟨r, .spill frame lanes, true⟩ =>
    (match trainAt s core r.slot with
     | none => .next (dropHead s core)
     | some t =>
       let j : TenderJob := ⟨r, .spill frame lanes, true⟩
       let vas := frameVas t frame lanes
       let stop := firstStop s core t.asid vas fun x => match x with | .key _ => false | _ => true
       let s := tenderWalks s core t.asid (untilStop vas stop)
       match stop with
       | none => .next (headDone (modTrain (putFrame (transferKind s r) s core t frame lanes) core r.slot fun t =>
           { t with lanes := mapLanes t.lanes lanes fun _ ln => settleLane frame ln }) core j)
       | some (va, .park lvl) => .next (transferPark s j va lvl)
       | some (va, .bad c) => .next (transferTrap s j lanes c va)
       | some (va, _) => .next (transferTrap s j lanes 0x06 va))
  | _ => disabled

/-- The registers that a fill reads: values, or the first error (R166). -/
def getFrame (s : State) (core : Nat) (t : Train) (vas : List (Nat × Nat × DWord)) :
    List (Nat × Nat × Word) × Option (Nat × DWord) × State :=
  vas.foldl (fun (acc : List (Nat × Nat × Word) × Option (Nat × DWord) × State) (k, l, va) =>
    match acc.2.1 with
    | some _ => acc
    | none =>
      match tenderPlace acc.2.2 core t.asid va 4 with
      | .key a =>
        let (bad, s) := demandRead acc.2.2 none t.asid a 4
        (match bad with
         | some c => (acc.1, some (c, va), s)
         | none => (acc.1 ++ [(k, l, BitVec.ofNat 32 (memLe s.mem a 4))], none, s))
      | _ => (acc.1 ++ [(k, l, 0)], none, acc.2.2)) ([], none, s)

/-- The lanes as a fill leaves them: free values where a merge or a claim has left the lane's older frames unpredictable
(R167, R168). -/
def fillLanes (k0 frame : Nat) (lanes : LaneSet) (ws : List (Nat × Nat × Word)) (lns : List Lane) : List Lane :=
  mapLanes (ws.foldl (fun lns (k, l, w) => updAt lns l fun ln =>
    setLaneReg ln (.ring (ringIx frame k)) (if ln.lostAt frame k then Config.freeWord (k0 + 96 * k + l) else w)) lns) lanes
    fun _ ln => settleLane frame ln

/-- FILL_COMPLETE (R163, R166): the first address that fails decides, whatever fails there. -/
def execFillComplete (core : Nat) (s : State) : Out :=
  match tenderHead s core with
  | some ⟨r, .fill frame lanes, true⟩ =>
    (match trainAt s core r.slot with
     | none => .next (dropHead s core)
     | some t =>
       let j : TenderJob := ⟨r, .fill frame lanes, true⟩
       let vas := frameVas t frame lanes
       let stop := firstStop s core t.asid vas fun x => match x with | .key _ | .zero => false | _ => true
       let good := match stop with | none => vas | some (va, _) => vas.takeWhile fun x => x.2.2 != va
       match getFrame (tenderWalks s core t.asid (untilStop vas stop)) core t good, stop with
       | (_, some (c, va), s), _ => .next (transferTrap s j lanes c va)
       | (_, none, s), some (va, .park lvl) => .next (transferPark s j va lvl)
       | (_, none, s), some (va, .bad c) => .next (transferTrap s j lanes c va)
       | (ws, none, s), _ =>
         .next (headDone (modTrain { s with free := s.free + 2304 } core r.slot fun t =>
           { t with lanes := fillLanes s.free frame lanes ws t.lanes }) core j))
  | _ => disabled

/-- DEFERRED_RECORD_WRITTEN (R20, R127, R128). -/
def execDeferredRecordWritten (core : Nat) (s : State) : Out :=
  match tenderHead s core with
  | some ⟨r, .record lanes pc wbase idx, true⟩ =>
    (match trainAt s core r.slot, pathAt s r with
     | some t, some p =>
       let va := recordVa t idx
       let out := tenderPlace s core t.asid va 64
       let s := walkEffect s core t.asid va
       let j : TenderJob := ⟨r, .record lanes pc wbase idx, true⟩
       (match out with
        | .key a => .next (headDone (homeWriteAs (transferKind s r) s t.asid a (recordBytes pc lanes p.mode wbase p.jids)) core j)
        | .park lvl => .next (transferPark s j va lvl)
        | .bad c => .next (transferTrap s j lanes c va)
        | .zero => .next (transferTrap s j lanes 0x06 va))
     | _, _ => .next (dropHead s core))
  | _ => disabled

/-! ## Refills -/

/-- The refill that has reserved an entry. -/
def refillAt (t : Train) (entry : Nat) : Option Refill := t.refills.find? fun x => x.entry == entry

/-- How a path that appears beside a running handler or agent starts (R40, R176). -/
def bornFrozen (t : Train) : Freeze :=
  match t.handler with
  | none => .none
  | some h => if !h.agent then .siblingTrap else if dbgFreeze t then .halt else .none

/-- A path takes the entry that was reserved for its record (R22): its region starts broken (R188). -/
def refillPath (s : State) (r : PathRef) (d : Deferred) (pc : DWord) (mode wbase : Word) : State :=
  let cold := match trainAt s r.core r.slot with | some t => bornFrozen t | none => Freeze.none
  let p : Path := { newPath d.uid pc d.mask with mode := mode, wbase := wbase, jids := d.jids, frozen := cold, floor := s.point }
  modTrain s r.core r.slot fun t =>
    settleTrain { t with refills := t.refills.filter fun x => x.entry != r.entry,
                         paths := updAt t.paths r.entry fun _ => some p } false

/-- Whether a MODE read from memory holds no reserved bit and no reserved rounding mode (R4, R36). -/
def modeOk (m : Nat) : Bool := m < 2 ^ 21 && bitsOf m 13 11 < 6

/-- Whether a record's 64 bytes agree with the core's directory and break no rule (R4, R20, R21, R36, R154). -/
def recordOk (b : List Byte) (d : Deferred) : Bool :=
  let w := leAt b 24 4
  leAt b 30 34 == 0 && leAt b 8 12 == d.mask.toNat && leAt b 28 2 == d.jids.toNat && w < 2 ^ 18 &&
  bitsOf w 17 16 ≤ bitsOf w 15 0 && modeOk (leAt b 20 4)

/-- The trap of a refill, on the lanes of its record (R129, R166). -/
def refillTrap (s : State) (r : PathRef) (d : Deferred) (pc : DWord) (mode wbase : Word) (cause : Nat) (va : DWord) :
    State :=
  takeTrap (refillPath s r d pc mode wbase) r ⟨cause, d.mask, pc, va⟩

/-- The window in which the handler of a rejected record runs: the record's as read, with no more resident callers than
frames. The specification names none for a record that is read and rejected (DESIGN CHOICE: log entry 81). -/
def rejectedBase (w : Word) : Word := mkWbase (bitsOf w.toNat 15 0) (min (bitsOf w.toNat 17 16) (bitsOf w.toNat 15 0))

/-- DEFERRED_REFILL_DONE (R22, R129, R166): TRAPADDR of a rejected record is its first byte (DESIGN CHOICE: log entry 81). -/
def execDeferredRefillDone (core : Nat) (s : State) : Out :=
  match tenderHead s core with
  | some ⟨r, .refill, true⟩ =>
    (match (trainAt s core r.slot).bind fun t => (refillAt t r.entry).map fun x => (t, x.what) with
     | none => .next (dropHead s core)
     | some (t, d) =>
       let va := recordVa t d.idx
       let out := tenderPlace s core t.asid va 64
       let s := walkEffect (dropHead s core) core t.asid va
       (match out with
        | .park lvl =>
          let s := modTrain s core r.slot fun t => { t with
            refills := t.refills.map fun x => if x.entry == r.entry then { x with parked := true } else x }
          .next (faultRecord s t.asid va 3 lvl t.trainId r.entry)
        | .zero => .next (refillTrap s r d 0 0 0 0x09 va)
        | .bad c => .next (refillTrap s r d 0 0 0 (if c == 0x0A then
            (match xlate s core t.asid va with | .absent _ _ => 0x09 | _ => 0x0A) else c) va)
        | .key a =>
          let (bad, s) := demandRead s none t.asid a 64
          (match bad with
           | some c => .next (refillTrap s r d 0 0 0 c va)
           | none =>
             let b := memBytes s.mem a 64
             let pc := BitVec.ofNat 64 (leAt b 0 8)
             let mode := BitVec.ofNat 32 (leAt b 20 4 % 2 ^ 21)
             let wbase := BitVec.ofNat 32 (leAt b 24 4)
             if recordOk b d then .next (deliver (refillPath s r d pc mode wbase) core r.slot)
             else .next (refillTrap s r d pc mode (rejectedBase wbase) 0x09 va))))
  | _ => disabled

end Sys2Proof.Machine
end

