-- ==== Sys2Proof/Machine/CoreSteps.lean ====
section
/-! DEFINITION. The steps of a core beside the issue of its paths: fetch (R66-R69), the redirect delay (R130), walks
(R229-R231, R238), fault records and replays (R234, R235), the watchdog (R181) and halts (R192). -/
namespace Sys2Proof.Machine

/-! ## Fetch -/

/-- What fetching one word gives: the word, an absent page, or a trap (R68). -/
inductive FetchOut where
  | word (w : Word)
  | park (lvl : Nat)
  | trap (cause : Nat)
  deriving DecidableEq, Repr

/-- The fetch of one word (R68, R232). A ZERO page makes it zero, which decodes as ILL; under a later word of an instruction,
which is then not decoded, that is the outcome itself. DEDUCED: log entry 91. -/
def fetchWord (s : State) (core asid : Nat) (priv first : Bool) (va : DWord) : FetchOut × State :=
  let out := checkLane s core asid priv .fetch 4 va
  let s := if canonical va then walkEffect s core asid va else s
  match out with
  | .ok k =>
    let (bs, bad, s) := routeRead s core asid .instr k 4
    (match bad with
     | some cause => (.trap cause, s)
     | none => (.word (BitVec.ofNat 32 (leNat bs)), s))
  | .zero | .idle => (if first then .word 0 else .trap 0x01, s)
  | .park lvl => (.park lvl, s)
  | .trap cause => (.trap cause, s)
  | .peer _ _ _ => (.trap 0x07, s)

/-- The words of an instruction, fetched in order until one fails: the words, or the address and outcome of the one that
did (R66, R68). -/
def fetchWords (s : State) (core asid : Nat) (priv : Bool) (va : DWord) :
    Nat → List Word → (List Word ⊕ (DWord × FetchOut)) × State
  | 0, ws => (.inl ws, s)
  | n + 1, ws =>
    let a := va + BitVec.ofNat 64 (4 * ws.length)
    match fetchWord s core asid priv ws.isEmpty a with
    | (.word w, s) => fetchWords s core asid priv va n (ws ++ [w])
    | (o, s) => (.inr (a, o), s)

/-- The number of words after the first (R66): none where LEN is 0b11. -/
def moreWords (w : Word) : Nat := if w.toNat % 4 == 3 then 0 else w.toNat % 4

/-- A whole instruction is fetched (R66, R68). -/
def fetchAll (s : State) (core asid : Nat) (priv : Bool) (va : DWord) : (List Word ⊕ (DWord × FetchOut)) × State :=
  match fetchWords s core asid priv va 1 [] with
  | (.inl [w], s) => fetchWords s core asid priv va (moreWords w) [w]
  | x => x

/-- INSTRUCTION_FETCH (R68): every word is fetched before any is decoded. -/
def execInstructionFetch (r : PathRef) (s : State) : Out :=
  match trainAt s r.core r.slot, pathAt s r with
  | some t, some p =>
    if !issuable p || p.fetched.isSome || (clusterAt s (clusterOf r.core)).gate != .on then disabled
    else
      (match fetchAll s r.core t.asid r.handler p.pc with
       | (.inl ws, s) =>
         .next (modPath s r fun p => { p with fetched := some (nth 0 ws 0, nth 0 ws 1, nth 0 ws 2), cold := false })
       | (.inr (a, .park lvl), s) => .next (parkForPages s r p.pc 0 [(a, lvl)] 2)
       | (.inr (a, .trap cause), s) => .next (takeTrap s r ⟨cause, p.mask, p.pc, a⟩)
       | (.inr (_, .word _), s) => .next s)
  | _, _ => disabled

/-- REDIRECT_DELAY_END (R130): the last of the four cycles is over. -/
def execRedirectDelayEnd (r : PathRef) (s : State) : Out :=
  match pathAt s r with
  | some p => stepWhen (p.delay == 1) (modPath s r fun p => { p with delay := 0 })
  | none => disabled

/-! ## Translation and page faults -/

/-- Whether a train of an ASID is resident on a core. -/
def asidOn (s : State) (core asid : Nat) : Bool :=
  (coreAt s core).slots.any fun o => match o with | some t => t.asid == asid | none => false

/-- TLB_WALK_COMPLETE (R229, R231, R238): a walk for a resident ASID ends, and a leaf is kept. -/
def execTlbWalkComplete (core asid : Nat) (va : DWord) (s : State) : Out :=
  stepWhen (asidOn s core asid && canonical va) (walkEffect s core asid va)

/-- FAULT_RECORD_WRITE (R235): the oldest waiting record of an ASID is written, there being room. -/
def execFaultRecordWrite (asid : Nat) (s : State) : Out :=
  match s.faults.find? fun f => f.asid == asid with
  | none => disabled
  | some f =>
    stepWhen (ringSlot s.mem (ctxFaultq s asid) (ctxFqsize s asid) f.data.length).isSome
      (writeRing { s with faults := s.faults.erase f } asid (ctxFaultq s asid) (ctxFqsize s asid) f.data)

/-- Whether a refill waits to be taken up again after a TLBI (R129, R234). -/
def refillIdle (s : State) (r : PathRef) (t : Train) : Bool :=
  !r.handler && (match refillAt t r.entry with
    | some x => !x.parked && !((coreAt s r.core).tender.any fun j => j.who == r && j.kind == .refill)
    | none => false)

/-- FAULT_REPLAY (R234): a path that a TLBI has woken replays its instruction under its unfinished mask; a refill is queued
again. -/
def execFaultReplay (r : PathRef) (s : State) : Out :=
  match trainAt s r.core r.slot with
  | none => disabled
  | some t =>
    if refillIdle s r t then
      .next (modCore s r.core fun k => { k with tender := k.tender ++ [⟨r, .refill, false⟩] })
    else
      match pathAt s r with
      | some p =>
        (match p.wake with
         | some (.pageFault u true) =>
           stepWhen (p.pstate == .parked && p.frozen == .none && p.stop == .running)
             (modPath s r fun p => { wakePath s.point p with unf := if u == 0 then none else some u, stall := 0 })
         | _ => disabled)
      | none => disabled

/-! ## Handlers -/

/-- Whether an agent waits in WAITADDR (R181): every path of it does. Where an agent has divided and some of its paths run on, the
specification does not say whether it is parked (DESIGN CHOICE, unsafe: log entry 103). -/
def agentWaits (h : Handler) : Bool :=
  h.agent && !(livePaths h.paths).isEmpty &&
    (livePaths h.paths).all fun (_, p) => match p.wake with | some (.waitAddr ..) => true | _ => false

/-- Whether no handler runs, an agent in WAITADDR apart (R189). -/
def handlerQuiet (t : Train) : Bool := match t.handler with | none => true | some h => agentWaits h

/-- The address that a kill record names for a handler: that of its lowest path. -/
def handlerPc (h : Handler) : DWord := match livePaths h.paths with | (_, p) :: _ => p.pc | [] => 0

/-- WATCHDOG_EXPIRY (R181): a handler or agent has run for 1 ms. -/
def execWatchdogExpiry (core slot : Nat) (s : State) : Out :=
  match (trainAt s core slot).bind fun t => t.handler with
  | none => disabled
  | some h =>
    stepWhen (s.time ≥ h.started + 1000000 && !agentWaits h) (killTrain s core slot 0x17 (handlerPc h) h.hmask)

/-- HALT_ENTRY (R191, R192): a pending halt is taken by the path that it finds Active or Parked; one that names a Free entry
is discarded. -/
def execHaltEntry (core slot : Nat) (s : State) : Out :=
  match trainAt s core slot with
  | none => disabled
  | some t =>
    if !t.pendHalt || t.handler.isSome || t.ended.isSome || (coreAt s core).relock then disabled
    else
      match haltTarget t with
      | none =>
        stepWhen (bitsOf t.dbgctl.toNat 7 4 < 8 && (refillAt t (bitsOf t.dbgctl.toNat 7 4)).isNone)
          (modTrain s core slot clearHalt)
      | some e =>
        match nth none t.paths e with
        | none => disabled
        | some p =>
          stepWhen ((p.pstate == .active || p.pstate == .parked) && p.frozen == .none && (dueTrap t).isNone &&
              (p.stop == .running || p.stop == .awaitingRegion))
            (enterAgent s core slot e 1)

end Sys2Proof.Machine
end

