-- ==== Sys2Proof/Machine/CrossOps.lean ====
section
/-! DEFINITION. The cross-lane and predicate instructions (R119-R124), with the combining tree of R61-R63. -/
namespace Sys2Proof.Machine

/-- The source lane of an LXCH lane, none where its condition fails (R120). -/
def lxchLane (x l b : Nat) : Option Nat :=
  let g := nth 96 [96, 32, 16, 8] (x / 4)
  let base := l - l % g
  match x % 4 with
  | 0 => if b < g then some (base + b) else none
  | 1 => if b ≤ l - base then some (l - b) else none
  | 2 => if l + b < base + g then some (l + b) else none
  | _ => if b < g && (l ^^^ b) < base + g then some (l ^^^ b) else none

/-- LXCH (R120). -/
def execLxch (f : Fields) (s : State) : Out :=
  issue (.lxch f) noEntry (fun c s => c.writeD s c.wide fun l ln =>
    let j := match lxchLane c.f.x.toNat l (c.vb l ln .i32 false) with
      | some j => if c.act.has j then j else l
      | none => l
    c.v j (c.lane j) c.f.a c.wide) s

/-- The active lanes whose predicate A is 1 (R121). -/
def Ctx.votes (c : Ctx) : LaneSet := LaneSet.ofPred fun l => c.act.has l && predOf (c.lane l) c.f.a.toNat

/-- A 96-bit set written to three scalars from `n` on; s61-s63 are the path's mask (R25, R121). -/
def writeBallot (s : State) (r : PathRef) (n : Nat) (m : LaneSet) : State :=
  if n == 61 then maskWrite s r 0 3 m.toNat
  else writeS (writeS s r n true m.toNat) r (n + 2) false (m.toNat / 2 ^ 64)

/-- The effect of VOTE. -/
def voteBody (c : Ctx) (s : State) : State :=
  match c.f.x.toNat with
  | 0 => c.writeP s fun _ _ => c.votes == c.act
  | 1 => c.writeP s fun _ _ => c.votes != 0
  | 2 => writeBallot s c.r c.f.d.toNat c.votes
  | _ => writeS s c.r c.f.d.toNat false c.votes.card
/-- VOTE (R121). -/
def execVote (f : Fields) (s : State) : Out := issue (.vote f) noEntry voteBody s

/-- The active lanes whose v[A] equals that of a lane (R122). -/
def Ctx.matching (c : Ctx) (l : Nat) : List Nat :=
  let x := c.v l (c.lane l) c.f.a c.wide
  c.act.toList.filter fun k => c.v k (c.lane k) c.f.a c.wide == x

/-- MATCH (R122). -/
def execMatch (f : Fields) (s : State) : Out :=
  issue (.match f) noEntry (fun c s => c.writeD s c.wide fun l _ =>
    match c.f.x.toNat with
    | 0 => ((c.matching l).filter fun k => k < l).length
    | 1 => (c.matching l).length
    | _ => (c.matching l).headD l) s

/-! ## REDUCE and SCAN -/

/-- A node of the tree or a fold of nodes: its value unless every lane is inactive, the active lanes that an enabled
exception of its steps names, and all the exceptions of its steps (R61-R63, R123). -/
structure Comb where
  val : Option Nat
  trap : LaneSet
  all : Exc
  deriving DecidableEq, Repr

/-- Whether an operation is a floating one (R123). -/
def Ctx.combFloat (c : Ctx) : Bool := c.f.x.toNat ≥ 6
/-- The type that REDUCE and SCAN combine in (R96, R123). -/
def Ctx.combTy (c : Ctx) : ETy := if c.combFloat then c.ty else viewOf c.ty

/-- One combining step of two values (R63, R107, R123); `l` and `k` choose the random draw, for which the step's lane is the one
that names it, even outside the path (DESIGN CHOICE, unsafe: log entry 83). -/
def Ctx.combine (c : Ctx) (l k x y : Nat) : Nat × Exc :=
  let t := c.combTy
  let w := tyBits t
  let sg := tySigned t
  match c.f.x.toNat with
  | 0 => ((x + y) % 2 ^ w, 0)
  | 1 => (if asView sg w y < asView sg w x then y else x, 0)
  | 2 => (if asView sg w y > asView sg w x then y else x, 0)
  | 3 => (x &&& y, 0)
  | 4 => (x ||| y, 0)
  | 5 => (x ^^^ y, 0)
  | 6 => fAddSub false t (c.env l) k x y
  | 7 => fMinMax false t (c.env l) x y
  | _ => fMinMax true t (c.env l) x y

/-- The identity of the operation (Table Identities of combining operations). -/
def Ctx.combIdentity (c : Ctx) : Nat :=
  let t := c.combTy
  let w := tyBits t
  let sg := tySigned t
  let top := if hasInf t then infMag t else maxMag t
  match c.f.x.toNat with
  | 1 => wrapTo w (intMax sg w)
  | 2 => wrapTo w (intMin sg w)
  | 3 => 2 ^ w - 1
  | 6 => signPat t true
  | 7 => top
  | 8 => signPat t true + top
  | _ => 0

/-- A step of two nodes that covers lanes `lo` to `hi - 1` (R63, R123). -/
def Ctx.combStep (c : Ctx) (l k lo hi : Nat) (x y : Comb) : Comb :=
  let trap := x.trap ||| y.trap
  let all := x.all ||| y.all
  match x.val, y.val with
  | some a, some b =>
    let (v, e) := c.combine l k a b
    let span : LaneSet := LaneSet.ofPred fun i => lo ≤ i && i < hi && c.act.has i
    ⟨some v, if e &&& c.enabled != 0 then trap ||| span else trap, all ||| e⟩
  | some a, none => ⟨some a, trap, all⟩
  | none, v => ⟨v, trap, all⟩

/-- Adjacent pairs of a level combined (R61); `i` is the number of the first node. -/
def Ctx.combPairs (c : Ctx) (e j i : Nat) : List Comb → List Comb
  | x :: y :: rest =>
    c.combStep (i * 2 ^ j) (e + 8 * j) (i * 2 ^ j) ((i + 1) * 2 ^ j) x y :: c.combPairs e j (i + 1) rest
  | l => l

/-- The levels of the tree of element `e`, level 0 first (R61). -/
def Ctx.combLevels (c : Ctx) (e : Nat) : List (List Comb) :=
  let t := c.combTy
  let w := tyBits t
  let leaf (l : Nat) : Comb :=
    if c.act.has l then
      let x := elemOf w (c.v l (c.lane l) c.f.a (w == 64)) e
      ⟨some (if c.combFloat then flushIn t (c.env l).ftz x else x), 0, 0⟩
    else ⟨none, 0, 0⟩
  let l0 := laneIds.map leaf
  let l1 := c.combPairs e 1 0 l0
  let l2 := c.combPairs e 2 0 l1
  let l3 := c.combPairs e 3 0 l2
  let l4 := c.combPairs e 4 0 l3
  [l0, l1, l2, l3, l4, c.combPairs e 5 0 l4]

/-- The covering nodes of a prefix as level and number (R62). -/
def coverNodes (n : Nat) : List (Nat × Nat) :=
  let a := n / 32
  let b := n % 32
  (List.range a).map (fun k => (5, k)) ++
  ([4, 3, 2, 1, 0].filterMap fun j =>
    if b.testBit j then some (j, (32 * a + b / 2 ^ (j + 1) * 2 ^ (j + 1)) / 2 ^ j) else none)

/-- The prefix P(n) of element `e` (R62, R63). -/
def Ctx.combPrefix (c : Ctx) (e : Nat) (levels : List (List Comb)) (n : Nat) : Comb :=
  let node (j k : Nat) : Comb := nth ⟨none, 0, 0⟩ (nth [] levels j) k
  match coverNodes n with
  | [] => ⟨none, 0, 0⟩
  | (j, k) :: rest =>
    (rest.foldl (fun (acc : Nat × Comb) (j, k) =>
      (acc.1 + 1, c.combStep 0 (e + 8 * (5 + acc.1)) 0 ((k + 1) * 2 ^ j) acc.2 (node j k))) (1, node j k)).2

/-- The prefixes P(n) of a list of n, every element packed, with the lanes and exceptions of their steps. -/
def Ctx.prefixes (c : Ctx) (ns : List Nat) : List (Nat × Nat) × LaneSet × Exc :=
  let w := tyBits c.combTy
  let per := (List.range (elemCount w)).map fun e =>
    let levels := c.combLevels e
    ns.map fun n => c.combPrefix e levels n
  let flat := per.flatten
  let vals := (ns.zipIdx).map fun (n, i) =>
    (n, packElems w fun e => (nth ⟨none, 0, 0⟩ (nth [] per e) i).val.getD c.combIdentity)
  (vals, flat.foldl (fun m x => m ||| x.trap) 0, flat.foldl (fun m x => m ||| x.all) 0)

/-- What P(n) of a result list is. -/
def prefixAt (vals : List (Nat × Nat)) (n : Nat) : Nat :=
  match vals.find? fun x => x.1 == n with
  | some x => x.2
  | none => 0

/-- The trap of an enabled exception of a combining step, else what the instruction does (R52, R123). -/
def Ctx.combGuard (c : Ctx) (s : State) (trap : LaneSet) (all : Exc) (done : State) : State :=
  if trap == 0 then done else issuedTrap c s 0x0C trap (all.setWidth 64)

/-- The effect of REDUCE. -/
def reduceBody (c : Ctx) (s : State) : State :=
  let (vals, trap, all) := c.prefixes [96]
  let x := prefixAt vals 96
  let wide := tyBits c.combTy == 64
  c.combGuard s trap all
    (if subOf c.f == 1 then writeS s c.r c.f.d.toNat wide x else c.writeD s wide fun _ _ => x)
/-- REDUCE (R123). -/
def execReduce (f : Fields) (s : State) : Out := issue (.reduce f) noEntry reduceBody s

/-- SCAN (R123). -/
def execScan (f : Fields) (s : State) : Out :=
  issue (.scan f) noEntry (fun c s =>
    let n (l : Nat) : Nat := if subOf c.f == 1 then l else l + 1
    let (vals, trap, all) := c.prefixes (c.act.toList.map n)
    c.combGuard s trap all (c.writeD s (tyBits c.combTy == 64) fun l _ => prefixAt vals (n l))) s

/-! ## Predicates -/

/-- PLUT (R124). -/
def execPlut (f : Fields) (s : State) : Out :=
  issue (.plut f) noEntry (fun c s => c.writeP s fun _ ln =>
    let bit (n : Nat) : Nat := if predOf ln n then 1 else 0
    let i := 4 * bit c.f.a.toNat + 2 * bit c.f.b.toNat + bit (ext0Of c.f).c.toNat
    (c.f.x.toNat + 16 * (subOf c.f % 16)).testBit i) s
/-- P2V (R124). -/
def execP2v (f : Fields) (s : State) : Out :=
  issue (.p2v f) noEntry (fun c s => c.writeD s false fun _ ln =>
    (List.range 32).foldl (fun acc i => if predOf ln (c.f.a.toNat + i) then acc + 2 ^ i else acc) 0) s
/-- V2P (R124). -/
def execV2p (f : Fields) (s : State) : Out :=
  issue (.v2p f) noEntry (fun c s => c.onLanes s fun l ln =>
    let x := c.v l (c.lane l) c.f.a false
    (List.range 32).foldl (fun ln i => setPred ln (c.f.d.toNat + i) (x.testBit i)) ln) s

end Sys2Proof.Machine
end

