-- ==== Sys2Proof/Machine/DrainSteps.lean ====
section
/-! DEFINITION. The drain of ended trains (R149), the crew completion record (R150), what the end of a crew frees (R258, R264,
R278, R284, R293, R352), and the update of DONEOBJ (R348). -/
namespace Sys2Proof.Machine

/-- A service request that an ended train has still in a queue. -/
def svcOf (asid core slot : Nat) (q : SvcReq) : Bool :=
  match q with
  | .complete _ _ _ _ _ a _ => a == asid
  | .arrive _ _ r => r.core == core && r.slot == slot
  | .atomic .. => false

/-- Whether everything that a train issued has completed (R149, R150). -/
def drained (s : State) (core slot : Nat) (t : Train) : Bool :=
  let k := coreAt s core
  let cl := clusterAt s (clusterOf core)
  !(k.txns.any fun x => x.train == t.uid && x.kind != .load && !(x.kind == .atomic && x.perf)) &&
  !(k.wc.any fun e => e.trains.contains t.uid) &&
  !(s.outWrites.any fun w => w.train == t.uid) &&
  !(cl.copies.any fun o => o.train == t.uid) &&
  !(cl.pairs.any fun p => p.queue.any fun o => o.train == t.uid) &&
  !(s.nmcs.any fun q => q.train == t.uid) && !(s.mcsts.any fun o => o.train == t.uid) &&
  !(s.groups.any fun g => g.colls.any fun o => o.train == t.uid) &&
  !(s.clusters.any fun c => c.svc.any (svcOf t.asid core slot))

/-- A crew's record with the statuses of one train (R150). -/
def addStatuses (c : Crew) (t : Train) : Crew :=
  let c := (t.lanes.zipIdx).foldl (fun (c : Crew) (ln, l) =>
    let st := ln.status.toNat
    let ix := 96 * t.tix + l
    let best := c.lanes == 0 || st > c.maxst || (st == c.maxst && ix < c.maxlane)
    { c with maxst := if best then st else c.maxst, maxlane := if best then ix else c.maxlane,
             nzcount := if st == 0 then c.nzcount else c.nzcount + 1, lanes := c.lanes + 1 }) c
  { c with left := c.left - 1,
           flags := c.flags ||| ((if t.killed then 1 else 0) + (if t.idleOut then 2 else 0) + (if t.drainErr then 4 else 0)) }

/-- The 32 bytes of a crew completion record (R150). -/
def recordOf (c : Crew) (time : Nat) : List Byte :=
  leBytes 2 c.maxst ++ leBytes 2 c.flags ++ leBytes 4 c.nzcount ++ leBytes 4 c.maxlane ++ leBytes 4 c.lanes ++
    leBytes 8 time ++ leBytes 4 c.ref.crew ++ leBytes 4 0

/-- A launch by its number. -/
def launchAt (s : State) (id : Nat) : Option Launch := s.launches.find? fun l => l.id == id
/-- Change of a launch. -/
def modLaunch (s : State) (id : Nat) (f : Launch → Launch) : State :=
  { s with launches := s.launches.map fun l => if l.id == id then f l else l }

/-- The place of bytes that the distributor or a core writes for a launch: a leaf of this package that is written without
the window-stack permission. -/
def launchKey (s : State) (asid : Nat) (va : DWord) (n : Nat) : Option Nat :=
  if !canonical va then none
  else match leafCheck s true .write n va (walkAsid s asid va) with
    | .ok k => if (match walkAsid s asid va with | .leaf w _ => w.testBit 5 | _ => false) then none else some k
    | _ => none

/-- The address of a crew's record (R343). -/
def crecVa (p : Packet) (crew : Nat) : DWord := p.crecBase + BitVec.ofNat 64 (32 * crew)

/-- What a failure adds to an update's second number, so that no cause is taken for success. -/
def failMark : Nat := 256

/-- The error that a record gives DONEOBJ (R348): none, or a cause beyond the mark. -/
def recordErr (flags : Nat) : Nat :=
  if flags.testBit 0 then failMark + 0x10 else if flags.testBit 2 then failMark + 0x14 else 0

/-- A completion record is written where the write can perform, and DONEOBJ's update is due (R150, R348). -/
def writeRecord (s : State) (c : Crew) : State :=
  match launchAt s c.ref.launch with
  | none => s
  | some l =>
    let va := crecVa l.pk c.ref.crew
    let s := match launchKey s l.pk.asid va 32 with
      | some k => homeWrite (walkTouch s l.pk.asid va) l.pk.asid k (recordOf c s.time)
      | none => walkTouch s l.pk.asid va
    if l.pk.doneObj == 0 then s
    else modLaunch s l.id fun l => { l with updates := l.updates ++ [(1, recordErr c.flags, va)] }

/-- A launch whose crews have all ended and whose updates have been made is forgotten. -/
def pruneLaunch (s : State) (id : Nat) : State :=
  match launchAt s id with
  | none => s
  | some l =>
    if l.freed && l.updates.isEmpty && l.savedCrews.isEmpty && !(s.crews.any fun c => c.ref.launch == id) then
      { s with launches := s.launches.filter fun x => x.id != id }
    else s

/-- The rosters of a launch that a crew is a member of. -/
def rostersOf (l : Launch) (crew : Nat) : List Nat :=
  (l.pk.rosters.filter fun x => x.2.2.contains crew).map (·.1)

/-- Whether a resident crew of a cluster uses a roster slot. -/
def rosterUsed (s : State) (cl : Nat) (r : RosterSlot) : Bool :=
  match launchAt s r.launch with
  | none => false
  | some l => s.crews.any fun c => c.cluster == cl && c.ref.launch == r.launch && (rostersOf l c.ref.crew).contains r.id

/-- The roster slots that no resident crew of a cluster uses any more are freed (R352). -/
def freeRosters (s : State) (cl : Nat) : State :=
  modCluster s cl fun k => { k with rosters := k.rosters.filter (rosterUsed s cl) }

/-- What a crew holds on its cluster is given up: the accumulators, the latch, the buffers, and its allocation with the
stash chunks, whose masked bytes go home (R258, R264, R278, R284, R293). -/
def releaseCrew (s : State) (c : Crew) : State :=
  let s := ((clusterAt s c.cluster).stash.filter fun ch => ch.crew == c.ref).foldl
    (fun s ch => unmapChunk s c.cluster c.asid ch) s
  let freePair (p : Pair) : Pair := { p with
    accs := p.accs.map fun a => if a.owner == some c.ref then Acc.reset else a,
    latch := if p.latch.valid && p.latch.crew == c.ref then { p.latch with valid := false } else p.latch }
  modCluster s c.cluster fun k => { k with
    pairs := k.pairs.map freePair,
    bufs := k.bufs.map fun o => o.filter fun b => b.crew != c.ref,
    unfenced := k.unfenced.filter fun x => x.crew != c.ref,
    allocs := k.allocs.filter fun a => a.crew != c.ref }

/-- A crew leaves its cluster, which may be idle from now on (R352, R365). -/
def dropCrew (s : State) (c : Crew) : State :=
  let s := freeRosters { s with crews := s.crews.filter fun x => x.ref != c.ref } c.cluster
  if s.crews.any fun x => x.cluster == c.cluster then s
  else modCluster s c.cluster fun k => { k with idleFrom := some s.time }

/-- The end of a crew (R150). -/
def endCrew (s : State) (c : Crew) : State :=
  pruneLaunch (dropCrew (releaseCrew (writeRecord s c) c) c) c.ref.launch

/-- A train's drain is complete (R149, R150): its crew counts it, and ends with its last. -/
def trainGone (s : State) (core : Nat) (t : Train) : State :=
  let s := modCore s core fun k => { k with txns := k.txns.filter fun x => x.train != t.uid }
  match s.crews.find? fun c => c.ref == t.crew with
  | none => s
  | some c =>
    let c := addStatuses c t
    if c.left == 0 then endCrew s c
    else { s with crews := s.crews.map fun x => if x.ref == c.ref then c else x }

/-- The monitors of a slot's paths are dropped. -/
def dropMonitors (s : State) (core slot : Nat) : State :=
  { s with clusters := s.clusters.map fun k => if k.monitors.isEmpty then k else
      { k with monitors := k.monitors.filter fun m => !(m.who.core == core && m.who.slot == slot) } }

/-- TRAIN_DRAIN_COMPLETE (R149): an ended train's slot is freed. -/
def execTrainDrainComplete (core slot : Nat) (s : State) : Out :=
  match trainAt s core slot with
  | none => disabled
  | some t =>
    stepWhen (t.ended.isSome && drained s core slot t)
      (trainGone (modCore (dropMonitors s core slot) core fun k => { k with
        slots := updAt k.slots slot fun _ => none, lastEnd := updAt k.lastEnd slot fun _ => t.endReport }) core t)

/-- TRACKER_DRAIN_COMPLETE (R149): a retirement tracker entry frees itself. -/
def execTrackerDrainComplete (core idx : Nat) (s : State) : Out :=
  match nth none (coreAt s core).trackers idx with
  | none => disabled
  | some x =>
    stepWhen (drained s core 12 x.train)
      (trainGone (modCore s core fun k => { k with trackers := updAt k.trackers idx fun _ => none }) core x.train)

/-- DONEOBJ_UPDATE (R272, R348): the oldest update due is queued at the object's home; while the object's page waits to be
present it is not made, and where the page refuses it, it is lost. -/
def execDoneobjUpdate (launch : Nat) (s : State) : Out :=
  match launchAt s launch with
  | none => disabled
  | some l =>
    match l.updates with
    | [] => disabled
    | (n, cause, addr) :: rest =>
      let s' := modLaunch s launch fun l => { l with updates := rest }
      match leafCheck s true .write 32 l.pk.doneObj (walkAsid s l.pk.asid l.pk.doneObj) with
      | .park _ => disabled
      | .ok k =>
        .next (pruneLaunch (svcPush s' (ownerOf s' k)
          (.complete k n (if cause < failMark then 0 else n) (cause % failMark) addr l.pk.asid [])) launch)
      | _ => .next (pruneLaunch (walkTouch s' l.pk.asid l.pk.doneObj) launch)

end Sys2Proof.Machine
end

