-- ==== Sys2Proof/Machine/PowerSteps.lean ====
section
/-! DEFINITION. The steps of the signal box (R315, R316), the band (R201), the clocks (R317-R320, R366), sampling (R213-R218),
the die bucket (R202, R362, R363), power gating (R365), the governor and ballast (R378-R384), and the pin of the thrash
detector (R377). -/
namespace Sys2Proof.Machine

/-! ## The signal box -/

/-- The units of a kind of request (R315). -/
def SbKind.units (k : SbKind) : Nat := match k with | .matrix _ _ => 6 | .copy _ => 1 | .band _ => 1
/-- The place of a kind among requests of one age and core (R316). -/
def SbKind.rank (k : SbKind) : Nat := match k with | .matrix _ _ => 0 | .copy _ => 1 | .band _ => 2

/-- Whether a request comes before another (R316). -/
def SbReq.before (a b : SbReq) : Bool :=
  if a.time != b.time then a.time < b.time else if a.core != b.core then a.core < b.core else a.kind.rank < b.kind.rank

/-- The oldest request. -/
def oldestReq (l : List SbReq) : Option SbReq :=
  match l with
  | [] => none
  | x :: r => some (r.foldl (fun b y => if y.before b then y else b) x)

/-- The cores of a cluster. -/
def coresOf (cl : Nat) : List Nat := (List.range 6).map fun i => 6 * cl + i

/-- The units that a cluster holds (R315). -/
def unitsHeld (s : State) (cl : Nat) : Nat :=
  let k := clusterAt s cl
  6 * ((k.pairs.flatMap (·.queue)).filter (·.granted)).length + (k.copies.filter (·.granted)).length +
    (coresOf cl).foldl (fun n c => n + (coreAt s c).band) 0

/-- A request is granted (R201, R265, R316). -/
def grantReq (s : State) (cl : Nat) (q : SbReq) : State :=
  let s := modCluster s cl fun k => { k with sbq := k.sbq.erase q }
  match q.kind with
  | .matrix _ id => modCluster s cl fun k => { k with pairs := k.pairs.map fun p => { p with
      queue := p.queue.map fun o => if o.id == id then { o with granted := true, waiting := false } else o } }
  | .copy id => modCluster s cl fun k => { k with
      copies := k.copies.map fun o => if o.id == id then { o with granted := true, waiting := false } else o }
  | .band core => modCore s core fun k => { k with band := k.band + 1, raising := false }

/-- SIGNAL_BOX_GRANT (R315, R316): the oldest request is granted once it fits. -/
def execSignalBoxGrant (cluster : Nat) (s : State) : Out :=
  match oldestReq (clusterAt s cluster).sbq with
  | none => disabled
  | some q => stepWhen (unitsHeld s cluster + q.kind.units ≤ (clusterAt s cluster).curbud) (grantReq s cluster q)

/-- The heavy instructions in their beats in a core's cycle (R13, R201). -/
def heavyNow (k : Core) : Nat := (k.heavy.filter fun t => t > k.cycle).length

/-- BAND_RENEWAL (R201): the band falls to the most that the interval just ended held at once. -/
def execBandRenewal (core : Nat) (s : State) : Out :=
  stepWhen (core < 288 && (coreAt s core).renewIn == 0)
    (modCore s core fun k => { k with band := min k.band k.bandMax, bandMax := heavyNow k, renewIn := 512 })

/-! ## Cluster cycles and the die bucket -/

/-- CORESHARE of a die. -/
def coreShare (d : Die) : Nat := d.power.toNat % 256
/-- GATEDLY of a die in ns. -/
def gateDelay (d : Die) : Nat := 1000 * bitsOf d.power.toNat 23 8

/-- The allotments of a die's cores, which follow RD, CORESHARE and the count of ungated cores (R362). -/
def setAllots (s : State) (die : Nat) : State :=
  let mine (i : Nat) : Bool := dieOf i == die
  let nact := ((s.cores.zipIdx).filter fun (k, i) => mine i && !k.gated).length
  let d := dieAt s die
  let a := coreShare d * d.rd / (256 * nact)
  { s with cores := s.cores.mapIdx fun i k => if mine i then { k with allot := if k.gated then 0 else a } else k }

/-- The cores of a die in the order of its rotation (R363). -/
def rotation (die rot : Nat) : List Nat := (List.range 72).map fun i => 72 * die + (rot + i) % 72

/-- What the bucket pays each core: in full while it covers the draw, then what is left, then nothing (R363). -/
def payCores (s : State) (order : List Nat) (bucket : Int) : Int × List (Nat × Nat) :=
  order.foldl (fun (acc : Int × List (Nat × Nat)) c =>
    let k := coreAt s c
    let draw := if k.gated then 0 else min k.allot (2 ^ 20 - k.balance)
    let pay := min draw acc.1.toNat
    if pay == 0 then acc else (acc.1 - pay, (c, pay) :: acc.2)) (bucket, [])

/-- A cluster cycle's deposit and refills on a die (R202, R362, R363): what units owe is taken first, the bucket being at its
floor while they do. -/
def fillDie (s : State) (die : Nat) : State :=
  let d := dieAt s die
  let taken := min d.rd (2 ^ 26 - d.bucket).toNat
  let late := min d.owed taken
  let (bucket, pays) := payCores s (rotation die d.rot) (d.bucket + taken - late)
  let s := pays.foldl (fun s (c, n) => modCore s c fun k => { k with balance := k.balance + n }) s
  modDie s die fun d => { d with
    bucket := bucket, rot := (d.rot + 1) % 72, paidIn := d.paidIn + taken, owed := d.owed - late }

/-- Whether a cluster has operations that may ask for grants. -/
def engineWork (k : Cluster) : Bool := !k.copies.isEmpty || k.pairs.any fun p => !p.queue.isEmpty

/-- Granules that a die homes fail in their storage, or suffer an error that their code corrects: which and when is no matter of
the specification (R369). -/
def failStorage (s : State) (die : Nat) : State :=
  let mine (l : List Nat) : List Nat := l.filter fun g => physOk s (64 * g) 64 && homeDie (64 * g) == die
  { s with
    free := s.free + 1,
    latent := s.latent ++ (mine (Config.failing s.free)).filter fun g => !s.latent.contains g && !s.poison.contains g,
    correct := s.correct ++ (mine (Config.fading s.free)).filter fun g => !s.correct.contains g }

/-- CLUSTER_CYCLE (R362, R363): one cluster cycle of a die; `dt` is what TIME advances by. -/
def execClusterCycle (die dt : Nat) (s : State) : Out :=
  let s' := failStorage (fillDie { s with time := s.time + dt } die) die
  let s' := { s' with clusters := s'.clusters.mapIdx fun i k => if i / 12 == die then { k with cycle := k.cycle + 1 } else k }
  stepWhen (die < 4 && s.boot != .off)
    ((((List.range 12).map fun i => 12 * die + i).filter fun c => engineWork (clusterAt s' c)).foldl requestAll
      (settleShoots (flushPorts s' die)))

/-- CLOCK_STRETCH (R366): a period is stretched, which no rule but that of TIME sees. -/
def execClockStretch (die : Nat) (s : State) : Out :=
  stepWhen (die < 4) (modDie s die fun d => { d with stretched := d.stretched + 1 })

/-! ## Ratios -/

/-- The ratio of a core (R318). -/
def ratioOf (s : State) (core : Nat) : Nat := bitsOf ((clusterAt s (clusterOf core)).ratio.toNat) (4 * (core % 6) + 3) (4 * (core % 6))

/-- A core's ratio is set, and it stops while its clock relocks (R318, R320). -/
def setRatio (s : State) (core n : Nat) : State :=
  if ratioOf s core == n then s
  else
    let lo := 4 * (core % 6)
    let put (r : Word) : Word := BitVec.ofNat 32 (r.toNat - bitsOf r.toNat (lo + 3) lo * 2 ^ lo + n * 2 ^ lo)
    modCore (modCluster s (clusterOf core) fun k => { k with ratio := put k.ratio }) core fun k => { k with relock := true }

/-- The ratio that a window's counts ask for (R319). -/
def nextRatio (policy : Nat) (iss isl mem n : Nat) : Nat :=
  let lo := bitsOf policy 19 16
  let hi := bitsOf policy 23 20
  let sum := iss + isl + mem
  let sens := if sum == 0 then 0 else min 255 (256 * (iss + isl) / sum)
  if !policy.testBit 24 then hi
  else if n < lo then lo
  else if n > hi then hi
  else if sens < bitsOf policy 7 0 && n > lo then n - 1
  else if sens ≥ bitsOf policy 15 8 && n < hi then n + 1
  else n

/-- SENSITIVITY_WINDOW_END (R319): a window of 100 µs ends. -/
def execSensitivityWindowEnd (core : Nat) (s : State) : Out :=
  let k := coreAt s core
  let n := nextRatio (clusterAt s (clusterOf core)).policy.toNat k.iss k.isl k.mem (ratioOf s core)
  stepWhen (core < 288 && core % 6 != 5 && s.time ≥ k.winEnd)
    (modCore (setRatio s core n) core fun k => { k with iss := 0, isl := 0, mem := 0, winEnd := k.winEnd + 100000 })

/-- RATIO_RELOCK_DONE (R320): the core resumes, and takes the traps that have arrived meanwhile. -/
def execRatioRelockDone (core : Nat) (s : State) : Out :=
  stepWhen (coreAt s core).relock
    ((List.range 12).foldl (fun s slot => takeDelayed s core slot) (modCore s core fun k => { k with relock := false }))

/-! ## Sampling -/

/-- The stall reason of a path that has not issued in this cycle (R211, R217). -/
def reasonOf (s : State) (core : Nat) (t : Train) (handler : Bool) (p : Path) : Nat :=
  if p.cold then 0x0B
  else if (t.preempt.isSome && (!handler || handlerQuiet t)) || p.stop != .running then 0x17
  else if p.pstate == .halted || p.frozen == .halt then 0x12
  else if p.frozen != .none || p.trapDue.isSome || p.pstate == .trapped then 0x11
  else if (coreAt s core).relock then 0x13
  else if p.pstate == .parked || p.stall == 0x02 then p.stall.toNat
  else if p.fetched.isNone then 0x0B
  else if p.delay > 0 then 0x0C
  else if p.stall == 0 then 0x0E
  else p.stall.toNat

/-- The path of a train that a sample reports where none has issued (R213): the Active or handler path with the highest
waiting count, the lower entry first; else the lowest entry. -/
def sampledPath (t : Train) : Option (Nat × Bool × Path) :=
  let own := (livePaths t.paths).map fun (i, p) => (i, false, p)
  let hand := match t.handler with
    | some h => (livePaths h.paths).map fun (i, p) => (i, true, p)
    | none => []
  let cands := hand ++ own.filter fun (_, _, p) => p.pstate == .active && p.frozen == .none
  let best := cands.foldl (fun (b : Option (Nat × Bool × Path)) x =>
    match b with
    | none => some x
    | some y => if x.2.2.waitc > y.2.2.waitc || (x.2.2.waitc == y.2.2.waitc && x.1 < y.1) then some x else b) none
  best <|> (hand ++ own).head?

/-- The 32 bytes of a sample record (R214). -/
def sampleBytes (time : Nat) (pc : DWord) (mask : LaneSet) (reason : Nat) (handler : Bool) (slot path core : Nat) :
    List Byte :=
  leBytes 8 time ++ leBytes 8 pc.toNat ++ leBytes 12 mask.toNat ++
    leBytes 1 (reason + (if reason == 0 then 32 else 0) + (if handler then 64 else 0)) ++
    leBytes 1 (slot + 16 * (path % 8)) ++ leBytes 2 (core % 6 + 8 * (core / 6))

/-- The record of a visit to a slot (R211, R215-R217): a path that issued in this cycle comes before everything else. -/
def sampleOf (s : State) (core slot : Nat) : List Byte :=
  match (coreAt s core).issued.filter fun x => x.1.slot == slot with
  | some (r, pc, mask) => sampleBytes s.time pc mask 0x00 r.handler slot r.entry core
  | none =>
    match trainAt s core slot with
    | none =>
      (match nth none (coreAt s core).lastEnd slot with
       | some e => sampleBytes s.time e.pc e.mask 0x1F false slot e.entry core
       | none => sampleBytes s.time 0 0 0x1E false slot 0 core)
    | some t =>
      match t.ended, t.endReport with
      | some how, some e => sampleBytes s.time e.pc e.mask (if how == .byTail then 0x18 else 0x1F) false slot e.entry core
      | _, _ =>
        match sampledPath t with
        | none => sampleBytes s.time 0 0 0x0B false slot 0 core
        | some (i, h, p) => sampleBytes s.time p.pc p.mask (reasonOf s core t h p) h slot i core

/-- Whether a slot is the conductor's: slot 10 of core 5 of cluster 0, from start-up on (R387, R392). -/
def conductorSlot (s : State) (core slot : Nat) : Bool := core == 5 && slot == 10 && s.boot == .running

/-- The record of a visit to the conductor's slot: a path that waits in WAITADDR while no doorbell has woken it, and one of vendor
code, which the specification does not give, otherwise: its PC, its mask, its path and its stall reason are free (R213, R387;
DESIGN CHOICE: log entry 110). -/
def conductorSample (s : State) : List Byte × State :=
  let (pc, s) := drawFree s
  let (m, s) := drawFree s
  let (w, s) := drawFree s
  let reason := if !s.control.awake then 0x09 else bitsOf w.toNat 11 4 % 0x18
  (sampleBytes s.time (BitVec.ofNat 64 (4 * pc.toNat)) (BitVec.ofNat 96 m.toNat) reason false 10 (bitsOf w.toNat 2 0) 5, s)

/-- The record of a visit to any slot. -/
def visitOf (s : State) (core slot : Nat) : List Byte × State :=
  if conductorSlot s core slot then conductorSample s else (sampleOf s core slot, s)

/-- A slot's last end has been reported, where no train holds it (R216). -/
def endSeen (s : State) (core slot : Nat) : State :=
  if (trainAt s core slot).isNone then modCore s core fun k => { k with lastEnd := updAt k.lastEnd slot fun _ => none } else s

/-- One more lost record (R212). -/
def countDrop (s : State) (core : Nat) : State :=
  modCore s core fun k => { k with
    sampctl := if k.sampctl.toNat / 2 ^ 16 == 2 ^ 16 - 1 then k.sampctl else k.sampctl + 0x10000 }

/-- A record goes to the core's ring, or is lost: the ring is full, is not placed, or has an uncorrectable error (R218). It costs
no tokens, so that it makes no core's refill shorter (R219). -/
def storeSample (s : State) (core : Nat) (rec_ : List Byte) : State :=
  let k := coreAt s core
  if sampFull s k then countDrop s core
  else
    match k.ring with
    | none => countDrop s core
    | some (base, size) =>
      let head := memLe s.mem base 4
      let at_ := base + 64 + 32 * (head % size)
      if s.latent.contains (at_ / 64) then countDrop (findError s 0xFFFFFFFF (at_ / 64)) core
      else
        let t := homeWrite (homeWrite s 0xFFFFFFFF at_ rec_) 0xFFFFFFFF base (leBytes 4 ((head + 1) % 2 ^ 32))
        { t with dies := s.dies }

/-- SAMPLE (R213-R218): one sample every 2^K core cycles, the slots in rotation; a sample that a full ring misses visits no
slot. -/
def execSample (core : Nat) (s : State) : Out :=
  let k := coreAt s core
  let again (s : State) : State := modCore s core fun k => { k with sampIn := 2 ^ bitsOf k.sampctl.toNat 5 1 }
  stepWhen (core < 288 && k.sampctl.getLsbD 0 && k.sampIn == 0)
    (if sampFull s k then again (countDrop s core)
     else
       modCore (again (endSeen (storeSample (visitOf s core k.sampSlot).2 core (visitOf s core k.sampSlot).1) core k.sampSlot)) core fun k =>
         { k with sampSlot := (k.sampSlot + 1) % 12 })

/-! ## Gating -/

/-- Change of the five cores of a cluster that gate (R365). -/
def modGated (s : State) (cl : Nat) (f : Core → Core) : State :=
  { s with cores := s.cores.mapIdx fun i k => if i / 6 == cl && i % 6 != 5 then f k else k }

/-- The masked bytes of the five gating cores go home (R241, R365). -/
def writeBackCores (s : State) (cl : Nat) : State :=
  let (mine, rest) := s.l1.partition fun x => x.core / 6 == cl && x.core % 6 != 5
  mine.foldl (fun s x => if x.mask == 0 then s else homeMask s 0xFFFFFFFF x.granule x.mask) { s with l1 := rest }

/-- GATE_START (R365): a cluster that has been idle for GATEDLY starts to gate. -/
def execGateStart (cluster : Nat) (s : State) : Out :=
  let k := clusterAt s cluster
  let d := dieAt s (cluster / 12)
  match k.idleFrom with
  | none => disabled
  | some t =>
    stepWhen (cluster < 48 && k.gate == .on && d.power.getLsbD 24 && s.time ≥ t + gateDelay d &&
        !(s.crews.any fun c => c.cluster == cluster))
      (setAllots (modCluster (modGated (writeBackCores s cluster) cluster fun c => { c with gated := true }) cluster
        fun k => { k with gate := .gating }) (cluster / 12))

/-- GATE_COMPLETE (R365): the five cores power down, and their caches and translations with them. -/
def execGateComplete (cluster : Nat) (s : State) : Out :=
  stepWhen ((clusterAt s cluster).gate == .gating)
    (modCluster (modGated s cluster fun c => { c with
      tlb := [], upper := [], constants := [], tiles := [], icache := [], balance := 0, band := 0 }) cluster
      fun k => { k with gate := .gated })

/-- UNGATE_COMPLETE (R202, R365): power is stable; the cores rejoin with balances 0, and the crews assigned meanwhile, with
their trains on every core of the cluster, count as placed now. -/
def execUngateComplete (cluster : Nat) (s : State) : Out :=
  let s' := modGated s cluster fun c => { c with gated := false, balance := 0 }
  let s' := { s' with
    cores := s'.cores.mapIdx fun i c => if i / 6 == cluster then
      { c with slots := c.slots.map (Option.map fun t => { t with stamp := s.time }) } else c
    crews := s'.crews.map fun c => if c.cluster == cluster && c.awaitGate then
      { c with awaitGate := false, placed := s.time } else c }
  stepWhen ((clusterAt s cluster).gate == .ungating)
    (setAllots (modCluster s' cluster fun k => { k with gate := .on }) (cluster / 12))

/-! ## The governor -/

/-- Tokens of one watt in a step (R378). -/
def stepTok : Nat := 10 ^ 6

/-- SLEW, PCAP and PMIN in tokens of a step (R380). -/
def slewTok (s : State) : Nat := stepTok * (s.rampset.toNat % 256)
/-- 4 × PCAP. -/
def pcapTok (s : State) : Nat := stepTok * (4 * bitsOf s.rampset.toNat 17 8)
/-- 4 × PMIN. -/
def pminTok (s : State) : Nat := stepTok * (4 * bitsOf s.rampset.toNat 27 18)

/-- A die's demand at a step's end (R379): what it spent, the reservations not covered, and a balance below zero. -/
def dieDemand (s : State) (die : Nat) : Nat :=
  let d := dieAt s die
  let short := (s.cores.zipIdx).foldl (fun n (k, i) => match k.resv with
    | some v => if dieOf i == die then n + (v.amount - k.balance) else n
    | none => n) 0
  d.spent + short + (-d.bucket).toNat

/-- The line of an intent at a time in ns (R379), in tokens. -/
def intentLine (s : State) (x : Intent) : Int :=
  let t : Int := s.govAt
  if t < x.start then (stepTok * x.watts : Nat) - (slewTok s : Int) * (x.start - t) / 1000
  else if t ≤ x.start + 20000 then (stepTok * x.watts : Nat)
  else 0

/-- The highest line of the accepted intents (R379). -/
def intentTop (s : State) : Int := if intEn s then s.intents.foldl (fun m x => max m (intentLine s x)) 0 else 0

/-- The lower and upper bound of a value. -/
def clampInt (lo hi x : Int) : Int := max lo (min hi x)

/-- The governor's target, and whether an intent line set it (R379). -/
def govTarget (s : State) (demand : Nat) : Int × Bool :=
  let own : Int := (demand + slewTok s : Nat) + stepTok * 2 * (600 - (s.bank / 10 ^ 9 : Nat) : Int)
  (clampInt (pminTok s) (pcapTok s) (max own (intentTop s)), intentTop s > own)

/-- The state that the governor enters (R381). -/
def govNext (slew p t : Int) (byIntent : Bool) : GovState :=
  if t - p ≤ slew && p - t ≤ slew then .steady
  else if t > p then (if byIntent then .preRamp else .rising)
  else .falling

/-- The surplus of a die in the step that ends (R378). -/
def dieSurplus (d : Die) : Nat := d.share - d.paidIn

/-- Whether a die has a cluster that is On, whose idle parts the self-test uses (R383). -/
def dieOn (s : State) (die : Nat) : Bool := (List.range 12).any fun i => (clusterAt s (12 * die + i)).gate == .on

/-- The ballast that a die takes of its surplus, class by class: scrub, self-test, prefetch (R383). -/
def ballastOf (s : State) (die : Nat) : Nat × Nat :=
  let x := dieSurplus (dieAt s die)
  let scrub := min x (200 * stepTok)
  let test := if dieOn s die then min (x - scrub) (600 * stepTok) else 0
  let pre := if (dieAt s die).hints.isEmpty then 0 else min (x - scrub - test) (100 * stepTok)
  (scrub + test + pre, pre)

/-- Whether the governor has yet to take its first step since reset. -/
def govFirst (s : State) : Bool := s.govAt == 0

/-- The charge of the banks after a step (R382): the input less what the dies were paid, the ballast, and what the balances
fell below zero. No step has run before the first. -/
def bankAfter (s : State) : Nat :=
  if govFirst s then s.bank else
  let used := (List.range 4).foldl (fun n k =>
    let d := dieAt s k
    n + d.paidIn + (ballastOf s k).1 + ((-d.bucket).toNat - d.below)) 0
  min (1200 * 10 ^ 9) (s.bank + s.rate - used)

/-- The hints that ballast has served: as many of the oldest as it pleases (R384). -/
def serveHints (s : State) (die : Nat) : State :=
  if (ballastOf s die).2 == 0 then s
  else
    let (w, s) := drawFree s
    modDie s die fun d => { d with hints := d.hints.drop (w.toNat % (d.hints.length + 1)) }

/-- The weight of a die in a step (R378). -/
def dieWeight (s : State) (rate die : Nat) : Nat := max (16 * dieDemand s die) rate

/-- A new step begins on a die: its share, its deposit for each cycle, its allotments (R362, R378). -/
def openDie (s : State) (share die : Nat) : State :=
  setAllots (modDie s die fun d => { d with
    share := share, rd := share / (100 * (d.clock.toNat % 32)), spent := 0, paidIn := 0, below := (-d.bucket).toNat }) die

/-- The current budget of the signal boxes (R315, R379). -/
def budgetOf (s : State) (rate : Nat) : Nat := max 6 (min 63 (63 * rate / pcapTok s))

/-- GOVERNOR_STEP (R378, R379, R381-R383): the banks, the target, P, the shares and the budgets; `trip` tells that a die is
at its trip limit. The first step after reset keeps P at its reset value (R315). DEDUCED: log entry 92. -/
def execGovernorStep (trip : Bool) (s : State) : Out :=
  let dies := List.range 4
  let bank := bankAfter s
  let demands := dies.map (dieDemand s)
  let s1 := { dies.foldl serveHints s with bank := bank }
  let (t0, byIntent) := govTarget s1 (demands.foldl (· + ·) 0)
  let p : Int := s.rate
  let slew : Int := slewTok s
  let t := if trip then clampInt (pminTok s) (pcapTok s) (p - slew) else t0
  let rate := if govFirst s then s.rate else (p + clampInt (-slew) slew (t - p)).toNat
  let ws := dies.map (dieWeight s rate)
  let sum := ws.foldl (· + ·) 0
  let s2 := dies.foldl (fun s k => openDie s (rate * nth 0 ws k / sum) k) s1
  stepWhen (s.time ≥ s.govAt && s.boot != .off)
    { s2 with
      rate := rate, gov := if govFirst s then .steady else if trip then .falling else govNext slew p t byIntent, govAt := s.govAt + 1000,
      intents := s.intents.filter fun x => !x.ended s.govAt,
      clusters := s2.clusters.map fun k => { k with curbud := budgetOf s rate } }

/-- AGEIND_UPDATE (R394). -/
def execAgeindUpdate (die : Nat) (value : Word) (s : State) : Out :=
  stepWhen (die < 4) (modDie s die fun d => { d with ageind := value })

/-! ## Ballast -/

/-- The next granule of a die's scrub rotation (R384). -/
def nextScrub (d : Die) (die : Nat) : Nat :=
  match ((List.range 64).map fun i => d.scrubAt + i).find? fun g => g < 0x9000000000 / 64 && homeDie (64 * g) == die with
  | some g => g
  | none => 12 * die

/-- SCRUB_PASS (R369, R384): a granule is read; a corrected one is rewritten, an uncorrectable one is only logged. -/
def execScrubPass (die granule : Nat) (s : State) : Out :=
  let s' := modDie { s with correct := s.correct.filter (· != granule) } die fun d => { d with scrubAt := granule + 1 }
  let s' := if s.latent.contains granule && !s.logged.contains granule then
      logError { s' with logged := granule :: s'.logged } (granule * 64) 1 (granule / 4 % 12) (errDetail (granule * 64))
        0xFFFFFFFF
    else s'
  stepWhen (die < 4 && granule == nextScrub (dieAt s die) die) s'

/-- PREFETCH_HINT_EXPIRY (R384): postings older than 100 µs are dropped. -/
def execPrefetchHintExpiry (die : Nat) (s : State) : Out :=
  let old (h : Nat × Nat) : Bool := s.time > h.2 + 100000
  stepWhen (die < 4 && (dieAt s die).hints.any old)
    (modDie s die fun d => { d with hints := d.hints.filter fun h => !(old h) })

/-- SELF_TEST_PATTERN (R384): a pattern runs through an idle part of an On cluster; a failure is logged, and remapped at the
next reset. -/
def execSelfTestPattern (core lane : Nat) (failed : Bool) (s : State) : Out :=
  let fail : State :=
    let (lo, s) := drawFree s
    let (hi, s) := drawFree s
    logError { s with badLanes := (core, lane) :: s.badLanes } (DWord.ofHalves lo hi).toNat 3 (32 + clusterOf core)
      (core % 6 * 96 + lane) 0xFFFFFFFF
  stepWhen (core < 288 && lane < 96 && (clusterAt s (clusterOf core)).gate == .on) (if failed then fail else s)

/-! ## The thrash detector -/

/-- The key of the leaf that maps an address, with the leaf and its page's size in bits (R229). -/
def findLeaf (s : State) (va : Nat) : Nat → Nat → Option (Nat × Nat × Nat)
  | l, table =>
    let k := table + 8 * levelIndex va l
    match walkEntry s none va table l with
    | .inl (.leaf w bits) => some (k, w, bits)
    | .inl _ => none
    | .inr next => match l with | 0 => none | n + 1 => findLeaf s va n next

/-- The leaf of an ASID that maps an address. -/
def leafOf (s : State) (asid : Nat) (va : DWord) : Option (Nat × Nat × Nat) :=
  if ctxValid s asid && canonical va then findLeaf s va.toNat 3 (ctxRoot s asid) else none

/-- THROTTLE in ns (R377). -/
def throttleNs (s : State) : Nat := 1000000 * (s.migCtl.toNat / 2 ^ 16)

/-- THRASH_UNPIN (R377): the detector clears a PIN that it set, where PIN is still 1. -/
def execThrashUnpin (asid : Nat) (va : DWord) (s : State) : Out :=
  match s.thrash.find? fun x => x.asid == asid && x.page == va.toNat && x.pinned.isSome with
  | none => disabled
  | some x =>
    let s' := { s with thrash := s.thrash.map fun y => if y == x then { y with pinned := none } else y }
    let s' := match leafOf s asid va with
      | some (k, w, _) => if w.testBit 8 then homeWrite s' asid k (leBytes 8 (w - 256)) else s'
      | none => s'
    stepWhen (s.time ≥ (x.pinned.getD 0) + throttleNs s) s'

end Sys2Proof.Machine
end

