-- ==== Sys2Proof/Machine/PreemptSteps.lean ====
section
/-! DEFINITION. Pre-emption: how a request stops the paths of a train (R189), the save areas of a train and of a crew (R190,
R355), their writing, and what a restore takes from them (R21, R187, R236, R282, R308, R314, R441). -/
namespace Sys2Proof.Machine

/-! ## Stopping the paths -/

/-- Whether a pre-emption may stop a train's paths now (R189, R320). -/
def mayStop (s : State) (core : Nat) (t : Train) : Bool :=
  t.preempt.isSome && t.ended.isNone && !(coreAt s core).relock && handlerQuiet t &&
  !((livePaths t.paths).any fun (_, p) => p.trapDue.isSome)

/-- Whether a path is parked at a barrier, which its save keeps (R314). -/
def atBarrier (p : Path) : Bool :=
  p.pstate == .parked && match p.wake with | some (.barrier ..) => true | _ => false

/-- Whether a request stops a running path at its region, to be replayed from there (R189, R314). -/
def stopsAtRegion (p : Path) : Bool :=
  p.stop == .running && p.pstate != .halted && p.pstate != .trapped && !p.region.broken && !atBarrier p

/-- What a request does to a path that it finds running (R189): a restartable one stops at its region, a parked or halted one
in full, another runs on to its next REGION. -/
def stopPath (p : Path) : Path :=
  if p.stop != .running then p
  else if p.pstate == .halted || p.pstate == .trapped then { p with stop := .inFull }
  else if stopsAtRegion p then
    { p with stop := .atRegion, pending := [], xfers := [], wake := none, unf := none, errDue := false, stall := 0x17,
             pstate := .active }
  else if p.pstate == .parked then { p with stop := .inFull }
  else { p with stop := .awaitingRegion }

/-- The results that stopping a train discards (R189). -/
def discarded (t : Train) : List Nat :=
  (livePaths t.paths).flatMap fun (_, p) =>
    if stopsAtRegion p then p.pending.map (·.id) else []

/-- Whether every path of a train has stopped. -/
def allHeld (t : Train) : Bool := (livePaths t.paths).all fun (_, p) => p.stop == .atRegion || p.stop == .inFull

/-- Whether a train's paths are all stopped, and its stores and results are drained (R189). -/
def trainDrained (s : State) (core slot : Nat) (t : Train) : Bool :=
  let k := coreAt s core
  t.ended.isNone && t.preempt.isSome && handlerQuiet t && allHeld t &&
  ((livePaths t.paths).all fun (_, p) => p.trapDue.isNone && p.pending.isEmpty) &&
  (t.refills.all fun r => r.parked) &&
  !(k.txns.any fun x => x.train == t.uid && x.kind != .load && x.kind != .engine && !(x.kind == .atomic && x.perf)) &&
  !(k.wc.any fun e => e.trains.contains t.uid) && !(s.outWrites.any fun w => w.train == t.uid) &&
  !(s.clusters.any fun c => c.svc.any fun q => match q with
    | .arrive _ _ r => r.core == core && r.slot == slot
    | _ => false)

/-- The live paths of a train whose windows a save flushes (R170). An agent's paths run in the halted path's window and stand in
its place: the window is where the agent has left it, which the specification does not say (DESIGN CHOICE, unsafe: log entry
105). -/
def savedPaths (core slot : Nat) (t : Train) : List (PathRef × Path) :=
  let own := (livePaths t.paths).map fun (e, p) => (⟨core, slot, e, false⟩, p)
  match t.handler with
  | some h => own.filter (fun x => x.1.entry != h.entry) ++ (livePaths h.paths).map fun (e, p) => (⟨core, slot, e, true⟩, p)
  | none => own

/-- The flush of a path for a save, as of WFLUSH (R165, R170): its resident callers' spills are demanded of the Tender, and
once they are made none is resident. -/
def flushPath (s : State) (r : PathRef) : State :=
  match pathAt s r with
  | none => s
  | some p =>
    let m := (flushJobs p p.mask).filter fun j => !p.xfers.contains j
    if resOf p == 0 || p.flushWait then s
    else if m.isEmpty then modPath s r fun p => { p with wbase := mkWbase (depthOf p) 0, xfers := [] }
    else enqueueJobs s r m

/-- A train under a pre-emption request stops the paths that it can, notes when the last has stopped, lets its
write-combining entries drain (R407), and flushes its windows once it has drained (R170, R189, R282). -/
def progressStop (s : State) (core slot : Nat) : State :=
  match trainAt s core slot with
  | none => s
  | some t =>
    if !mayStop s core t then s
    else
      let gone := discarded t
      let stops (r : PathRef) : Bool := match pathAt s r with
        | some p => stopsAtRegion p
        | none => false
      let s := modCore s core fun k => { k with
        txns := k.txns.filter fun x => !(x.kind == .load && gone.contains x.id),
        tender := k.tender.filter fun j => j.started || j.kind == .refill || j.who.slot != slot || !stops j.who }
      let s := modTrain s core slot fun t =>
        let t := { t with paths := t.paths.map (Option.map stopPath) }
        if t.allStopped.isNone && allHeld t then { t with allStopped := some s.time } else t
      let s := match trainAt s core slot with
        | some t => if allHeld t then wcDrain s core fun e => e.trains.contains t.uid else s
        | none => s
      match trainAt s core slot with
      | some t => if trainDrained s core slot t then (savedPaths core slot t).foldl (fun s x => flushPath s x.1) s else s
      | none => s

/-- The places of a crew's trains that hold their slots. -/
def trainsOf (s : State) (crew : CrewRef) : List (Nat × Nat) :=
  (s.cores.zipIdx).flatMap fun (k, i) => (k.slots.zipIdx).filterMap fun (o, j) => match o with
    | some t => if t.crew == crew then some (i, j) else none
    | none => none

/-- The transfers of a path that have not started are not made: its instruction counts as not issued (R170). -/
def dropJobs (s : State) (r : PathRef) : State :=
  modCore s r.core fun k => { k with tender := k.tender.filter fun j => j.who != r || j.started || j.kind == .refill }

/-- REGION_STOP_TIMEOUT (R189): a path that has reached no REGION within 100 µs stops in full. -/
def execRegionStopTimeout (r : PathRef) (s : State) : Out :=
  match (trainAt s r.core r.slot).bind (·.preempt), pathAt s r with
  | some since, some p =>
    stepWhen (!r.handler && p.stop == .awaitingRegion && s.time ≥ since + 100000)
      (progressStop (modPath (dropJobs s r) r fun p => { p with stop := .inFull, xfers := [] }) r.core r.slot)
  | _, _ => disabled

/-! ## Save areas -/

/-- The key of bytes of a save area: its page has WS = 1 and lies on this package (R157, R190). -/
def wsKey (s : State) (asid : Nat) (va : DWord) (n : Nat) : Option Nat :=
  if !canonical va then none
  else match walkAsid s asid va with
    | .leaf w bits =>
      if w.testBit 5 && !w.testBit 10 && physOk s (leafKey w bits va) n then some (leafKey w bits va) else none
    | _ => none

/-- The parts of a byte range that lie in one 256-byte line each: offset and length. -/
def lineParts (va : DWord) (n : Nat) : List (Nat × Nat) :=
  let a := va.toNat
  if n == 0 then []
  else (List.range ((a + n - 1) / 256 - a / 256 + 1)).map fun j =>
    let lo := max a ((a / 256 + j) * 256)
    let hi := min (a + n) ((a / 256 + j + 1) * 256)
    (lo - a, hi - lo)

/-- Bytes written to a save area; those on a page that is not there to take them are lost. -/
def areaPut (s : State) (asid : Nat) (va : DWord) (bs : List Byte) : State :=
  (lineParts va bs.length).foldl (fun s (off, n) =>
    let s := walkTouch s asid (va + BitVec.ofNat 64 off)
    match wsKey s asid (va + BitVec.ofNat 64 off) n with
    | some k => homeWrite s asid k ((bs.drop off).take n)
    | none => s) s

/-- Bytes read from a save area; none where some cannot be read. -/
def areaGet (s : State) (asid : Nat) (va : DWord) (n : Nat) : Option (List Byte) × State :=
  (lineParts va n).foldl (fun (acc : Option (List Byte) × State) (off, m) =>
    let s := walkTouch acc.2 asid (va + BitVec.ofNat 64 off)
    match acc.1, wsKey acc.2 asid (va + BitVec.ofNat 64 off) m with
    | some bs, some k =>
      let (bad, s) := demandRead s none asid k m
      (if bad.isSome then none else some (bs ++ memBytes s.mem k m), s)
    | _, _ => (none, s)) (some [], s)

/-- The size of a crew's save area (R355). -/
def crewSaveSize (p : Packet) : Nat := 20992 * p.trains + 4096 + p.scratch + 409600
/-- A crew's save area. -/
def crewSaveVa (p : Packet) (crew : Nat) : DWord := p.saveBase + BitVec.ofNat 64 (crewSaveSize p * crew)
/-- A train's save area (R355). -/
def trainSaveVa (p : Packet) (crew tix : Nat) : DWord := crewSaveVa p crew + BitVec.ofNat 64 (20992 * tix)
/-- A crew's header. -/
def headerVa (p : Packet) (crew : Nat) : DWord := crewSaveVa p crew + BitVec.ofNat 64 (20992 * p.trains)

/-- Words as bytes. -/
def wordBytes (l : List Word) : List Byte := l.flatMap fun w => leBytes 4 w.toNat

/-- The STATE of a path's entry (R190). -/
def saveState (p : Path) : Nat :=
  if p.stop == .atRegion then 1 else match p.pstate with | .halted => 4 | .parked => 3 | _ => 2

/-- The wake condition that a path's entry holds: that of the agent's WAITADDR for a Halted path. -/
def savedWake (t : Train) (p : Path) : Option Wake :=
  if p.pstate == .halted then
    match t.handler with
    | some h => ((livePaths h.paths).findSome? fun (_, q) => match q.wake with | some (.waitAddr ..) => q.wake | _ => none)
    | none => p.wake
  else p.wake

/-- The 16 bytes of WAKE (R236, R308, R314, R441). -/
def wakeBytes (w : Option Wake) : List Byte :=
  match w with
  | some (.pageFault u _) => leBytes 12 u.toNat ++ leBytes 4 0
  | some (.barrier _ addr token _ _) => leBytes 8 addr.toNat ++ leBytes 2 token ++ leBytes 6 0
  | some (.waitAddr va _ cmp _ _ _ _ _ _ _) => leBytes 8 va.toNat ++ leBytes 8 cmp.toNat
  | some (.fbar g ph) => leBytes 2 g ++ leBytes 6 0 ++ leBytes 2 ph ++ leBytes 6 0
  | _ => leBytes 16 0

/-- The 64 bytes of a path's entry (R190). -/
def pathEntryBytes (t : Train) (o : Option Path) : List Byte :=
  match o with
  | none => leBytes 64 0
  | some p =>
    let g := p.region
    leBytes 8 (if p.stop == .atRegion then g.entry else p.pc).toNat ++ leBytes 12 p.mask.toNat ++ leBytes 4 p.mode.toNat ++
    leBytes 4 (depthOf p) ++ leBytes 2 p.jids.toNat ++ leBytes 1 (saveState p) ++
    leBytes 1 ((if g.keeps then 1 else 0) + (if g.broken then 2 else 0)) ++ leBytes 2 g.livev.toNat ++
    leBytes 4 g.livew.toNat ++ leBytes 2 0 ++ wakeBytes (if p.stop == .atRegion then none else savedWake t p) ++ leBytes 8 0

/-- How a lane's registers are saved: by its region's masks, whole with the depth of its frame, or not at all (R190). -/
inductive LaneSave where
  | region (livev : Nat) (livew : Nat) (depth : Nat)
  | whole (depth : Nat)
  | nothing
  deriving DecidableEq, Repr

/-- How lane `l` is saved; `depths` gives the depth of each deferred record's frame. -/
def laneSave (t : Train) (depths : List (Deferred × Nat)) (l : Nat) : LaneSave :=
  match (livePaths t.paths).find? fun (_, p) => p.mask.has l with
  | some (_, p) =>
    if p.stop == .atRegion then .region p.region.livev.toNat p.region.livew.toNat (depthOf p) else .whole (depthOf p)
  | none =>
    match depths.find? fun x => x.1.mask.has l with
    | some (_, d) => .whole d
    | none => .nothing

/-- The instruction count that a lane's entry holds (R190). -/
def laneDic (t : Train) (l : Nat) (ln : Lane) : DWord :=
  match (livePaths t.paths).find? fun (_, p) => p.mask.has l with
  | some (_, p) => if p.stop == .atRegion then nth ln.dic p.region.dics l else ln.dic
  | none => ln.dic

/-- The pieces of a lane's entry that are written, each at its offset (R190). -/
def lanePieces (t : Train) (depths : List (Deferred × Nat)) (l : Nat) (ln : Lane) : List (Nat × List Byte) :=
  let v (k : Nat) : Nat × List Byte := (16 + 4 * k, leBytes 4 (nth 0 ln.v k).toNat)
  let w (d k : Nat) : Nat × List Byte := (80 + 4 * k, leBytes 4 (nth 0 ln.ring (ringIx d k)).toNat)
  (0, leBytes 8 (laneDic t l ln).toNat ++ leBytes 8 (ln.preds ||| 1).toNat) ::
  (match laneSave t depths l with
   | .region lv lw d =>
     ((List.range 16).filter lv.testBit).map v ++ ((List.range 32).filter lw.testBit).map (w d)
   | .whole d => (List.range 16).map v ++ (List.range 32).map (w d)
   | .nothing => [])

/-- Whether the scalars are saved (R190): some path stopped in full, or some region keeps them. -/
def savesScalars (t : Train) : Bool := (livePaths t.paths).any fun (_, p) => p.stop != .atRegion || p.region.keeps

/-- The pieces of a train's save area, each at its offset (R190). -/
def trainPieces (t : Train) (depths : List (Deferred × Nat)) : List (Nat × List Byte) :=
  let sv := savesScalars t
  (if sv then [(0, wordBytes (t.scalars.take 61))] else []) ++
  [(244, leBytes 12 0), (256, t.jtab.flatMap fun d => leBytes 8 d.toNat), (384, leBytes 12 t.retired.toNat),
   (396, leBytes 4 ((if sv then 1 else 0) + (if t.pendHalt then 2 else 0))),
   (400, leBytes 4 (BitVec.ofNat 32 (dbgctlRead t) &&& ~~~(8 : Word)).toNat), (404, leBytes 44 0),
   (448, t.paths.flatMap (pathEntryBytes t)), (960, leBytes 64 0)] ++
  (t.lanes.zipIdx).flatMap fun (ln, l) => (lanePieces t depths l ln).map fun (o, b) => (1024 + 208 * l + o, b)

/-! ## The save -/

/-- The depth of the frame of a deferred path, from its record (R20). -/
def deferredDepth (s : State) (t : Train) (d : Deferred) : Nat :=
  match wsKey s t.asid (recordVa t d.idx) 64 with
  | some k => memLe s.mem (k + 24) 2
  | none => 0

/-- The deferred records of a train, newest first: one whose refill was waiting for a page was the newest (R21, R22). -/
def allDeferred (t : Train) : List Deferred := t.refills.map (·.what) ++ t.deferred

/-- A train is written to its save area (R189, R190). -/
def saveTrain (s : State) (pk : Packet) (t : Train) : State :=
  let depths := (allDeferred t).map fun d => (d, deferredDepth s t d)
  (trainPieces t depths).foldl (fun s (o, b) =>
    areaPut s t.asid (trainSaveVa pk t.crew.crew t.tix + BitVec.ofNat 64 o) b) s

/-- The crew header (R355). -/
def headerBytes (k : Cluster) (crew : CrewRef) (stash : List StashChunk) : List Byte :=
  let p := nth Pair.reset k.pairs 0
  let own := (p.accs.zipIdx).foldl (fun n (a, i) => if a.owner == some crew then n + 2 ^ i else n) 0
  let mine (q : Nat) : Option Buffer := (bufAt k q).filter fun b => b.crew == crew && !b.freed
  leBytes 4 own ++ leBytes 4 (if p.latch.valid && p.latch.crew == crew then 1 else 0) ++
  ((List.range 8).flatMap fun q => match mine q with | some b => leBytes 8 (1 + 2 * b.tix) | none => leBytes 8 0) ++
  ((List.range 8).flatMap fun q => match mine q with
    | some b => leBytes 4 b.base ++ leBytes 4 b.geom.toNat | none => leBytes 8 0) ++
  leBytes 888 0 ++ stash.flatMap (fun c => leBytes 8 c.va.toNat ++ leBytes 4 c.off) ++
  (if stash.length < 256 then leBytes 8 0 ++ leBytes 4 0xFFFFFFFF else [])

/-- The image of the accumulators and the latch of the crew's first pair (R355). -/
def engineImage (k : Cluster) : List Byte :=
  let p := nth Pair.reset k.pairs 0
  let l := p.latch
  (p.accs.flatMap fun a => a.rows.flatMap wordBytes) ++ l.rows.flatten ++ l.scales.flatten ++ leBytes 12 l.present.toNat ++
    leBytes 4 l.crew.crew ++ leBytes 2 l.asid ++ leBytes 3310 0

/-- Registers of a path that are unpredictable: those of its lanes, and with KEEPS the scalars of its train. -/
def blurRegs (s : State) (r : PathRef) (p : Path) : State :=
  let k := s.free
  let pred (i : Nat) : DWord := DWord.ofHalves (Config.freeWord (k + 122 * i)) (Config.freeWord (k + 122 * i + 1))
  modTrain { s with free := k + 122 * 96 + 61 } r.core r.slot fun t => { t with
    lanes := t.lanes.mapIdx fun i ln => if p.mask.has i then
      { ln with v := freeList (k + 122 * i + 2) 16, ring := freeList (k + 122 * i + 18) 104, preds := pred i ||| 1 } else ln,
    scalars := if p.region.keeps then freeList (k + 122 * 96) 61 ++ t.scalars.drop 61 else t.scalars }

/-- A path that is about to be replayed from a region that has broken its obligations: the registers and the memory that the
breach affects are unpredictable (R187). DESIGN CHOICE: log entry 88. -/
def blurReplay (s : State) (r : PathRef) : State :=
  match trainAt s r.core r.slot, pathAt s r with
  | some t, some p =>
    if p.stop != .atRegion then s
    else
      let s := if p.region.breach then blurRegs s r p else s
      p.region.hit.foldl (fun s (k, n) =>
        let (bs, s) := freeBytes s n
        homeWrite s t.asid k bs) s
  | _, _ => s

/-- The paths of a crew's trains that are to be replayed from their regions (R187). -/
def blurTrains (s : State) (trains : List (Nat × Nat)) : State :=
  (trains.flatMap fun (i, j) => (List.range 8).map fun e => (⟨i, j, e, false⟩ : PathRef)).foldl blurReplay s

/-- A crew is written to its save area, and leaves its cluster (R189, R258, R293, R355). -/
def saveCrew (s : State) (pk : Packet) (c : Crew) : State :=
  let cl := c.cluster
  let trains := trainsOf s c.ref
  let s := blurTrains s trains
  let s := trains.foldl (fun s (i, j) => match trainAt s i j with
    | some t => saveTrain s pk t
    | none => s) s
  let kept := trains.filterMap fun (i, j) => trainAt s i j
  let stash := (clusterAt s cl).stash.filter fun x => x.crew == c.ref
  let head := headerBytes (clusterAt s cl) c.ref stash
  let engines := engineImage (clusterAt s cl)
  let pairs := (clusterAt s cl).pairs
  let s := stash.foldl (fun s x => unmapChunk s cl c.asid x) s
  let (base, size) := allocOf s cl c.ref
  let image := (List.range size).map fun i => scrByte s cl c.ref (base + i)
  let va := headerVa pk c.ref.crew
  let s := areaPut s c.asid va head
  let s := areaPut s c.asid (va + 4096) image
  let s := areaPut s c.asid (va + BitVec.ofNat 64 (4096 + size)) engines
  let s := trains.foldl (fun s (i, j) => dropMonitors (setTrain s i j none) i j) s
  let s := dropCrew (releaseCrew s c) c
  let here (r : PathRef) : Bool := trains.contains (r.core, r.slot)
  let s := { s with
    saved := s.saved ++ [⟨c, kept, pairs⟩],
    remotes := s.remotes.filter fun q => match q.use with | .waitAddr r => !here r | _ => true,
    launches := s.launches.map fun l => if l.asking == some c.ref then { l with asking := none } else l }
  modLaunch s c.ref.launch fun l => { l with
    savedCrews := l.savedCrews.filter (· < c.ref.crew) ++ [c.ref.crew] ++ l.savedCrews.filter (· > c.ref.crew) }

/-- Whether a train's paths are all stopped and flushed, and its Tender, stores and results are drained (R170, R189). -/
def trainSettled (s : State) (core slot : Nat) (t : Train) : Bool :=
  trainDrained s core slot t && !((coreAt s core).tender.any fun j => j.who.slot == slot) &&
  ((savedPaths core slot t).all fun x => resOf x.2 == 0)

/-- Whether an engine operation that a crew issued has not completed (R282). -/
def crewEngines (s : State) (c : Crew) : Bool :=
  let k := clusterAt s c.cluster
  (k.pairs.any fun p => p.queue.any fun o => o.crew == c.ref) || (k.copies.any fun o => o.crew == c.ref) ||
  (s.nmcs.any fun o => o.crew == c.ref) || (s.mcsts.any fun o => o.crew == c.ref) ||
  (s.groups.any fun g => g.colls.any fun o => o.crew == c.ref)

/-- PREEMPT_SAVE (R189, R282): every path of the crew has stopped, everything has drained, every engine operation has
completed. -/
def execPreemptSave (crew : CrewRef) (s : State) : Out :=
  match s.crews.find? fun c => c.ref == crew, launchAt s crew.launch with
  | some c, some l =>
    let trains := trainsOf s crew
    stepWhen (!trains.isEmpty && !crewEngines s c &&
        (trains.all fun (i, j) => match trainAt s i j with | some t => trainSettled s i j t | none => false) &&
        !(s.cores.any fun k => k.trackers.any fun o => match o with | some x => x.train.crew == crew | none => false))
      (saveCrew s l.pk c)
  | _, _ => disabled

/-- Whether an engine operation of a crew has not started (R282). -/
def crewUnstarted (s : State) (c : Crew) : Bool :=
  let k := clusterAt s c.cluster
  (k.pairs.any fun p => p.queue.any fun o => o.crew == c.ref && !o.started) ||
  (k.copies.any fun o => o.crew == c.ref && !o.started) ||
  (s.nmcs.any fun o => o.crew == c.ref && o.left.length == o.count) ||
  (s.mcsts.any fun o => o.crew == c.ref && !o.sent) ||
  (s.groups.any fun g => g.colls.any fun o => o.crew == c.ref && !o.started)

/-- A stopped path resumes in place, one stopped at its region from the region's entry (R282). -/
def resumePath (p : Path) : Path :=
  match p.stop with
  | .atRegion => { p with
      stop := .running, pc := p.region.entry, fetched := none, delay := 0, waitc := 0, stall := 0, xfers := [], got := [], flushWait := false }
  | _ => { p with stop := .running, xfers := [], flushWait := false }

/-- The counts of the lanes whose path resumes from its region's entry. -/
def resumeLanes (t : Train) : List Lane := t.lanes.mapIdx fun l ln => { ln with dic := laneDic t l ln }

/-- A pre-emption of a train is given up (R282). -/
def resumeTrain (t : Train) : Train :=
  { t with lanes := resumeLanes t, paths := t.paths.map (Option.map resumePath), preempt := none, allStopped := none }

/-- PREEMPT_ABANDON (R282): an operation has not started 100 µs after the last path stopped. -/
def execPreemptAbandon (crew : CrewRef) (s : State) : Out :=
  match s.crews.find? fun c => c.ref == crew with
  | none => disabled
  | some c =>
    let trains := trainsOf s crew
    let alive := trains.filter fun (i, j) => match trainAt s i j with | some t => t.ended.isNone | none => false
    let stops := alive.map fun (i, j) => (trainAt s i j).bind (·.allStopped)
    let last := stops.foldl (fun n o => max n (o.getD 0)) 0
    let s' := trains.foldl (fun s (i, j) => modTrain s i j resumeTrain) (blurTrains s trains)
    stepWhen (!alive.isEmpty && (stops.all Option.isSome) && crewUnstarted s c && s.time ≥ last + 100000)
      { s' with
        crews := s'.crews.map fun x => if x.ref == crew then { x with holdoff := some s.time } else x,
        launches := s'.launches.map fun l => if l.asking == some crew then { l with asking := none } else l }

/-- VICTIM_HOLDOFF_END (R354): after 1 ms the crew may be chosen again. -/
def execVictimHoldoffEnd (crew : CrewRef) (s : State) : Out :=
  match (s.crews.find? fun c => c.ref == crew).bind (·.holdoff) with
  | none => disabled
  | some t =>
    stepWhen (s.time ≥ t + 1000000)
      { s with crews := s.crews.map fun c => if c.ref == crew then { c with holdoff := none } else c }

/-! ## The restore -/

/-- Whether the reserved bytes of a train's save area are zero, and its paths and its DBGCTL hold no reserved value (R4, R36, R190,
R191). -/
def areaOk (b : List Byte) : Bool :=
  let z (off n : Nat) : Bool := ((b.drop off).take n).all (· == 0)
  z 244 12 && leAt b 396 4 < 4 && leAt b 400 4 < 2 ^ 11 && bitsOf (leAt b 400 4) 7 4 ≤ 8 && z 404 44 && z 960 64 &&
  ((List.range 8).all fun i =>
    let e := 448 + 64 * i
    leAt b (e + 30) 1 ≤ 4 && leAt b (e + 31) 1 < 4 && z (e + 38) 2 && z (e + 56) 8 &&
    (leAt b (e + 30) 1 == 0 || (z (e + 26) 2 && modeOk (leAt b (e + 20) 4))))

/-- The wake condition of a restored path, which its entry's bytes renew (R236, R308, R314, R441). -/
def renewWake (e : List Byte) (w : Option Wake) : Option Wake :=
  match w with
  | some (.pageFault _ _) => some (.pageFault (BitVec.ofNat 96 (leAt e 40 12)) true)
  | some (.barrier key _ _ scr ros) => some (.barrier key (BitVec.ofNat 64 (leAt e 40 8)) (leAt e 48 2) scr ros)
  | some (.waitAddr _ pa _ wide eq d dst act hit _) =>
    some (.waitAddr (BitVec.ofNat 64 (leAt e 40 8)) pa (BitVec.ofNat 64 (leAt e 48 8)) wide eq d dst act hit true)
  | some (.fbar _ _) => some (.fbar (leAt e 40 2) (leAt e 48 2))
  | w => w

/-- Whether the bytes of WAKE that its layout leaves out are zero (R4, R236, R314, R441). -/
def wakeOk (e : List Byte) (w : Option Wake) : Bool :=
  leAt e 30 1 != 3 ||
  match w with
  | some (.pageFault _ _) | some (.barrier ..) | some (.fbar _ _) => wakeBytes (renewWake e w) == (e.drop 40).take 16
  | _ => true

/-- A path from its entry and from what was kept of it (R189, R190): the address of the instruction that parked it among that
(R437, R443). -/
def restorePath (e : List Byte) (kept : Option Path) (dics : List DWord) (frozen : Freeze) : Option Path :=
  let st := leAt e 30 1
  if st == 0 then none
  else
    let pc := BitVec.ofNat 64 (leAt e 0 8)
    let new := newPath (match kept with | some p => p.uid | none => 0) pc (BitVec.ofNat 96 (leAt e 8 12))
    let p0 : Path := { (match kept with | some q => { followOrder q new with lastPc := if st == 1 then pc else q.lastPc } | none => new) with
      mode := BitVec.ofNat 32 (leAt e 20 4), wbase := mkWbase (leAt e 24 2) 0, jids := BitVec.ofNat 16 (leAt e 28 2),
      frozen := frozen, cold := true, reports := match kept with | some p => p.reports | none => [],
      region := ⟨pc, BitVec.ofNat 16 (leAt e 32 2), BitVec.ofNat 32 (leAt e 34 4), (leAt e 31 1).testBit 0,
        (leAt e 31 1).testBit 1, dics, [], [], [], [], false⟩ }
    let wake := renewWake e (kept.bind (·.wake))
    let stall : BitVec 5 := match kept with | some p => p.stall | none => 0
    some (match st with
      | 3 =>
        (match wake with
         | some (.pageFault u _) => { p0 with unf := if u == 0 then none else some u }
         | some w => { p0 with pstate := .parked, wake := some w, stall := stall }
         | none => p0)
      | 4 => { p0 with pstate := .halted, wake := kept.bind (·.wake), stall := stall }
      | _ => p0)

/-- Registers that are unpredictable after a restore (R190): those of a lane, from a counter of free values on. -/
def freeLane (k : Nat) (ln : Lane) : Lane := { ln with v := freeList k 16, ring := freeList (k + 16) 104 }

/-- A lane from its entry (R190): the registers named, the others free. -/
def restoreLane (e : List Byte) (how : LaneSave) (k : Nat) (kept : Lane) : Lane :=
  let ln := freeLane k { kept with page := none, dic := BitVec.ofNat 64 (leAt e 0 8), preds := BitVec.ofNat 64 (leAt e 8 8) }
  let word (o : Nat) : Word := BitVec.ofNat 32 (leAt e o 4)
  let putV (ln : Lane) (i : Nat) : Lane := { ln with v := updAt ln.v i fun _ => word (16 + 4 * i) }
  let putW (d : Nat) (ln : Lane) (i : Nat) : Lane := { ln with ring := updAt ln.ring (ringIx d i) fun _ => word (80 + 4 * i) }
  match how with
  | .region lv lw d => ((List.range 32).filter lw.testBit).foldl (putW d) (((List.range 16).filter lv.testBit).foldl putV ln)
  | .whole d => (List.range 32).foldl (putW d) ((List.range 16).foldl putV ln)
  | .nothing => ln

/-- How the lanes of a restored train were saved, by its entries (R190). -/
def savedLane (paths : List (Option Path)) (states : List Nat) (depths : List (Deferred × Nat)) (l : Nat) : LaneSave :=
  match ((livePaths paths).find? fun (_, p) => p.mask.has l) with
  | some (i, p) =>
    if nth 0 states i == 1 then .region p.region.livev.toNat p.region.livew.toNat (depthOf p) else .whole (depthOf p)
  | none =>
    match depths.find? fun x => x.1.mask.has l with
    | some (_, d) => .whole d
    | none => .nothing

/-- The directory of deferred records, rebuilt from the records' bytes with the depths of their frames; none where one
cannot be read (R21). -/
def rebuildDirectory (s : State) (t : Train) : Option (List (Deferred × Nat)) × State :=
  (allDeferred t).foldl (fun (acc : Option (List (Deferred × Nat)) × State) d =>
    match acc.1, areaGet acc.2 t.asid (recordVa t d.idx) 64 with
    | some l, (some b, s) =>
      (some (l ++ [({ d with mask := BitVec.ofNat 96 (leAt b 8 12), jids := BitVec.ofNat 16 (leAt b 28 2) }, leAt b 24 2)]), s)
    | _, (_, s) => (none, s)) (some [], s)

/-- The agent of a restored train: its WAITADDR returns as after a lost monitor (R308), its watchdog counts anew, no caller of it
is resident (R170), and its words are yet to be fetched (R217). -/
def restoreAgent (now : Nat) (h : Handler) : Handler :=
  { h with started := now, paths := h.paths.map (Option.map fun p => { p with
      wbase := mkWbase (depthOf p) 0, cold := true, fetched := none, wake := match p.wake with
      | some (.waitAddr va pa c w e d t a hit _) => some (.waitAddr va pa c w e d t a hit true)
      | w => w }) }

/-- A train from its save area (R189, R190, R21): none where the area cannot be read or is rejected. Where SVALID is clear the
scalars are those that the train held (DEDUCED, unsafe: log entry 106): only v and w registers are unpredictable (R190, R449). No
path has issued since the restore, so the turn begins at entry 1 (DESIGN CHOICE, unsafe: log entry 107). -/
def restoreTrain (s : State) (pk : Packet) (t : Train) : Option Train × State :=
  match areaGet s t.asid (trainSaveVa pk t.crew.crew t.tix) 20992 with
  | (none, s) => (none, s)
  | (some b, s) =>
    let (dir, s) := rebuildDirectory s t
    let entry (i : Nat) : List Byte := (b.drop (448 + 64 * i)).take 64
    match dir, areaOk b && (t.paths.zipIdx).all (fun (o, i) => wakeOk (entry i) (o.bind (·.wake))) with
    | some depths, true =>
      let states := (List.range 8).map fun i => leAt (entry i) 30 1
      let dics := laneIds.map fun l => BitVec.ofNat 64 (leAt b (1024 + 208 * l) 8)
      let paths := (t.paths.zipIdx).map fun (o, i) =>
        restorePath (entry i) o dics (match o with | some p => if t.handler.isSome then p.frozen else .none | none => .none)
      let k := s.free
      let lanes := (t.lanes.zipIdx).map fun (ln, l) =>
        restoreLane ((b.drop (1024 + 208 * l)).take 208) (savedLane paths states depths l) (k + 120 * l) ln
      let flags := leAt b 396 4
      let scalars := if flags.testBit 0 then (List.range 61).map (fun i => BitVec.ofNat 32 (leAt b (4 * i) 4)) ++ [0, 0, 0]
        else t.scalars
      (some { t with
        lanes := lanes, scalars := scalars, paths := paths, 
        deferred := (depths.map (·.1)).drop t.refills.length,
        refills := (t.refills.zip depths).map fun (x, d) => { x with what := d.1, parked := false },
        jtab := (List.range 16).map fun i => BitVec.ofNat 64 (leAt b (256 + 8 * i) 8),
        retired := BitVec.ofNat 96 (leAt b 384 12), dbgctl := BitVec.ofNat 32 (leAt b 400 4 % 256) &&& ~~~(8 : Word), pendHalt := flags.testBit 1,
        handler := t.handler.map (restoreAgent s.time), lastEntry := 0, charged := 0, stamp := s.time,
        preempt := none, allStopped := none, made := [] }, { s with free := k + 120 * 96 })
    | _, _ => (none, s)

/-- Whether a crew header's reserved bytes are zero (R355). -/
def headerOk (b : List Byte) : Bool :=
  leAt b 0 4 < 256 && leAt b 4 4 < 2 && ((List.range 8).all fun q => leAt b (8 + 8 * q) 8 < 64) &&
  ((b.drop 136).take 888).all (· == 0)

/-- The mappings that a header lists (R355). -/
def headerStash (b : List Byte) : List (DWord × Nat) :=
  ((List.range 256).map fun i => (BitVec.ofNat 64 (leAt b (1024 + 12 * i) 8), leAt b (1024 + 12 * i + 8) 4)).takeWhile
    fun x => x.2 != 0xFFFFFFFF

/-- The chunks of a restored crew, every line unfilled (R293). -/
def restoreStash (s : State) (crew : CrewRef) (asid : Nat) (b : List Byte) : List StashChunk :=
  (headerStash b).filterMap fun (va, off) =>
    if !canonical va then none
    else match leafCheck s true .update 4096 va (walkAsid s asid va) with
      | .ok k => some ⟨crew, off, va, k, 0, []⟩
      | _ => none

/-- The accumulators and the latch of a restored crew: those of its first pair from the save area, of the others as kept
(R258, R355). An accumulator that another crew owns meanwhile stays that crew's. -/
def restorePair (crew : CrewRef) (asid : Nat) (b img : List Byte) (i : Nat) (kept now : Pair) : Pair :=
  let word (o : Nat) : Word := BitVec.ofNat 32 (leAt img o 4)
  let row (a r : Nat) : List Word := (List.range 128).map fun j => word (49152 * a + 512 * r + 4 * j)
  let accOf (a : Nat) : Acc :=
    if i == 0 then ⟨some crew, (List.range 96).map (row a)⟩ else nth Acc.reset kept.accs a
  let mine (a : Nat) : Bool :=
    if i == 0 then (leAt b 0 4).testBit a else (nth Acc.reset kept.accs a).owner == some crew
  let lat : Latch :=
    if i == 0 then
      ⟨true, crew, asid, BitVec.ofNat 96 (leAt img (393216 + 13056) 12),
        (List.range 96).map fun r => (img.drop (393216 + 128 * r)).take 128,
        (List.range 96).map fun r => (img.drop (393216 + 12288 + 8 * r)).take 8⟩
    else kept.latch
  let latched := if i == 0 then leAt b 4 4 == 1 else kept.latch.valid && kept.latch.crew == crew
  { now with
    accs := now.accs.mapIdx fun a x => if mine a && (x.owner.isNone || x.owner == some crew) then accOf a else x,
    latch := if latched then lat else now.latch }

/-- The buffers of a restored crew, empty, with their original geometry (R355). One that another crew has bound meanwhile
stays that crew's. -/
def restoreBufs (crew : CrewRef) (b : List Byte) (now : List (Option Buffer)) : List (Option Buffer) :=
  now.mapIdx fun q o =>
    let e := leAt b (8 + 8 * q) 8
    let geom := leAt b (72 + 8 * q + 4) 4
    if e.testBit 0 && o.isNone then
      some ⟨crew, e / 2 % 32, leAt b (72 + 8 * q) 4, BitVec.ofNat 32 geom, geom % 256 * 256, 0, 0,
        List.replicate (geom / 256 % 256) .empty, [], false⟩
    else o

/-- What a crew's header and images give back to its cluster; whether they could be read and are accepted (R355). -/
def restoreCluster (s : State) (pk : Packet) (sc : SavedCrew) (cl base : Nat) : Bool × State :=
  let crew := sc.crew.ref
  let va := headerVa pk crew.crew
  match areaGet s pk.asid va 4096 with
  | (none, s) => (false, s)
  | (some b, s) =>
    match areaGet s pk.asid (va + 4096) pk.scratch with
    | (none, s) => (false, s)
    | (some image, s) =>
      match areaGet s pk.asid (va + BitVec.ofNat 64 (4096 + pk.scratch)) 409600 with
      | (none, s) => (false, s)
      | (some img, s) =>
        if !headerOk b then (false, s)
        else
          let s := (headerStash b).foldl (fun s x => walkTouch s pk.asid x.1) s
          let chunks := restoreStash s crew pk.asid b
          (true, modCluster s cl fun k => { k with
            scratch := (image.zipIdx).foldl (fun m (x, i) => scrPut m (base + i) x) k.scratch,
            stash := k.stash ++ chunks,
            pairs := k.pairs.mapIdx fun i p => restorePair crew pk.asid b img i (nth Pair.reset sc.pairs i) p,
            bufs := restoreBufs crew b k.bufs })

end Sys2Proof.Machine
end

