-- ==== Sys2Proof/Machine/PlaceSteps.lean ====
section
/-! DEFINITION. The distributor: dependences (R347), the order of placement (R349), the resource and window-stack checks (R350),
the choice of the cluster (R351), the start of a placed crew (R352, R353), its restore (R189, R355), and the choice of a
victim (R354). -/
namespace Sys2Proof.Machine

/-! ## Dependences -/

/-- What the distributor finds at a dependence object. -/
inductive DepSeen where
  | satisfied
  | waiting
  | failed (cause : Nat) (addr : DWord)
  deriving DecidableEq, Repr

/-- The reading of a dependence object (R271, R347). One in a page that reads zero cannot be read; the specification gives that
failure no cause. -/
def depSeen (s : State) (asid : Nat) (va : DWord) : DepSeen × State :=
  if va == 0 then (.satisfied, s)
  else if !canonical va then (.failed 0x07 va, s)
  else
    let out := leafCheck s true .read 32 va (walkAsid s asid va)
    let s := walkTouch s asid va
    match out with
    | .park _ => (.waiting, s)
    | .zero | .idle =>
      let (w, s) := drawFree s
      (.failed (w.toNat % 256) va, s)
    | .trap cause => (.failed cause va, s)
    | .peer _ _ _ => (.failed 0x07 va, s)
    | .ok k =>
      match demandRead s none asid k 32 with
      | (some cause, s) => (.failed cause va, s)
      | (none, s) =>
        if memLe s.mem k 8 < memLe s.mem (k + 8) 8 then (.waiting, s)
        else if memLe s.mem (k + 16) 4 == 0 then (.satisfied, s)
        else (.failed (memLe s.mem (k + 20) 1) (BitVec.ofNat 64 (memLe s.mem (k + 24) 8)), s)

/-- What the dependences of a packet have come to: the first failed one decides; else all must be satisfied (R347). -/
def depsSeen (s : State) (p : Packet) : DepSeen × State :=
  p.deps.foldl (fun (acc : DepSeen × State) va =>
    match acc.1 with
    | .failed _ _ => acc
    | x =>
      match depSeen acc.2 p.asid va with
      | (.satisfied, s) => (x, s)
      | (y, s) => (y, s)) (.satisfied, s)

/-- A launch is cancelled for a failed dependence (R347). -/
def cancelLaunch (s : State) (l : Launch) (cause : Nat) (addr : DWord) : State :=
  let n := l.pk.crews
  pruneLaunch (modLaunch s l.id fun l => { l with
    next := n, freed := true,
    updates := if l.pk.doneObj == 0 then l.updates else l.updates ++ [(n, failMark + cause, addr)] }) l.id

/-- LAUNCH_READY (R347): every dependence is satisfied, or one has failed. -/
def execLaunchReady (launch : Nat) (s : State) : Out :=
  match launchAt s launch with
  | none => disabled
  | some l =>
    if l.ready.isSome || l.freed then disabled
    else
      match depsSeen s l.pk with
      | (.satisfied, s) => .next (modLaunch s launch fun l => { l with ready := some s.time })
      | (.failed cause addr, s) => .next (cancelLaunch s l cause addr)
      | (.waiting, _) => disabled

/-! ## The order and the checks -/

/-- The next crew of a launch: its lowest saved one, else the next unplaced one (R349). -/
def nextCrew (l : Launch) : Option Nat :=
  match l.savedCrews with
  | c :: _ => some c
  | [] => if l.ready.isSome && l.next < l.pk.crews then some l.next else none

/-- Whether a launch is served before another (R349). -/
def Launch.before (a b : Launch) : Bool :=
  if a.pk.prio != b.pk.prio then a.pk.prio > b.pk.prio
  else if a.ready != b.ready then a.ready.getD 0 < b.ready.getD 0
  else a.id < b.id

/-- Whether no launch with a crew to place comes before one (R349). -/
def firstInLine (s : State) (l : Launch) : Bool :=
  !(s.launches.any fun x => (nextCrew x).isSome && x.before l)

/-- The slots that a core offers to users (R350): one of core 5 is the service train's, and on cluster 0 another the
conductor's. -/
def userSlots (core : Nat) : Nat := if core == 5 then 10 else if core % 6 == 5 then 11 else 12

/-- The free user slots of a core, ascending. -/
def freeSlots (s : State) (core : Nat) : List Nat :=
  (((coreAt s core).slots.take (userSlots core)).zipIdx).filterMap fun (o, i) => if o.isNone then some i else none

/-- The slots of the trains of a crew on a cluster, in TIX order: the core and slot of each; none where one finds no slot
(R350). -/
def placesOn (s : State) (cl : Nat) (tixs : List Nat) : Option (List (Nat × Nat × Nat)) :=
  (tixs.foldl (fun (acc : Option (List (Nat × Nat × Nat))) t =>
    acc.bind fun l =>
      let core := 6 * cl + t % 6
      ((freeSlots s core)[(l.filter fun x => x.2.1 == core).length]?).map fun slot => l ++ [(t, core, slot)]) (some []))

/-- The lowest free range of a cluster's scratchpad (R350). -/
def freeRange (k : Cluster) (size : Nat) : Option Nat :=
  let fits (b : Nat) : Bool := b + size ≤ 4194304 && !(k.allocs.any fun a => b < a.base + a.size && a.base < b + size)
  ((0 :: k.allocs.map fun a => a.base + a.size).filter fits).foldl (fun (m : Option Nat) b =>
    some (match m with | some x => min x b | none => b)) none

/-- The rosters that a crew needs a new slot for on a cluster (R352). -/
def newRosters (k : Cluster) (l : Launch) (crew : Nat) : List Nat :=
  (rostersOf l crew).filter fun r => !(k.rosters.contains ⟨l.id, r⟩)

/-- The trains of the next crew: of a saved crew those that had not ended. -/
def crewTixs (s : State) (l : Launch) (crew : Nat) : List Nat :=
  match s.saved.find? fun x => x.crew.ref == ⟨l.id, crew⟩ with
  | some x => (List.range l.pk.trains).filter fun t => x.trains.any fun y => y.tix == t
  | none => List.range l.pk.trains

/-- The resource check of a cluster for a crew, the window stacks apart (R350): the trains' places and the base. -/
def roomOn (s : State) (l : Launch) (crew cl : Nat) : Option (List (Nat × Nat × Nat) × Nat) :=
  let k := clusterAt s cl
  if k.rosters.length + (newRosters k l crew).length > 16 then none
  else (placesOn s cl (crewTixs s l crew)).bind fun ps => (freeRange k l.pk.scratch).map fun b => (ps, b)

/-- The linear number of a train (R343). -/
def linearOf (p : Packet) (crew tix : Nat) : Nat := crew * p.trains + tix
/-- The bytes of a window stack, and the distance of two (R155, R343). -/
def stackBytes (p : Packet) : Nat := p.frames * 9216 + 5632
/-- WSS (R343). -/
def stackPitch (p : Packet) : Nat := (stackBytes p + 65535) / 65536 * 65536
/-- The address of a train's window stack (R343). -/
def stackVa (p : Packet) (crew tix : Nat) : DWord := p.wsBase + BitVec.ofNat 64 (linearOf p crew tix * stackPitch p)

/-- TRAINID of a train on a core and slot (R38). -/
def trainIdOf (tix core slot : Nat) : Word :=
  BitVec.ofNat 32 (tix + slot * 2 ^ 8 + core % 6 * 2 ^ 12 + core / 6 * 2 ^ 16)

/-- What the window-stack check finds (R350). -/
inductive StackSeen where
  | ok
  | park (va : DWord) (lvl : Nat) (tid : Word)
  | cancel
  deriving DecidableEq, Repr

/-- The check of one byte of a window stack (R157, R350). -/
def stackByte (s : State) (asid : Nat) (va : DWord) (tid : Word) : StackSeen × State :=
  if !canonical va then (.cancel, s)
  else
    match walkAsid s asid va with
    | .leaf w _ => (if w.testBit 5 && !w.testBit 10 then .ok else .cancel, s)
    | .absent 0 lvl => (.park va lvl tid, s)
    | .absent _ _ => (.cancel, s)
    | .bad _ (some g) => (.cancel, findError s asid g)
    | .bad _ none => (.cancel, s)

/-- The check of the first and last byte of every train's window stack, in order (R350). -/
def stacksSeen (s : State) (p : Packet) (crew : Nat) (ps : List (Nat × Nat × Nat)) : StackSeen × State :=
  ps.foldl (fun (acc : StackSeen × State) (t, core, slot) =>
    let va := stackVa p crew t
    let tid := trainIdOf t core slot
    [va, va + BitVec.ofNat 64 (stackBytes p - 1)].foldl (fun (acc : StackSeen × State) va =>
      match acc.1 with
      | .ok => stackByte acc.2 p.asid va tid
      | _ => acc) acc) (.ok, s)

/-- The shard record that places a crew (R351). -/
def affinityRecord (p : Packet) (crew : Nat) (d : ShardDsc) : Nat :=
  let g (i : Nat) : Nat := max 1 (nth 1 d.grid i)
  let x := crew % p.grid.1
  let y := crew / p.grid.1 % p.grid.2.1
  let z := crew / p.grid.1 / p.grid.2.1
  d.shmap + 32 * (x % g 0 + g 0 * (y % g 1 + g 1 * (z % g 2)))

/-- The affinity cluster of a crew (R351). -/
def affinityOf (s : State) (p : Packet) (crew : Nat) : Option Nat :=
  match bindShard s none p.asid p.shard with
  | .dsc d =>
    let rec_ := affinityRecord p crew d
    if (peekBad s none rec_ 32).isSome || memLe s.mem (rec_ + 8) 2 != s.pkgId then none
    else
      let base : DWord := BitVec.ofNat 64 (memLe s.mem rec_ 8)
      if !canonical base then none
      else
        (match walkAsid s p.asid base with
         | .leaf w bits => some (ownerCluster (leafKey w bits base))
         | _ => none)
  | _ => none

/-- The reads that finding the affinity cluster makes are demand accesses (R231, R351, R369). -/
def affinityReads (s : State) (p : Packet) (crew : Nat) : State :=
  if !p.placed then s
  else
    match bindShard s none p.asid p.shard with
    | .bad _ k => (demandRead s none p.asid k 64).2
    | .dsc d =>
      let k := affinityRecord p crew d
      let (bad, t) := demandRead s none p.asid k 32
      let base : DWord := BitVec.ofNat 64 (memLe s.mem k 8)
      if bad.isSome || memLe s.mem (k + 8) 2 != s.pkgId || !canonical base then t else walkTouch t p.asid base
    | _ => s

/-- The clusters in the order in which a crew tries them (R351). -/
def clusterOrder (s : State) (p : Packet) (crew : Nat) : List Nat :=
  let turn := (List.range 48).map fun i => (s.nextCl + i) % 48
  if !p.placed then turn
  else
    match affinityOf s p crew with
    | some a => (List.range 12).map (fun i => a / 12 * 12 + (a % 12 + i) % 12) ++ turn
    | none => turn

/-- The first cluster that passes the resource check for a crew, with the trains' places and the base (R351). -/
def chooseCluster (s : State) (l : Launch) (crew : Nat) : Option (Nat × List (Nat × Nat × Nat) × Nat) :=
  (clusterOrder s l.pk crew).findSome? fun cl => (roomOn s l crew cl).map fun x => (cl, x)

/-! ## Placing -/

/-- A launch's next crew has gone out (R349): its entry is freed with the last (R346). -/
def crewOut (s : State) (l : Launch) (crew : Nat) : State :=
  modLaunch s l.id fun l =>
    let l := if l.savedCrews.contains crew then { l with savedCrews := l.savedCrews.filter (· != crew) }
      else { l with next := crew + 1 }
    { l with freed := l.next ≥ l.pk.crews, waitFrom := none, waitPage := false }

/-- The record of a crew that is cancelled before it runs (R350). -/
def cancelledCrew (l : Launch) (crew : Nat) (maxlane : Nat) : Crew :=
  { ref := ⟨l.id, crew⟩, cluster := 0, asid := l.pk.asid, placed := 0, left := 0, awaitGate := false, holdoff := none,
    maxst := 0xFFFE, nzcount := 0, maxlane := maxlane, lanes := 0, flags := 1 }

/-- A crew is cancelled (R350). The specification gives no MAXLANE for it. -/
def cancelCrew (s : State) (l : Launch) (crew : Nat) : State :=
  let (w, s) := drawFree s
  let s := writeRecord s (cancelledCrew l crew w.toNat)
  let s := { s with saved := s.saved.filter fun x => x.crew.ref != ⟨l.id, crew⟩ }
  pruneLaunch (crewOut s l crew) l.id

/-- A lane of a placed train (R353); registers with no stated value are 0 (DESIGN CHOICE, unsafe: log entry 2). -/
def newLane : Lane := ⟨List.replicate 16 0, List.replicate 104 0, 0, 0, 0, none, 0, [], none⟩

/-- A train that starts (R18, R353). -/
def newTrain (uid : Nat) (p : Packet) (crew : CrewRef) (tix core slot now : Nat) : Train where
  uid := uid
  crew := crew
  tix := tix
  trainId := trainIdOf tix core slot
  asid := p.asid
  seed := p.seed
  prio := p.prio
  stamp := now
  lanes := List.replicate 96 newLane
  scalars := p.args ++ List.replicate 48 0
  paths := some { newPath (uid + 1) p.entry (BitVec.allOnes 96) with cold := true } :: List.replicate 7 none
  deferred := []
  refills := []
  jtab := List.replicate 16 0
  retired := 0
  winstack := BitVec.ofNat 64 (p.frames % 2 ^ 16 + bitsOf (stackVa p crew.crew tix).toNat 55 16 * 2 ^ 16)
  trapCause := 0
  trapPc := 0
  trapMask := 0
  trapAddr := 0
  dbgctl := 0
  pendHalt := false
  stepArmed := none
  stepOwed := false
  taking := none
  handler := none
  engFail := none
  lastEntry := 0
  charged := 0
  reports := []
  mailbox := p.mboxBase + BitVec.ofNat 64 (512 * linearOf p crew.crew tix)
  saveArea := trainSaveVa p crew.crew tix
  ended := none
  killed := false
  idleOut := false
  drainErr := false
  endReport := none
  preempt := none
  allStopped := none
  made := []

/-- A train enters a free slot. -/
def putTrain (s : State) (core slot : Nat) (t : Train) : State :=
  modCore s core fun k => { k with
    resv := k.resv.filter fun v => v.slot != slot, txResv := k.txResv.filter fun v => v.slot != slot,
    slots := updAt k.slots slot fun _ => some t, lastEnd := updAt k.lastEnd slot fun _ => none }

/-- A crew takes its place on a cluster: the allocation, whose content is unpredictable, the roster slots, and power where
the cluster has gated (R284, R352, R365). -/
def seatCrew (s : State) (l : Launch) (c : Crew) (cl base : Nat) : State :=
  let size := l.pk.scratch
  let gated := (clusterAt s cl).gate != .on
  let new := (newRosters (clusterAt s cl) l c.ref.crew).map fun r => (⟨l.id, r⟩ : RosterSlot)
  let s := modCluster s cl fun k => { k with
    allocs := k.allocs ++ [⟨c.ref, base, size⟩], scratch := scrClear k.scratch base size, rosters := k.rosters ++ new,
    gate := if gated then .ungating else .on, idleFrom := none }
  { s with crews := s.crews ++ [{ c with cluster := cl, placed := s.time, awaitGate := gated, holdoff := none }] }

/-- A new crew starts (R353). -/
def startCrew (s : State) (l : Launch) (crew cl base : Nat) (ps : List (Nat × Nat × Nat)) : State :=
  let c : Crew := { cancelledCrew l crew 0 with left := l.pk.trains, maxst := 0, flags := 0 }
  ps.foldl (fun s (t, core, slot) =>
    let (uid, s) := fresh s
    let (_, s) := fresh s
    raiseFloors (putTrain s core slot (newTrain uid l.pk c.ref t core slot s.time)) core [uid + 1]) (seatCrew s l c cl base)

/-! ## Restoring -/

/-- Where the word of a restored barrier wait lies now (R314). -/
def wordAgain (s : State) (l : Launch) (cl : Nat) (crew : CrewRef) (roster : Bool) (key : Nat) (addr : DWord) : Nat × Bool :=
  if roster then
    match leafCheck s true .write 8 addr (walkAsid s l.pk.asid addr) with
    | .ok k => (k, false)
    | _ => (key, false)
  else
    match chunkAt s cl crew addr.toNat with
    | some ch => (ch.key + (addr.toNat - ch.off), false)
    | none => ((allocOf s cl crew).1 + addr.toNat, true)

/-- A restored wait meets what has happened meanwhile: a barrier's phase has moved on, or a phase of FBAR was released or
discarded (R314, R434, R441, R443). -/
def meetWait (s : State) (l : Launch) (cl : Nat) (crew : CrewRef) (r : PathRef) : State :=
  match pathAt s r with
  | none => s
  | some p =>
    match p.wake with
    | some (.barrier key addr token _ ros) =>
      let (k, scr) := wordAgain s l cl crew ros key addr
      if bitsOf (barWord s cl crew scr k) 47 32 == token then
        modPath s r fun p => { p with wake := some (.barrier k addr token scr ros) }
      else modPath s r (wakePath s.point)
    | some (.fbar g ph) =>
      (match s.groups.find? fun x => x.id == g with
       | none => s
       | some x =>
         match x.gone.find? fun y => y.1 == p.uid with
         | some (_, cause, a) =>
           let s := { s with groups := s.groups.map fun y => { y with gone := y.gone.filter fun z => z.1 != p.uid } }
           takeTrap (modPath s r (wakePath s.point)) r ⟨cause, p.mask, p.lastPc, a⟩
         | none =>
           if (ph + 2 ^ 16 - x.phase) % 2 ^ 16 ≤ (x.arrPhase + 2 ^ 16 - x.phase) % 2 ^ 16 then s else modPath s r (wakePath s.point))
    | _ => s

/-- The places of a train's paths, the agent's with them. -/
def pathRefs (t : Train) (core slot : Nat) : List PathRef :=
  (livePaths t.paths).map fun (i, _) => ⟨core, slot, i, false⟩

/-- A train of a saved crew takes its slot again: restored, or killed where its area, or the crew's header, is rejected
(R190, R355). A kill for that has no instruction, so its KPC and KMASK are free. -/
def seatSaved (s : State) (l : Launch) (cl core slot : Nat) (ok : Bool) (t : Train) : State :=
  let (got, s) := restoreTrain s l.pk t
  let at_ (t : Train) : Train := { t with trainId := trainIdOf t.tix core slot, stamp := s.time }
  match ok, got with
  | true, some t' =>
    (pathRefs t' core slot).foldl (fun s r => meetWait s l cl t.crew r) (putTrain s core slot (at_ t'))
  | _, _ =>
    let (a, s) := drawFree s
    let (b, s) := drawFree s
    let (c, s) := drawFree s
    let (d, s) := drawFree s
    let (e, s) := drawFree s
    killTrain (putTrain s core slot { at_ t with preempt := none, allStopped := none }) core slot 0x10
      (DWord.ofHalves a b) (BitVec.ofNat 96 (c.toNat + d.toNat * 2 ^ 32 + e.toNat * 2 ^ 64))

/-- A saved crew is restored (R189, R355). -/
def restoreCrew (s : State) (l : Launch) (sc : SavedCrew) (cl base : Nat) (ps : List (Nat × Nat × Nat)) : State :=
  let s := seatCrew { s with saved := s.saved.filter fun x => x.crew.ref != sc.crew.ref } l sc.crew cl base
  let (ok, s) := restoreCluster s l.pk sc cl base
  ps.foldl (fun s (t, core, slot) =>
    match sc.trains.find? fun x => x.tix == t with
    | some x => seatSaved s l cl core slot ok x
    | none => s) s

/-- A crew goes to a cluster that has room (R350-R353). -/
def placeOn (s : State) (l : Launch) (crew cl base : Nat) (ps : List (Nat × Nat × Nat)) : State :=
  let s := crewOut s l crew
  let s := if l.pk.placed then s else { s with nextCl := (cl + 1) % 48 }
  match s.saved.find? fun x => x.crew.ref == ⟨l.id, crew⟩ with
  | some sc => restoreCrew s l sc cl base ps
  | none => startCrew s l crew cl base ps

/-- PLACE_CREW (R349-R353, R355): the next crew of the first launch in line is placed or restored, cancelled, or waits for a
cluster or a page. -/
def execPlaceCrew (launch : Nat) (s : State) : Out :=
  match launchAt s launch with
  | none => disabled
  | some l =>
    match nextCrew l with
    | none => disabled
    | some crew =>
      if !firstInLine s l || l.waitPage then disabled
      else
        match chooseCluster s l crew with
        | none =>
          stepWhen l.waitFrom.isNone (modLaunch (affinityReads s l.pk crew) launch fun l => { l with waitFrom := some s.time })
        | some (cl, ps, base) =>
          match stacksSeen (affinityReads s l.pk crew) l.pk crew ps with
          | (.ok, s) => .next (placeOn s l crew cl base ps)
          | (.park va lvl tid, s) =>
            .next (modLaunch (faultRecord s l.pk.asid va 3 lvl tid 0) launch fun l => { l with waitPage := true })
          | (.cancel, s) => .next (cancelCrew s l crew)

/-! ## Victims -/

/-- The state without a crew, to see what its removal makes room for (R354). -/
def withoutCrew (s : State) (c : Crew) : State :=
  let leave (k : Core) : Core := { k with slots := k.slots.map fun o => o.filter fun t => t.crew != c.ref }
  let s := { s with cores := s.cores.mapIdx fun i k => if i / 6 == c.cluster then leave k else k }
  freeRosters (modCluster { s with crews := s.crews.filter fun x => x.ref != c.ref } c.cluster fun k =>
    { k with allocs := k.allocs.filter fun a => a.crew != c.ref }) c.cluster

/-- Whether a request of a launch is in progress (R354). -/
def asks (s : State) (l : Launch) : Bool :=
  match l.asking with
  | some v => s.crews.any fun c => c.ref == v
  | none => false

/-- The priority of a crew. -/
def crewPrio (s : State) (c : Crew) : Nat := match launchAt s c.ref.launch with | some l => l.pk.prio | none => 0

/-- The victim for a launch's next crew (R354): the lowest priority, then the latest placement. -/
def victimFor (s : State) (l : Launch) (crew : Nat) : Option Crew :=
  let ok (c : Crew) : Bool := crewPrio s c < l.pk.prio && c.holdoff.isNone &&
    !(s.launches.any fun x => x.asking == some c.ref) && (roomOn (withoutCrew s c) l crew c.cluster).isSome
  (s.crews.filter ok).foldl (fun (b : Option Crew) c =>
    match b with
    | none => some c
    | some x =>
      if crewPrio s c < crewPrio s x || (crewPrio s c == crewPrio s x && x.placed ≤ c.placed) then some c else b) none

/-- A pre-emption is requested of every train of a crew (R189, R354). -/
def askCrew (s : State) (c : Crew) : State :=
  (trainsOf s c.ref).foldl (fun s (i, j) =>
    progressStop (modTrain s i j fun t => if t.ended.isNone then { t with preempt := some s.time } else t) i j) s

/-- PREEMPT_REQUEST (R354): the next crew of a launch has found no cluster for 50 µs. -/
def execPreemptRequest (launch : Nat) (s : State) : Out :=
  match launchAt s launch with
  | none => disabled
  | some l =>
    match nextCrew l, l.waitFrom with
    | some crew, some since =>
      (match victimFor s l crew with
       | none => disabled
       | some c =>
         stepWhen (s.time ≥ since + 50000 && !asks s l)
           (askCrew (modLaunch s launch fun l => { l with asking := some c.ref }) c))
    | _, _ => disabled

end Sys2Proof.Machine
end

