-- ==== Sys2Proof/Machine/RemoteSteps.lean ====
section
/-! DEFINITION. The fabric as its steps see it: what this package accepts as a home (R399, R400), the requests of peers (R401,
R402, R413-R417), the responses to its own requests (R404-R410), the loss and return of ports and peers (R396-R398,
R409-R411), and the report of quiescence (R360). -/
namespace Sys2Proof.Machine

/-! ## What a home accepts -/

/-- An export entry (R399). -/
structure Export where
  base : Nat
  size : Nat
  asid : Nat
  perm : Nat
  deriving DecidableEq, Repr

/-- The export entry of a number, where it is valid (R399). -/
def exportAt (s : State) (i : Nat) : Option Export :=
  let b := memBytes s.mem (ctlBase + 0xF00000 + 16 * i) 16
  let perm := leAt b 14 1
  let size := leAt b 8 4
  if perm % 2 == 1 && perm < 16 && leAt b 15 1 == 0 && 1 ≤ size && size ≤ 2 ^ 20 then
    some ⟨leAt b 0 8, 65536 * size, leAt b 12 2, perm⟩
  else none

/-- The lowest-numbered valid entry whose range holds a line (R400). -/
def exportFor (s : State) (line : Nat) : Option (Nat × Export) :=
  (List.range 256).findSome? fun i =>
    (exportAt s i).bind fun e => if e.base ≤ line * 256 && line * 256 + 256 ≤ e.base + e.size then some (i, e) else none

/-- Whether bytes at a virtual address of an ASID have a page in the 64 KiB frame of a key. -/
def spanHolds (s : State) (asid : Nat) (va : DWord) (n key : Nat) : Bool :=
  let first := va.toNat / 65536
  (List.range ((va.toNat + n - 1) / 65536 - first + 1)).any fun i =>
    let a : DWord := BitVec.ofNat 64 ((first + i) * 65536)
    match walkAsid s asid a with
    | .leaf w bits => !w.testBit 10 && leafKey w bits a / 65536 == key / 65536
    | _ => false

/-- Whether a frame holds the window stack of a train that has not ended, or the save area of a crew that is resident or
saved (R400). -/
def frameHeld (s : State) (key : Nat) : Bool :=
  let stack (t : Train) : Bool :=
    t.ended.isNone && (match launchAt s t.crew.launch with
      | some l => spanHolds s t.asid (stackVa l.pk t.crew.crew t.tix) (stackPitch l.pk) key
      | none => false)
  let area (c : Crew) : Bool := match launchAt s c.ref.launch with
    | some l => spanHolds s c.asid (crewSaveVa l.pk c.ref.crew) (crewSaveSize l.pk) key
    | none => false
  (s.cores.any fun k => k.slots.any fun o => match o with | some t => stack t | none => false) ||
  (s.saved.any fun c => c.trains.any stack) || s.crews.any area || s.saved.any fun c => area c.crew

/-- What refuses a request on a line that needs permissions, none where it is accepted (R400). -/
def homeRefuses (s : State) (line need : Nat) : Option RemoteOutcome :=
  match exportFor s line with
  | none => some .refused
  | some (_, e) =>
    if e.perm &&& need != need || !physOk s (line * 256) 256 then some .refused
    else if frameHeld s (line * 256) then some .refusedWs
    else none

/-- The permission bits R, W and N of an export entry (R399). -/
def permR : Nat := 2
/-- W. -/
def permW : Nat := 4
/-- W and N. -/
def permWN : Nat := 12

/-- Whether a link is up. -/
def portUp (s : State) (p : Nat) : Bool := (nth ⟨false, 0, false⟩ s.ports p).up
/-- Whether a port takes packets: its link is up, and its die's bucket stands above the floor, at which the unit waits (R362). -/
def portTakes (s : State) (p : Nat) : Bool := portUp s p && unitPaid s (p / 4)
/-- Whether packets of a peer can reach this package. -/
def fromPeer (s : State) (peer : Nat) : Bool := routeValid s peer && !routeLost s peer && portTakes s (routePort s peer)
/-- Flits arrive through the port of a peer (R396). -/
def takeFlits (s : State) (peer n : Nat) : State := dieDraw s (routePort s peer / 4) (1000 * n)
/-- A response leaves for a peer, but not for a lost one (R410). -/
def respond (s : State) (peer flits : Nat) (m : OutMsg) : State :=
  if routeLost s peer then s else sendPacket s (routePort s peer) flits m

/-- The sectors of a set, ascending. -/
def sectorList (x : BitVec 4) : List Nat := (List.range 4).filter fun i => x.getLsbD i

/-- The outcome of a read or update that met bad data (R404). -/
def badOutcome (cause : Nat) : RemoteOutcome := if cause == 0x0B then .uncorrectable else .poisoned

/-- REMOTE_READ_REQUEST (R400, R401). -/
def execRemoteReadRequest (src tag line : Nat) (sectors : BitVec 4) (s : State) : Out :=
  let s' := takeFlits s src 1
  let secs := sectorList sectors
  stepWhen (fromPeer s src && line < 2 ^ 44 && sectors != 0) <|
    match homeRefuses s line permR with
    | some o => respond s' src 1 (.readResp src tag o [])
    | none =>
      let (bad, s2) := secs.foldl (fun (acc : Option Nat × State) i =>
        let (b, s) := demandRead (settleBytes acc.2 (line * 256 + 64 * i) 64) none fabricAsid (line * 256 + 64 * i) 64
        (acc.1 <|> b, s)) ((none : Option Nat), s')
      match bad with
      | some cause => respond s2 src 1 (.readResp src tag (badOutcome cause) [])
      | none => respond s2 src (1 + secs.length)
          (.readResp src tag .performed (secs.flatMap fun i => memBytes s2.mem (line * 256 + 64 * i) 64))

/-- The masked bytes of a granule reach its home: the stash copy of a stashed line, else the granule (R243, R292, R369);
whether the merge met an uncorrectable error. -/
def maskedGranule (s : State) (asid g : Nat) (mask : BitVec 64) : Bool × State :=
  let s := recallMasks s asid g none
  if (chunkOfKey s (g * 64)).isSome then
    (false, ((List.range 64).filter fun i => mask.getLsbD i).foldl (fun s i => stashMask s (g * 64 + i) 1) s)
  else (s.latent.contains g && mask != BitVec.allOnes 64, homeMask s asid g mask)

/-- The masked bytes of a line are written at their home; whether a merge met an uncorrectable error (R369, R404). -/
def maskedWrite (s : State) (asid line : Nat) (mask : BitVec 256) (data : List Byte) : Bool × State :=
  let part (i : Nat) : BitVec 64 := (mask >>> (64 * i)).setWidth 64
  let (bad, s) := ((List.range 4).filter fun i => part i != 0).foldl (fun (acc : Bool × State) i =>
    let (b, s) := maskedGranule acc.2 asid (line * 4 + i) (part i)
    (acc.1 || b, s)) (false, s)
  let m := (List.range 256).foldl (fun m i => if mask.getLsbD i then memWrite m (line * 256 + i) (nth 0 data i) else m) s.mem
  (bad, landMem s .relaxed m (line * 256) 256)

/-- REMOTE_WRITE_PACKET (R400, R402, R404). -/
def execRemoteWritePacket (src tag line : Nat) (mask : BitVec 256) (data : List Byte) (s : State) : Out :=
  let s' := takeFlits s src (1 + sectorsOf mask)
  stepWhen (fromPeer s src && line < 2 ^ 44 && mask != 0 && data.length == 256) <|
    match homeRefuses s line permW with
    | some o => respond s' src 1 (.writeAck src tag o)
    | none =>
      let (bad, s2) := maskedWrite s' fabricAsid line mask data
      respond s2 src 1 (.writeAck src tag (if bad then .uncorrectable else .performed))

/-- An accepted atomic of a peer is performed by the owning service train (R298, R302, R303); a failure of one that returns
nothing, and an overflow, set their bits here (R299). -/
def homeAtomic (s : State) (cl : Nat) (a : RemoteAtomic) : RemoteOutcome × Nat × State :=
  let (old, bad, s) := ownerRead s cl false fabricAsid a.addr a.bytes
  match bad with
  | some cause => (badOutcome cause, 0, if a.noReply then statusOr s cl a.asid 4 else s)
  | none =>
    let (new, ovf, cnv) := atomNew a.op a.bytes a.ty a.b a.c a.rmode a.ftz a.draw old
    let s := match new with
      | some x => ownerWrite .relaxed s cl false fabricAsid a.addr (leBytes a.bytes x)
      | none => s
    let bits := (if ovf then 1 else 0) + (if cnv then 2 else 0)
    if a.op == 13 then
      (.performed, if bits == 0 then 0 else 1, if a.noReply && bits != 0 then statusOr s cl a.asid bits else s)
    else (.performed, old, s)

/-- ATOMIC_REQUEST of a peer (R295, R400, R402): it takes its turn behind the requests of its line (R296), and the service train's
instructions are charged to core 5 (R203). -/
def inboundAtomic (cluster : Nat) (a : RemoteAtomic) (s : State) : Out :=
  let s' := takeFlits s a.src 1
  stepWhen (fromPeer s a.src && a.addr < tierBase && cluster == ownerOf s a.addr && a.op ≤ 13 &&
      (a.bytes == 4 || a.bytes == 8) && a.addr % a.bytes == 0 &&
      !((clusterAt s cluster).svc.any fun q => reqLine q == (false, a.addr / 256))) <|
    match homeRefuses s (a.addr / 256) permW with
    | some o => respond s' a.src 1 (.atomicResp a.src a.tag o 0)
    | none =>
      let (o, x, s2) := homeAtomic (chargeService s' cluster) cluster a
      respond s2 a.src 1 (.atomicResp a.src a.tag o (BitVec.ofNat 64 x))

/-- ATOMIC_REQUEST (R302): of this package's own queue, or of a peer. -/
def execAtomicRequest (cluster idx : Nat) (inbound : Option RemoteAtomic) (s : State) : Out :=
  match inbound with
  | none => localAtomic cluster idx s
  | some a => inboundAtomic cluster a s

/-! ## Notify writes and multicasts -/

/-- The notify of an STN whose first packet arrives, which holds its lowest line (R396, R413): the entry that covers that line
decides whether any may be accepted; where none covers it, that packet alone is refused for it (R414, R415). -/
def newNotify (s : State) (src stn tag line list itemTag : Nat) : NotifyIn :=
  let e := exportFor s line
  let all := (listAt s list).isSome && (match e with
    | some (_, x) => x.perm.testBit 3 && listOk s x.asid list
    | none => true)
  let (ix, base, asid) : Nat × Nat × Nat := match e with | some (i, x) => (i, x.base, x.asid) | none => (0, 0, 0)
  { src := src, stn := stn, tag := tag, asid := asid, list := list,
    item := BitVec.ofNat 64 (src % 2 ^ 12 + ix * 2 ^ 12 + itemTag % 2 ^ 16 * 2 ^ 20 + (line * 256 - base) / 256 * 2 ^ 36),
    ok := all && e.isSome, last := false, all := all, line := line, answer := .performed }

/-- An STN is answered, once, and its notify is forgotten (R413, R461). -/
def answerNotify (s : State) (n : NotifyIn) : State :=
  respond { s with notifies := s.notifies.filter fun x => !(x.src == n.src && x.stn == n.stn) } n.src 1
    (.writeAck n.src n.tag n.answer)

/-- One packet of a notify is applied, or refused (R400, R415). -/
def applyNotify (s : State) (n : NotifyIn) (line : Nat) (mask : BitVec 256) (data : List Byte) : RemoteOutcome × State :=
  if !n.all then (.refused, s)
  else
    match homeRefuses s line permWN with
    | some o => (o, s)
    | none =>
      let (bad, s) := maskedWrite s fabricAsid line mask data
      (if bad then .uncorrectable else .performed, s)

/-- The answer of an STN whose packets had two outcomes: a refusal before an error (R404, R415). DESIGN CHOICE, unsafe: log entry
122. -/
def worseAnswer (a b : RemoteOutcome) : RemoteOutcome :=
  if (failReason a).getD 3 == 1 then a else if b == .performed then a else b

/-- NOTIFY_WRITE_RECEIVE (R413-R415): the packets of one STN arrive in the order of their lines (R396). -/
def execNotifyWriteReceive (src tag stn line : Nat) (mask : BitVec 256) (data : List Byte) (list itemTag : Nat) (last : Bool)
    (s : State) : Out :=
  let old := s.notifies.find? fun x => x.src == src && x.stn == stn
  let n := match old with
    | some n => n
    | none => newNotify s src stn tag line list itemTag
  let (o, s1) := applyNotify (takeFlits s src (1 + sectorsOf mask)) n line mask data
  let applied := o == .performed || o == .uncorrectable
  let n' := { n with ok := n.ok && applied, last := last, line := line, answer := worseAnswer n.answer o }
  let rest := s1.notifies.filter fun x => !(x.src == src && x.stn == stn)
  let next := match old with | some n => n.line < line && n.tag == tag | none => true
  stepWhen (fromPeer s src && next && !n.last && n.list == list && line < 2 ^ 44 && mask != 0 && data.length == 256 && list < 4096)
    (if last && !n'.ok then answerNotify s1 n' else { s1 with notifies := rest ++ [n'] })

/-- NOTIFY_ITEM_APPEND (R415): the item is appended, the list having room, and the STN is answered. -/
def execNotifyItemAppend (src stn : Nat) (s : State) : Out :=
  match s.notifies.find? fun x => x.src == src && x.stn == stn with
  | none => disabled
  | some n =>
    if !(n.ok && n.last) then disabled
    else
      match appendItem s n.list n.item with
      | (true, s) => .next (answerNotify s n)
      | (false, _) => disabled

/-- MULTICAST_RECEIVE (R400, R417): the whole line, or none of it. -/
def execMulticastReceive (port tag exportIx off : Nat) (data : List Byte) (s : State) : Out :=
  let s' := dieDraw s (port / 4) 5000
  let ack (s : State) (c : BitVec 2) : State := sendPacket s port 1 (.memberAck tag c)
  stepWhen (portTakes s port && exportIx < 256 && data.length == 256) <|
    match exportAt s exportIx with
    | none => ack s' 1
    | some e =>
      if e.base % 256 != 0 || 256 * off + 256 > e.size then ack s' 1
      else if (homeRefuses s (e.base / 256 + off) permW).isSome then ack s' 1
      else ack (homeWrite s' fabricAsid (e.base + 256 * off) data) 0

/-! ## Responses -/

/-- The sectors received of a line, each at its place among the 256 bytes. -/
def spreadLine (sectors : BitVec 4) (data : List Byte) : List Byte :=
  ((sectorList sectors).zipIdx).foldl (fun d (sec, i) => mergeBytes d (64 * sec) ((data.drop (64 * i)).take 64))
    (List.replicate 256 0)

/-- A load's line has come (R404). -/
def loadReply (s : State) (q : RemoteReq) (o : RemoteOutcome) (data : List Byte) (r : PathRef) (pend : Nat)
    (lanes : List RemoteLane) (dests : List Reg) (size : Nat) (sx : Bool) : State :=
  let line := spreadLine q.sectors data
  let err (x : RemoteLane) : Option LaneErr := (outcomeCause o (if x.kill then 0x14 else 0x0A)).map fun cause =>
    ⟨x.lane, cause, if cause == 0x14 then lossAddr q.line q.peer 0 0 else x.va⟩
  let ws := if o == .performed then lanes.flatMap fun x => regWrites dests x.lane (extendDatum sx size (leAt line x.off size))
    else []
  settleTxn (replyLane s r pend q.id ws (lanes.filterMap err)) q.core q.txn false

/-- An atomic's reply has come (R404). -/
def atomAnswer (s : State) (q : RemoteReq) (o : RemoteOutcome) (data : List Byte) (r : PathRef) (pend lane : Nat)
    (dests : List Reg) (va : DWord) : State :=
  let s := match outcomeCause o 0x14 with
    | none => replyLane s r pend lane (regWrites dests lane (leNat data)) []
    | some cause => replyLane s r pend lane [] [⟨lane, cause, if cause == 0x14 then lossAddr q.line q.peer 0 2 else va⟩]
  settleTxn s q.core q.txn false

/-- A WAITADDR's read of a peer's word has come (R307): the wait ends, traps, or goes on. -/
def waitAnswer (s : State) (q : RemoteReq) (o : RemoteOutcome) (data : List Byte) (r : PathRef) : State :=
  let s := dropTxn s q.core q.txn
  match waitaddrOf s r with
  | none =>
    modPath s r fun p => match p.wake with
      | some (.waitAddr va pa c w e d t a _ l) => { p with wake := some (.waitAddr va pa c w e d t a true l) }
      | _ => p
  | some (p, _) =>
    match p.wake with
    | some (.waitAddr va pa cmp wide eq d dst act _ lost) =>
      (match outcomeCause o 0x14 with
       | some cause =>
         takeTrap (modPath (restartWatch s r) r (wakePath s.point)) r
           ⟨cause, waitLanes p act, p.lastPc, if cause == 0x14 then lossAddr q.line q.peer 0 0 else va⟩
       | none =>
         let v := leAt (spreadLine q.sectors data) (va.toNat % 256) (if wide then 8 else 4)
         if waCond eq cmp v || lost || (match d with | some x => s.time ≥ x | none => false) then
           endWaitaddr s r pa dst wide v
         else modPath s r fun p => { p with wake := some (.waitAddr va pa cmp wide eq d dst act false false) })
    | _ => s

/-- A line of a copy's source has come, or its failure (R401, R404). -/
def copyAnswer (s : State) (q : RemoteReq) (o : RemoteOutcome) (data : List Byte) (cl id : Nat) : State :=
  let x : List Byte := match outcomeCause o 0x14 with
    | none => spreadLine q.sectors data
    | some cause => [BitVec.ofNat 8 cause]
  modCopy s cl id fun c => { c with got := c.got ++ [(q.peer, q.line, x)] }

/-- A line of a page that migrates from a peer has come (R376). -/
def migrateAnswer (s : State) (q : RemoteReq) (o : RemoteOutcome) (data : List Byte) : State :=
  let put (m : Migration) : Migration := match outcomeCause o 0x14 with
    | none => { m with got := m.got ++ [(q.line, spreadLine q.sectors data)] }
    | some cause => { m with fail := m.fail <|> some cause }
  { s with migration := s.migration.map put }

/-- A granule that LAUNCH reads from a peer has come, or its failure (R346, R404). -/
def launchAnswer (s : State) (q : RemoteReq) (o : RemoteOutcome) (data : List Byte) (uid : Option Nat) : State :=
  let fill (l : List PeerGot) : List PeerGot := l.map fun x =>
    if x.peer == q.peer && x.gran / 4 == q.line && q.sectors.getLsbD (x.gran % 4) then { x with data := some (o, data) } else x
  match uid with
  | none => { s with control := { s.control with got := fill s.control.got } }
  | some u => (findPaths s [q.core] fun p => p.uid == u).foldl (fun s r => modPath s r fun p => { p with got := fill p.got }) s

/-- An outstanding request is answered (R404). A RED or FXADD.NR that the peer could not be asked to perform, or refused, sets
REDERR here; poison and errors at the peer set it there (R299). -/
def answerRemote (s : State) (q : RemoteReq) (o : RemoteOutcome) (data : List Byte) : State :=
  let s := { s with remotes := s.remotes.filter fun x => x.id != q.id }
  match q.use with
  | .load r pend lanes dests size sx => loadReply s q o data r pend lanes dests size sx
  | .atomic r pend lane dests va => atomAnswer s q o data r pend lane dests va
  | .atomicNoReply cl asid =>
    settleTxn (match o with | .lost | .refused | .refusedWs => statusOr s cl asid 4 | _ => s) q.core q.txn true
  | .copy cl id => copyAnswer s q o data cl id
  | .waitAddr r => waitAnswer s q o data r
  | .migrate => migrateAnswer s q o data
  | .launch uid => launchAnswer s q o data uid

/-- Whether a request asks for an atomic. -/
def RemoteReq.isAtomic (q : RemoteReq) : Bool := match q.use with | .atomic .. | .atomicNoReply .. => true | _ => false

/-- Whether the package answers its own request, the peer being lost (R409). -/
def ownAnswer (s : State) (peer : Nat) (o : RemoteOutcome) : Bool := o == .lost && routeLost s peer

/-- The flits of an answer (R396): none where the package makes it itself (R409). -/
def answerFlits (s : State) (peer port n : Nat) (o : RemoteOutcome) : State :=
  if ownAnswer s peer o then s else dieDraw s (port / 4) (1000 * n)

/-- Whether an answer can be taken: it comes from the package itself, or its port's die can pay (R362, R409). -/
def takesAnswer (s : State) (peer port : Nat) (o : RemoteOutcome) : Bool := ownAnswer s peer o || unitPaid s (port / 4)

/-- REMOTE_RESPONSE (R404). -/
def execRemoteResponse (id : Nat) (outcome : RemoteOutcome) (data : List Byte) (s : State) : Out :=
  match s.remotes.find? fun q => q.id == id with
  | none => disabled
  | some q =>
    let read := outcome == .performed && !q.isAtomic
    let n := if read then (sectorList q.sectors).length else 0
    stepWhen (takesAnswer s q.peer q.port outcome && (if read then data.length == 64 * n else data.length ≤ 8))
      (answerRemote (answerFlits s q.peer q.port (1 + n) outcome) q outcome data)

/-- WC_AGE_DRAIN (R407). -/
def execWcAgeDrain (core id : Nat) (s : State) : Out :=
  match ((coreAt s core).wc.take 64).find? fun e => e.id == id with
  | none => disabled
  | some e => stepWhen (!e.draining && s.time ≥ e.created + 250 * bitsOf s.fabCtl.toNat 5 0) (wcDrain s core fun x => x.id == id)

/-- The lane that has waited longest behind the 64 entries takes one that is free now: its age counts from here, and full it
drains (R407). -/
def wcEnter (s : State) (core id : Nat) : State :=
  wcDrain (modCore s core fun k => { k with wc := k.wc.map fun x => if x.id == id then { x with created := s.time } else x }) core
    fun x => x.id == id && x.mask == BitVec.allOnes 256

/-- A sent write-combining entry is acknowledged (R404, R407, R408). -/
def ackWc (s : State) (core : Nat) (e : WcEntry) (o : RemoteOutcome) : State :=
  let next := ((coreAt s core).wc.drop 64).head?
  let s := modCore s core fun k => { k with wc := k.wc.filter fun x => x.id != e.id }
  let s := match next with | some x => wcEnter s core x.id | none => s
  let s := match failReason o with
    | some reason => giveReport s e.holders e.trains ⟨e.peer, e.line, reason, 1⟩
    | none => s
  wcSend s core

/-- WC_ACK (R407, R408). -/
def execWcAck (core id : Nat) (outcome : RemoteOutcome) (s : State) : Out :=
  match (coreAt s core).wc.find? fun e => e.id == id with
  | none => disabled
  | some e => stepWhen (e.sent && takesAnswer s e.peer (routePort s e.peer) outcome)
      (ackWc (answerFlits s e.peer (routePort s e.peer) 1 outcome) core e outcome)

/-- The failure of a copy towards a peer: its first byte of the line (R275, R404). -/
def copyFail (s : State) (w : OutWrite) (cause : Nat) (o : CopyOp) : Nat × DWord :=
  (cause, if cause == 0x14 then lossAddr w.line w.peer 0 4
    else
      let hit (x : CopyByte) : Bool := match x.dst with | .peer id pa => id == w.peer && pa / 256 == w.line | _ => false
      match (copySides s (clusterOf w.core) o).find? hit with
      | some x => BitVec.ofNat 64 x.da
      | none => o.dst)

/-- A write packet of its own is acknowledged (R402, R404, R405, R413). -/
def ackWrite (s : State) (w : OutWrite) (o : RemoteOutcome) : State :=
  let s := { s with outWrites := s.outWrites.filter fun x => x.id != w.id }
  match failReason o, w.kind with
  | none, _ => s
  | some reason, 0 => giveReport s w.holders [w.train] ⟨w.peer, w.line, reason, 3⟩
  | some reason, 1 => giveReport s w.holders [w.train] ⟨w.peer, w.line, reason, 1⟩
  | some _, 2 =>
    let cause := (outcomeCause o 0x14).getD 0x07
    modCluster s (clusterOf w.core) fun k => { k with copies := k.copies.map fun c =>
      if c.txn == w.txn then { c with failed := c.failed <|> some (copyFail s w cause c) } else c }
  | some _, _ =>
    { s with migration := s.migration.map fun m => { m with fail := m.fail <|> outcomeCause o 0x14 } }

/-- WRITE_ACKNOWLEDGEMENT (R404, R413). -/
def execWriteAcknowledgement (id : Nat) (outcome : RemoteOutcome) (s : State) : Out :=
  match s.outWrites.find? fun w => w.id == id with
  | none => disabled
  | some w => stepWhen (takesAnswer s w.peer w.port outcome) (ackWrite (answerFlits s w.peer w.port 1 outcome) w outcome)

/-! ## Ports and peers -/

/-- A port of the package. -/
def portAt (s : State) (p : Nat) : Port := nth ⟨false, 0, false⟩ s.ports p
/-- Change of a port. -/
def modPort (s : State) (p : Nat) (f : Port → Port) : State := { s with ports := updAt s.ports p f }

/-- FABRIC_LINK_LOSS (R396, R398). -/
def execFabricLinkLoss (port : Nat) (s : State) : Out :=
  stepWhen (portUp s port) (modPort s port fun p => { p with up := false, downAt := s.time })

/-- FABRIC_LINK_RETURN (R396). -/
def execFabricLinkReturn (port : Nat) (s : State) : Out :=
  stepWhen (port < 16 && !portUp s port) (modPort s port fun p => { p with up := true, failed := false })

/-- DAMAGED_FLIT (R396): the damaged flit draws its tokens, and its replay is all that follows. -/
def execDamagedFlit (port : Nat) (s : State) : Out := stepWhen (portTakes s port) (dieDraw s (port / 4) 1000)

/-- A WAITADDR that waits on a peer's word reads again (R307). -/
def wakeRemoteWaits (s : State) (lost : Nat → Bool) : State :=
  let waits (p : Path) : Bool := match p.wake with | some (.waitAddr _ pa _ _ _ _ _ _ _ _) => pa == remoteKey | _ => false
  (findPaths s (List.range 288) waits).foldl (fun s r =>
    match pathAt s r, trainAt s r.core r.slot with
    | some p, some t =>
      (match p.wake with
       | some (.waitAddr va pa c w e d dst a _ l) =>
         (match xlate s r.core t.asid va with
          | .leaf lf _ =>
            if lost (bitsOf lf 63 52) then
              queueStep (modPath s r fun p => { p with wake := some (.waitAddr va pa c w e d dst a true l) }) (.waitaddrWake r)
            else s
          | _ => s)
       | _ => s)
    | _, _ => s) s

/-- Whether a port has failed. -/
def portFailed (s : State) (p : Nat) : Bool := (portAt s p).failed

/-- A route entry after ports have failed (R398): the other port, where it has one that has not failed, or LOST. -/
def failRoute (failed : Nat → Bool) (w : Word) : Word :=
  if !failed (bitsOf w.toNat 3 0) || !(w.getLsbD 8) then w
  else if w.getLsbD 9 && !failed (bitsOf w.toNat 7 4) then BitVec.ofNat 32 (w.toNat - bitsOf w.toNat 3 0 - 512 + bitsOf w.toNat 7 4)
  else w ||| 0x400

/-- A group route entry after ports have failed (R398). -/
def failGroupRoute (failed : Nat → Bool) (w : Word) : Word :=
  if failed (bitsOf w.toNat 3 0) && w.getLsbD 9 && !failed (bitsOf w.toNat 7 4) then
    BitVec.ofNat 32 (w.toNat - bitsOf w.toNat 3 0 - 512 + bitsOf w.toNat 7 4)
  else w

/-- The routes follow the ports that have failed (R398). -/
def settleRoutes (s : State) : State :=
  { s with
    routes := s.routes.map fun (i, w) => (i, failRoute (portFailed s) w)
    groupRoutes := s.groupRoutes.map fun (i, w) => (i, failGroupRoute (portFailed s) w) }

/-- The groups whose root depot cannot be reached any more leave their views (R434). -/
def cutGroups (s : State) : State :=
  (s.groups.filter fun g => groupCut s g.dgrp && g.inside).foldl (fun s g => leaveView s g) s

/-- PORT_LINK_DOWN (R398): what is outstanding on the port ends as for a lost peer, what waits at it is not sent, and the routes
move. -/
def execPortLinkDown (port : Nat) (s : State) : Out :=
  let p := portAt s port
  let reqs := s.remotes.filter fun q => q.port == port
  let wcs := (s.cores.zipIdx).flatMap fun (k, i) =>
    (k.wc.filter fun e => e.sent && routePort s e.peer == port).map fun e => (i, e)
  let outs := s.outWrites.filter fun w => w.port == port
  let mcs := s.mcsts.filter fun o => o.sent && o.port == port
  let s' := settleRoutes (modPort { s with portQ := s.portQ.filter fun x => x.1 != port } port fun p => { p with failed := true })
  let s' := reqs.foldl (fun s q => answerRemote s q .lost []) s'
  let s' := wcs.foldl (fun s (i, e) => ackWc s i e .lost) s'
  let s' := outs.foldl (fun s w => ackWrite s w .lost) s'
  let s' := mcs.foldl (fun s o => endMcst s o (some (0x14, BitVec.ofNat 64 o.group))) s'
  stepWhen (port < 16 && !p.up && !p.failed && s.time ≥ p.downAt + 10000)
    (wakeRemoteWaits (cutGroups s') fun peer => !routeLost s peer && routeLost s' peer)

/-- LOST of a route entry is set or cleared; what waits for a lost peer is not sent (R409-R411). -/
def setLost (s : State) (peer : Nat) (b : Bool) : State :=
  let s := if b then dropQueued s peer else s
  { s with routes := s.routes.map fun (i, w) => if i == peer then (i, if b then w ||| 0x400 else w &&& ~~~0x400) else (i, w) }

/-- What the depots choose of a route entry: PORT, ALTPORT, VALID and ALTV, its bits 0 to 9 (R397). -/
def chosenRoute (choice : List (Nat × BitVec 10)) (x : Nat × Word) : Nat × Word :=
  match choice.find? fun c => c.1 == x.1 with
  | some c => (x.1, (x.2 &&& 0xFFFFFC00) ||| c.2.setWidth 32)
  | none => x

/-- Whether a request of this package to a peer is outstanding (R398). -/
def peerBusy (s : State) (peer : Nat) : Bool :=
  (s.remotes.any fun q => q.peer == peer) || (s.outWrites.any fun w => w.peer == peer) ||
  (s.portQ.any fun x => x.2.2.towards == some peer) || s.cores.any fun k => k.wc.any fun e => e.peer == peer && e.sent

/-- A notice of the depots may change their choice of ports, for the indices towards which nothing is outstanding, so that the
order of R396 holds; the entry of this package's own index stays without VALID (R397, R398). -/
def choiceOk (s : State) (routes groups : List (Nat × BitVec 10)) : Bool :=
  (routes.all fun x => !peerBusy s x.1 && (x.1 != s.pkgId || !(x.2.getLsbD 8))) &&
  groups.all fun x => s.groups.all fun g => g.dgrp != x.1 || g.idle

/-- The routes take the new choice that a notice holds, if any, where ports have failed the other one (R397, R398); groups that
no path is left to leave their views (R434). What the choice is comes from outside: a free value. -/
def newChoice (s : State) : State :=
  let (routes, groups) := Config.depotChoice s.free
  let s := { s with free := s.free + 1 }
  if choiceOk s routes groups then
    cutGroups (settleRoutes { s with
      routes := s.routes.map (chosenRoute routes), groupRoutes := s.groupRoutes.map (chosenRoute groups) })
  else s

/-- LOSS_NOTICE (R397, R409): with the depots' new choice of ports. -/
def execLossNotice (peer : Nat) (s : State) : Out :=
  stepWhen (fromPeer s peer) (wakeRemoteWaits (setLost (newChoice (takeFlits s peer 1)) peer true) fun n => n == peer)

/-- ADMISSION_NOTICE (R397, R411): with the depots' new choice of ports. -/
def execAdmissionNotice (peer : Nat) (s : State) : Out :=
  stepWhen (routeValid s peer && routeLost s peer && portTakes s (routePort s peer))
    (setLost (newChoice (takeFlits s peer 1)) peer false)

/-! ## Quiescence -/

/-- The paths of an ASID that wait for its quiescence. -/
def quiesceWaiters (s : State) (asid : Nat) : List PathRef :=
  (findPaths s (List.range 288) fun p => match p.wake with | some (.wlpop _ _ _) | some (.quiesce _) => true | _ => false).filter
    fun r => match trainAt s r.core r.slot with | some t => t.asid == asid | none => false

/-- QUIESCENCE_DETECT (R360, R361). -/
def execQuiescenceDetect (asid : Nat) (s : State) : Out :=
  let ws := quiesceWaiters s asid
  stepWhen (quiescent s asid && !ws.isEmpty) (ws.foldl recheckList s)

end Sys2Proof.Machine
end

