-- ==== Sys2Proof/Machine/HostSteps.lean ====
section
/-! DEFINITION. Power and reset (R382, R392), the control port (R386), and the conductor's messages (R387-R393): LAUNCH, CONTEXT,
TLBI, CONFIG, HALT, MIGRATE (R376, R377), LISTBIND, RINGS and ATTEST. -/
namespace Sys2Proof.Machine

/-! ## Power and reset -/

/-- POWER_ON (R382, R384): input power is applied; the banks hold no charge, and what self-test found stays remapped. -/
def execPowerOn (s : State) : Out :=
  .next { State.reset with badLanes := s.badLanes, remapped := s.badLanes, signed := s.signed }

/-- Whether a number is a power of two in a range. -/
def powerIn (x lo hi : Nat) : Bool := lo ≤ x && x ≤ hi && (List.range 32).any fun i => x == 2 ^ i

/-- Whether what bring-up finds keeps its limits (R370, R389, R395, R397, R406). -/
def bootOk (b : BootInfo) : Bool :=
  1 ≤ b.wcAge && b.wcAge ≤ 63 && powerIn b.inSize 64 4096 && powerIn b.outSize 64 8192 && b.pkgId < 4096 &&
  b.tier.length == 8 && b.ctxBase + 256 * 1024 ≤ 0x9000000000 && b.routes.all (fun r => r.1 < 4096 && r.1 != b.pkgId) &&
  b.groups.all fun r => r.1 < 4096

/-- Where the reply ring lies in the control window (R389). -/
def replyOff : Nat := 0x100000

/-- A record of the reply ring (R387). -/
def replyBytes (seq status cause : Nat) (result : List Byte) : List Byte :=
  leBytes 4 seq ++ leBytes 4 status ++ leBytes 4 cause ++ (result ++ List.replicate 20 0).take 20

/-- The key of a word of the control window. -/
def ctlKey (off : Nat) : Nat := ctlBase + off

/-- Reply `k` is written into the reply ring and PUSHed (R386, R387, R389). -/
def postReply (s : State) (k : Nat) (rec_ : List Byte) : State :=
  let i := k % memLe s.mem (ctlKey (replyOff + 8)) 4
  let m := memPut (memPut s.mem (ctlKey (replyOff + 64 + 32 * i)) rec_) (ctlKey replyOff) (leBytes 4 ((k + 1) % 2 ^ 32))
  pushFrame { s with mem := m } 0 (pushOff replyOff i) rec_

/-- The package that a valid image has started (R392). The boot reply comes before reply 0: the reply ring's indices start at
2^32 - 1, so that message k has reply k (R389; DESIGN CHOICE: log entry 121). -/
def started (s : State) (b : BootInfo) : State :=
  let (image, s) := drawFree s
  let m := memPut (memPut (memPut [] (ctlKey 8) (leBytes 4 b.inSize)) (ctlKey (replyOff + 4)) (leBytes 4 (2 ^ 32 - 1)))
    (ctlKey (replyOff + 8)) (leBytes 4 b.outSize)
  postReply { s with
    image := image.toNat,
    boot := .running, mem := m, pkgId := b.pkgId, routes := b.routes, groupRoutes := b.groups, tier := b.tier,
    fabCtl := BitVec.ofNat 32 b.wcAge, ports := List.replicate 16 ⟨true, 0, false⟩,
    control := { s.control with ctxBase := b.ctxBase, iface := b.iface } } (2 ^ 32 - 1) (replyBytes 0 0 0 (leBytes 4 b.iface.toNat))

/-- PACKAGE_RESET (R382, R392): a reset that keeps input power keeps the banks' charge; start-up then takes the first image
slot that verifies, or leaves the port in recovery. -/
def execPackageReset (info : BootInfo) (s : State) : Out :=
  let base : State := { State.reset with bank := s.bank, badLanes := s.badLanes, remapped := s.badLanes, signed := s.signed }
  stepWhen (s.boot != .off && bootOk info)
    (if info.slotA || info.slotB then started base info else { base with boot := .recovery })

/-! ## The control port -/

/-- Whether a byte of the control window is one that the host cannot change: SIZE of a ring (R389). -/
def fixedOff (off : Nat) : Bool := (8 ≤ off && off < 12) || (replyOff + 8 ≤ off && off < replyOff + 12)

/-- Whether an offset lies in the collective-group table (R426), or in the shard directory (R419). -/
def inGroups (off : Nat) : Bool := 0xF10000 ≤ off && off < 0xF50000
/-- The shard directory (R419). -/
def inShards (off : Nat) : Bool := 0xF01000 ≤ off && off < 0xF05000

/-- The parts of a frame that fall into group entries: group, offset in the entry, bytes (R426). -/
def groupParts (off : Nat) (data : List Byte) : List (Nat × Nat × List Byte) :=
  let hits := ((data.zipIdx).map fun (b, i) => (off + i, b)).filter fun x => inGroups x.1
  let groups := uniq (hits.map fun x => (x.1 - 0xF10000) / 64)
  groups.map fun g =>
    let mine := hits.filter fun x => (x.1 - 0xF10000) / 64 == g
    (g, (match mine with | x :: _ => (x.1 - 0xF10000) % 64 | [] => 0), mine.map (·.2))

/-- The ASIDs whose directory entry a frame writes (R419). -/
def shardHits (off n : Nat) : List Nat :=
  uniq (((List.range n).filter fun i => inShards (off + i)).map fun i => (off + i - 0xF01000) / 16)

/-! ### Records of the inbound ring -/

/-- A word of the control window. -/
def ctlWord (s : State) (off : Nat) : Nat := memLe s.mem (ctlKey off) 4

/-- A record of the inbound ring in the form that is handled (R389). -/
def recordForm (s : State) (q : Nat) : List Byte :=
  match s.control.forms.find? fun x => x.1 == q with
  | some x => x.2
  | none => memBytes s.mem (ctlKey (64 + 64 * q)) 64

/-- Whether a record of the inbound ring is posted and not yet consumed (R389). -/
def unconsumed (s : State) (q : Nat) : Bool :=
  let size := ctlWord s 8
  q < size && (q + size - ctlWord s 4 % size) % size < (ctlWord s 0 + 2 ^ 32 - ctlWord s 4) % 2 ^ 32

/-- Whether the conductor has begun the message of a record, whose form is then settled. -/
def begun (s : State) (q : Nat) : Bool :=
  q == ctlWord s 4 % ctlWord s 8 && (s.control.owed.isSome || s.control.waits || s.migration.isSome)

/-- A record that a WRITE changes before it is consumed is handled in its old or its new form, unpredictably (R389): a free
value chooses, unless the conductor has begun the old form. -/
def keepForm (s : State) (q : Nat) : State :=
  let keep (s : State) : State := { s with control := { s.control with forms := (q, recordForm s q) :: s.control.forms } }
  if !unconsumed s q || (s.control.forms.any fun x => x.1 == q) then s
  else if begun s q then keep s
  else
    let (w, s) := drawFree s
    if w.getLsbD 0 then keep s else s

/-- The records of the inbound ring that a WRITE touches. -/
def recordHits (off n : Nat) : List Nat :=
  uniq (((List.range n).filter fun i => 64 ≤ off + i).map fun i => (off + i - 64) / 64)

/-- A WRITE lands in the control window (R386): a group entry's bytes wait for their group (R426), a written directory entry
resets SHARDVER (R419), a written doorbell wakes the conductor (R389). -/
def landFrame (s : State) (off : Nat) (data : List Byte) : State :=
  let s := (recordHits off data.length).foldl keepForm s
  let m := (data.zipIdx).foldl (fun m (b, i) =>
    if fixedOff (off + i) || inGroups (off + i) then m else memWrite m (ctlKey (off + i)) b) s.mem
  let parts := groupParts off data
  let bell := (List.range data.length).any fun i => 16 ≤ off + i && off + i < 24
  let s := { s with applying := s.applying ++ parts, control := { s.control with awake := s.control.awake || bell } }
  let s := if data.isEmpty then s else landMem s .relaxed m (ctlKey off) data.length
  (shardHits off data.length).foldl (fun s a => setShardVer s a 0) s

/-- Whether a WRITE may land (R386, R392): inside the control window, and before a valid image only in the recovery
window. -/
def mayLand (s : State) (off n : Nat) : Bool :=
  if s.boot == .running then off + n ≤ 2 ^ 24
  else Config.recovery.1 ≤ off && off + n ≤ Config.recovery.1 + Config.recovery.2

/-- CONTROL_WRITE_FRAME (R386): frames of a lane take effect in the order of SEQ; one whose CRC fails is answered with NAK. -/
def execControlWriteFrame (lane seq off : Nat) (data : List Byte) (crcOk : Bool) (s : State) : Out :=
  let good := send { s with control := { s.control with
    expect := updAt s.control.expect lane fun q => (q + 1) % 2 ^ 32 } } (.frameAck lane seq)
  stepWhen ((s.boot == .running || s.boot == .recovery) && lane < 2 && data.length ≤ 256 && nth 0 s.control.expect lane == seq)
    (if !crcOk then send s (.frameNak lane seq)
     else if mayLand s off data.length then landFrame good off data
     else { good with control := { good.control with errors := good.control.errors + 1 } })

/-- The unacknowledged PUSH of a lane and SEQ. -/
def unackedAt (s : State) (lane seq : Nat) : Option (Nat × Nat × Nat × List Byte) :=
  s.control.unacked.find? fun x => x.1 == lane && x.2.1 == seq

/-- CONTROL_ACK_RECEIVE (R386). -/
def execControlAckReceive (lane seq : Nat) (s : State) : Out :=
  stepWhen (unackedAt s lane seq).isSome { s with control := { s.control with
    unacked := s.control.unacked.filter fun x => !(x.1 == lane && x.2.1 == seq) } }

/-- CONTROL_NAK_RECEIVE (R386): the frame is sent again. -/
def execControlNakReceive (lane seq : Nat) (s : State) : Out :=
  match unackedAt s lane seq with
  | none => disabled
  | some (_, _, off, data) => .next (send s (.push lane seq off data))

/-! ## Messages -/

/-- Whether a TLBI of the conductor has yet to complete (R239). -/
def conductorWaits (s : State) : Bool := s.shoots.any fun x => x.who.isNone

/-- The message that the conductor is at (R387, R389): it is awake and waits for no TLBI of its own, the inbound ring holds one,
and the reply ring has room. -/
def message (s : State) : Option (List Byte) :=
  let r := ctlWord s
  if s.boot == .running && s.control.awake && !conductorWaits s && r 0 != r 4 &&
      (r replyOff + 2 ^ 32 - r (replyOff + 4)) % 2 ^ 32 < r (replyOff + 8) then
    some (recordForm s (r 4 % r 8))
  else none

/-- What handling a message gives (R387): STATUS, CAUSE, the result, and the state. -/
structure Answer where
  status : Nat
  cause  : Nat
  result : List Byte
  st     : State

/-- The message is done. -/
def doneMsg (s : State) (result : List Byte) : Answer := ⟨0, 0, result, s⟩
/-- The message is rejected. -/
def rejectMsg (s : State) (result : List Byte) : Answer := ⟨1, 0, result, s⟩

/-- A message's reply, and TAIL moves past it (R389). -/
def replyMsg (b : List Byte) (status cause : Nat) (result : List Byte) (s : State) : State :=
  let s := postReply s (ctlWord s 4) (replyBytes (leAt b 0 4) status cause result)
  let q := ctlWord s 4 % ctlWord s 8
  let tail := (ctlWord s 4 + 1) % 2 ^ 32
  { s with
    mem := memPut s.mem (ctlKey 4) (leBytes 4 tail),
    control := { s.control with
      awake := ctlWord s 0 != tail, owed := none, forms := s.control.forms.filter fun x => x.1 != q } }

/-- A message is answered; where a TLBI of the conductor has yet to complete, once it has (R239, R389). -/
def answerMsg (b : List Byte) (a : Answer) : State :=
  if conductorWaits a.st then { a.st with control := { a.st.control with owed := some (a.status, a.cause, a.result) } }
  else replyMsg b a.status a.cause a.result a.st

/-- Whether bytes `lo` to `hi - 1` of a message are zero. -/
def zeros (b : List Byte) (lo hi : Nat) : Bool := ((b.drop lo).take (hi - lo)).all (· == 0)

/-- The conductor handles a message that a test picks (R388); `f` gives nothing while it has to wait. -/
def handle (mine : List Byte → Bool) (f : List Byte → State → Option Answer) (s : State) : Out :=
  match message s with
  | none => disabled
  | some b =>
    if !mine b then disabled
    else
      match s.control.owed with
      | some (status, cause, result) => .next (replyMsg b status cause result s)
      | none =>
        if !zeros b 5 8 then .next (answerMsg b (rejectMsg s []))
        else
          match f b s with
          | some a => .next (answerMsg b a)
          | none => disabled

/-- The TYPE of a message. -/
def typeOf (b : List Byte) : Nat := leAt b 4 1

/-- TRAINID of the conductor (R39, R387). -/
def conductorId : Word := trainIdOf 0 5 10

/-- HOST_LAUNCH (R346, R388): LAUNCH in the packet's ASID with the conductor's right. Its park writes the fault record and
waits for a TLBI. A message of a type that R388 does not give is rejected here. -/
def execHostLaunch (s : State) : Out :=
  match message s with
  | none => disabled
  | some b =>
    if !(typeOf b == 1 || typeOf b == 0 || typeOf b > 9) then disabled
    else if typeOf b != 1 || !(zeros b 5 8 && zeros b 10 16 && zeros b 24 64) || leAt b 8 2 ≥ 1024 then
      .next (answerMsg b (rejectMsg s []))
    else if s.control.waits then disabled
    else
      let asid := leAt b 8 2
      let g (a : Nat) : Reader := ⟨none, fun va => walkAsid s a va, a, true, s.control.got⟩
      let done (s : State) : State := { s with control := { s.control with got := [] } }
      match readPacket s (g asid) g none (BitVec.ofNat 64 (leAt b 16 8)) with
      | .trap cause _ err =>
        .next (answerMsg b ⟨2, cause, [], done (match err with | some (asid, n) => findError s asid n | none => s)⟩)
      | .park pva lvl kind =>
        let s := faultRecord (done s) asid pva kind lvl conductorId 0
        .next { s with control := { s.control with waits := true } }
      | .ask peer gran => stepWhen (!asked s.control.got peer gran)
          (askLaunch { s with control := { s.control with got := s.control.got ++ [⟨peer, gran, none⟩] } } 5 none peer gran)
      | .ok p => stepWhen (pendingLaunches s < 256) (answerMsg b (doneMsg (enterLaunch (done s) p) []))

/-- Whether a context's reserved bytes are zero and its fields have the form that R390's table gives them; a queue size of 0, as
in a context not yet written, is no queue. DEDUCED. -/
def ctxOk (b : List Byte) : Bool :=
  let size := leAt b 40 4
  leAt b 44 4 < 4 && zeros b 48 256 && leAt b 0 8 % 2 ^ 20 == 0 && leAt b 24 8 % 64 == 0 && leAt b 32 8 % 4096 == 0 &&
    (size == 0 || powerIn size 64 65536)

/-- A context is written, in the machine's own table and in memory (R390). -/
def putCtx (s : State) (asid : Nat) (b : List Byte) : State :=
  let s := { s with ctxs := s.ctxs.filter (fun c => c.asid != asid) ++ [⟨asid, b⟩] }
  homeWrite s asid (s.control.ctxBase + 256 * asid) b

/-- Every core of the package. -/
def pkgScope (_ : Nat) : Bool := true

/-- CONTEXT (R388-R390). -/
def contextMsg (b : List Byte) (s : State) : Option Answer :=
  let asid := leAt b 8 2
  let off := leAt b 10 1
  let len := leAt b 11 1
  let old := (ctxOf s asid ++ List.replicate 256 0).take 256
  let new := mergeBytes old off ((b.drop 16).take len)
  if !zeros b 12 16 || asid ≥ 1024 || off % 8 != 0 || len % 8 != 0 || len < 8 || len > 48 || off + len > 256 || !ctxOk new then
    some (rejectMsg s [])
  else some (doneMsg (tlbi (putCtx s asid new) none pkgScope (some asid) none) [])

/-- HOST_CONTEXT (R390). -/
def execHostContext (s : State) : Out := handle (fun b => typeOf b == 2) contextMsg s

/-- TLBI (R239, R388). -/
def tlbiMsg (b : List Byte) (s : State) : Option Answer :=
  let asid := leAt b 10 2
  let va := leAt b 16 8
  if !zeros b 9 10 || !zeros b 12 16 || !zeros b 24 64 || asid ≥ 1024 then some (rejectMsg s [])
  else
    match leAt b 8 1 with
    | 0 => some (doneMsg (tlbi s none pkgScope (some asid) (some (BitVec.ofNat 64 va))) [])
    | 1 => some (if va == 0 then doneMsg (tlbi s none pkgScope (some asid) none) [] else rejectMsg s [])
    | 2 => some (if va == 0 && asid == 0 then doneMsg (tlbi s none pkgScope none none) [] else rejectMsg s [])
    | _ => some (rejectMsg s [])

/-- HOST_TLBI (R388). -/
def execHostTlbi (s : State) : Out := handle (fun b => typeOf b == 3) tlbiMsg s

/-! ## CONFIG -/

/-- A package word by its number (R389); none has a number of 59 or more. -/
def configWord (s : State) (w : Nat) : Word :=
  if w == 0 then s.rampset
  else if w ≤ 4 then (dieAt s (w - 1)).power
  else if w ≤ 8 then (dieAt s (w - 5)).clock
  else if w ≤ 56 then (clusterAt s (w - 9)).policy
  else if w == 57 then s.migCtl
  else if w == 58 then s.feature0
  else 0

/-- CONFIG for the words that a test picks (R388): `put` refuses a value with none. -/
def config (mine : Nat → Bool) (put : State → Nat → Nat → Option State) (s : State) : Out :=
  handle (fun b => typeOf b == 4 && mine (leAt b 8 2)) (fun b s =>
    let w := leAt b 8 2
    let after (s : State) : List Byte := leBytes 4 (configWord s w).toNat
    if !zeros b 10 12 || !zeros b 16 64 then some (rejectMsg s (after s))
    else
      match put s w (leAt b 12 4) with
      | some s' => some (doneMsg s' (after s'))
      | none => some (rejectMsg s (after s))) s

/-- CONFIG_RAMPSET (R380); a word that R389 does not give is rejected here. -/
def execConfigRampset (s : State) : Out :=
  config (fun w => w == 0 || w ≥ 59)
    (fun s w v => if w == 0 && rampsetOk v then some { s with rampset := BitVec.ofNat 32 (v % 2 ^ 29) } else none) s

/-- CONFIG_POWER_CONTROL (R364): the allotments follow CORESHARE at once (R362). -/
def execConfigPowerControl (s : State) : Out :=
  config (fun w => 1 ≤ w && w ≤ 4)
    (fun s w v =>
      if v / 2 ^ 25 != 0 || v % 256 < 128 || bitsOf v 23 8 == 0 then none
      else some (setAllots (modDie s (w - 1) fun d => { d with power := BitVec.ofNat 32 v }) (w - 1))) s

/-- CONFIG_DIE_CLOCK (R320, R385): a change stops every core of the die while its clock relocks. -/
def execConfigDieClock (s : State) : Out :=
  config (fun w => 5 ≤ w && w ≤ 8)
    (fun s w v =>
      if v < 8 || v > 24 then none
      else
        let same := (dieAt s (w - 5)).clock.toNat == v
        let s := modDie s (w - 5) fun d => { d with clock := BitVec.ofNat 32 v }
        let stop (i : Nat) (k : Core) : Core := if dieOf i == w - 5 then { k with relock := k.relock || !same } else k
        some { s with cores := s.cores.mapIdx stop }) s

/-- CONFIG_CLOCK_POLICY (R317, R318): core 5 runs at NMAX. -/
def execConfigClockPolicy (s : State) : Out :=
  config (fun w => 9 ≤ w && w ≤ 56)
    (fun s w v =>
      let lo := bitsOf v 19 16
      let hi := bitsOf v 23 20
      if lo < 4 || hi > 8 || lo > hi || bitsOf v 7 0 > bitsOf v 15 8 || v / 2 ^ 25 != 0 then none
      else some (setRatio (modCluster s (w - 9) fun k => { k with policy := BitVec.ofNat 32 v }) (6 * (w - 9) + 5) hi)) s

/-- CONFIG_MIGRATION_CONTROL (R377): a zero field is refused. -/
def execConfigMigrationControl (s : State) : Out :=
  config (fun w => w == 57)
    (fun s _ v =>
      if v % 256 == 0 || bitsOf v 15 8 == 0 || v / 2 ^ 16 == 0 then none
      else some { s with migCtl := BitVec.ofNat 32 v }) s

/-- CONFIG_FEATURE_OFFER (R393): the offered bits that the device supports, and the lower minor version; another major version
is refused. -/
def execConfigFeatureOffer (s : State) : Out :=
  config (fun w => w == 58)
    (fun s _ v =>
      let mine := s.control.iface.toNat
      let minor := min (bitsOf v 23 16) (bitsOf mine 23 16)
      let word : Word := BitVec.ofNat 32 v &&& Config.features &&& 0x3F
      if v / 2 ^ 24 != mine / 2 ^ 24 then none
      else some { s with feature0 := word ||| BitVec.ofNat 32 (minor * 2 ^ 16 + v / 2 ^ 24 * 2 ^ 24) }) s

/-! ## HALT -/

/-- HALT (R191, R388): HREQ and HSEL of the train in a slot are set; an empty slot is refused. -/
def haltMsg (b : List Byte) (s : State) : Option Answer :=
  let id := leAt b 8 4
  let slot := bitsOf id 11 8
  let core := bitsOf id 14 12
  let cl := bitsOf id 21 16
  let sel := leAt b 12 1
  let bad := bitsOf id 7 5 != 0 || id.testBit 15 || id / 2 ^ 22 != 0 || core > 5 || cl > 47 || slot > 11 || sel > 8
  match trainAt s (6 * cl + core) slot with
  | some t =>
    if bad || !zeros b 13 64 || t.ended.isSome then some (rejectMsg s [])
    else some (doneMsg (modTrain s (6 * cl + core) slot fun t =>
      requestHalt { t with dbgctl := BitVec.ofNat 32 (t.dbgctl.toNat % 8 + 8 + 16 * sel) }) [])
  | none => some (rejectMsg s [])

/-- HOST_HALT (R388). -/
def execHostHalt (s : State) : Out := handle (fun b => typeOf b == 5) haltMsg s

/-! ## MIGRATE -/

/-- The leaf of a page in its new place (R376 step 5). -/
def movedLeaf (w dest frame peer : Nat) : Nat :=
  w % 2 ^ 9 + (if dest == 1 then 2 ^ 9 else 0) + (if dest == 2 then 2 ^ 10 else 0) + bitsOf w 15 11 * 2 ^ 11 +
    bitsOf frame 51 16 * 2 ^ 16 + (if dest == 2 then peer * 2 ^ 52 else 0)

/-- The leaf of a page on its way (R376 step 2): V = 0 and FPOL PARK. -/
def parkedLeaf (w : Nat) : Nat := w - w % 2 - bitsOf w 7 6 * 2 ^ 6

/-- A leaf is written, and its page's translations are dropped (R376 steps 2, 3, 5 and 6). -/
def setLeaf (s : State) (asid : Nat) (va : DWord) (k w : Nat) : State :=
  tlbi (homeWriteAs .relaxed s asid k (leBytes 8 w)) none pkgScope (some asid) (some va)

/-- Whether a number lies in a range. -/
def inRange (x lo n : Nat) : Bool := lo ≤ x && x < lo + n

/-- A page's masked bytes are recalled, and its first granule with bad data is found (R376 step 4): the cause. -/
def readPage (s : State) (asid src n : Nat) : Option Nat × State :=
  let mine (g : Nat) : Bool := inRange (g * 64) src n
  let s := (uniq ((s.l1.filter fun x => mine x.granule && x.mask != 0).map (·.granule))).foldl
    (fun s g => recallMasks s asid g none) s
  match ((s.poison ++ s.latent).filter mine).foldl (fun (m : Option Nat) g =>
      some (match m with | some x => min x g | none => g)) none with
  | none => (none, s)
  | some g => demandRead s none asid (g * 64) 64

/-- What the homes of a page's granules draw for reading or writing them all (R207, R368): the tier's price, or as much of a
stack's as the last-level cache does not serve, which the specification does not settle. -/
def drawPage (s : State) (k n : Nat) : State :=
  (List.range 4).foldl (fun s die =>
    let lines := ((List.range (n / 256)).filter fun i => homeDie (k + 256 * i) == die).length
    if k ≥ tierBase then dieDraw s die (2600 * 4 * lines)
    else
      let (w, s) := drawFree s
      dieDraw s die (1300 * (w.toNat % (4 * lines + 1)))) s

/-- A page's bytes at another place, which they overwrite whole. -/
def putPage (s : State) (src dst n : Nat) : State :=
  let cells := s.mem.filter fun c => inRange c.1 src n
  let rest := s.mem.filter fun c => !inRange c.1 dst n
  let keep (g : Nat) : Bool := !inRange (g * 64) dst n
  let s : State := { s with
    mem := cells.foldl (fun m (a, b) => memWrite m (dst + (a - src)) b) rest
    l1 := s.l1.filter fun x => keep x.granule
    poison := s.poison.filter keep
    latent := s.latent.filter keep
    logged := s.logged.filter keep }
  ((s.clusters.flatMap (·.monitors)).filter fun m => inRange (m.line * 256) dst n).foldl
    (fun s m => wakeWaiters s (m.line * 256) 256) s

/-- The thrash detector counts a move (R377), and pins the page where it has moved too often. -/
def noteMove (s : State) (asid : Nat) (page : DWord) : State :=
  let moves := s.migCtl.toNat % 256
  let window := 1000000 * bitsOf s.migCtl.toNat 15 8
  let old := s.thrash.find? fun x => x.asid == asid && x.page == page.toNat
  let recent := match old with | some x => x.moves.filter fun t => s.time ≤ t + window | none => []
  let now := s.time :: recent
  let pin := now.length > moves
  let s := match leafOf s asid page with
    | some (k, w, _) => if pin then homeWrite s asid k (leBytes 8 (w ||| 256)) else s
    | none => s
  { s with thrash := (⟨asid, page.toNat, now, if pin then some s.time else none⟩ ::
      s.thrash.filter fun x => !(x.asid == asid && x.page == page.toNat)).take 1024 }

/-- The result of a MIGRATE (R388): a code and a cause. -/
def migResult (code cause : Nat) : List Byte := leBytes 4 code ++ leBytes 4 cause

/-- The base of the page of a size in bits. -/
def pageBase (va : DWord) (bits : Nat) : DWord := BitVec.ofNat 64 (va.toNat / 2 ^ bits * 2 ^ bits)

/-- A migration ends with its leaf at the new place, or with the recorded one (R376). -/
def endMigration (s : State) (m : Migration) (fail : Option Nat) : Answer :=
  let s := { s with migration := none }
  match fail with
  | some cause => doneMsg (setLeaf s m.asid m.va m.leafK m.old) (migResult 4 cause)
  | none => doneMsg (noteMove (setLeaf s m.asid m.va m.leafK m.new) m.asid (pageBase m.va m.bits)) (migResult 0 0)

/-- The lines of a page leave for a peer (R376 step 4). -/
def sendPage (s : State) (m : Migration) (data : Nat → List Byte) : State :=
  let peer := bitsOf m.new 63 52
  let frame := bitsOf m.new 51 m.bits * 2 ^ m.bits
  let s := { s with migration := some { m with sent := true } }
  (List.range (2 ^ m.bits / 256)).foldl (fun s i =>
    let (wid, s) := fresh s
    let line := frame / 256 + i
    sendOutWrite s ⟨wid, peer, line, 0, 3, 0, 0, 0, [], [], none⟩ (BitVec.allOnes 256) fun port =>
      .write peer port wid line (BitVec.allOnes 256) (data i)) s

/-- The lines of a page are asked for at its peer. -/
def askPage (s : State) (m : Migration) : State :=
  let peer := bitsOf m.old 63 52
  let frame := bitsOf m.old 51 m.bits * 2 ^ m.bits
  (List.range (2 ^ m.bits / 256)).foldl (fun s i =>
    let (rid, s) := fresh s
    let line := frame / 256 + i
    sendRemote s ⟨rid, peer, line, 0xF, 0, 0, 0, .migrate⟩ fun port => .readReq peer port rid line 0xF)
    { s with migration := some m }

/-- The key of a leaf's frame on this package. -/
def frameKey (w bits : Nat) : Nat := (if w.testBit 9 then tierBase else 0) + bitsOf w 51 bits * 2 ^ bits

/-- Whether a migration awaits the fabric. -/
def migrateBusy (s : State) : Bool :=
  (s.remotes.any fun q => match q.use with | .migrate => true | _ => false) || s.outWrites.any fun w => w.kind == 3

/-- A page of this package is copied, or leaves for its peer (R376 step 4). -/
def copyPage (s : State) (m : Migration) : State ⊕ Answer :=
  let src := frameKey m.old m.bits
  match readPage (drawPage s src (2 ^ m.bits)) m.asid src (2 ^ m.bits) with
  | (some cause, s) => .inr (endMigration s m (some cause))
  | (none, s) =>
    if m.new.testBit 10 then .inl (sendPage s m fun i => memBytes s.mem (src + 256 * i) 256)
    else
      let dst := frameKey m.new m.bits
      .inr (endMigration (putPage (drawPage s dst (2 ^ m.bits)) src dst (2 ^ m.bits)) m none)

/-- A page that was a peer's has come, and goes on to its frame (R376 step 4). -/
def landPage (s : State) (m : Migration) : State ⊕ Answer :=
  let line (i : Nat) : List Byte :=
    match m.got.find? fun x => x.1 == bitsOf m.old 51 m.bits * 2 ^ m.bits / 256 + i with
    | some (_, d) => d
    | none => []
  if m.new.testBit 10 then .inl (sendPage s m line)
  else
    .inr (endMigration ((List.range (2 ^ m.bits / 256)).foldl (fun s i =>
      homeWrite s m.asid (frameKey m.new m.bits + 256 * i) (line i)) s) m none)

/-- A migration goes on once its TLBI has completed, or the fabric has answered (R376 steps 4 to 6). -/
def goOnMigrate (s : State) (m : Migration) : State ⊕ Answer :=
  match m.fail with
  | some cause => .inr (endMigration s m (some cause))
  | none =>
    if m.sent then .inr (endMigration s m none)
    else if !m.old.testBit 10 then copyPage s m
    else if m.got.isEmpty then .inl (askPage s m)
    else landPage s m

/-- A migration begins (R376 steps 1 to 3). -/
def beginMigrate (s : State) (m : Migration) : State ⊕ Answer :=
  let s := setLeaf s m.asid m.va m.leafK (parkedLeaf m.old)
  if conductorWaits s then .inl { s with migration := some m } else goOnMigrate s m

/-- Whether a destination may take a page (R376, R388). -/
def destOk (s : State) (dest frame peer n : Nat) : Bool :=
  frame % n == 0 && frame + n ≤ 2 ^ 52 &&
  (match dest with
   | 0 => physOk s frame n
   | 1 => physOk s (tierBase + frame) n
   | 2 => routeValid s peer
   | _ => false)

/-- MIGRATE (R376, R388): a page that is not mapped, or a destination that cannot take it, is refused; an absent page under
PARK counts as in motion. -/
def migrateMsg (b : List Byte) (s : State) : State ⊕ Answer :=
  let asid := leAt b 8 2
  let dest := leAt b 10 1
  let peer := leAt b 12 2
  let va : DWord := BitVec.ofNat 64 (leAt b 16 8)
  let frame := leAt b 24 8
  if !zeros b 5 8 || !zeros b 11 12 || !zeros b 14 16 || !zeros b 32 64 || asid ≥ 1024 || (dest != 2 && peer != 0) then
    .inr (rejectMsg s [])
  else
    let s := walkTouch s asid va
    match leafOf s asid va with
    | none =>
      (match walkAsid s asid va with
       | .absent 0 _ => .inr (if canonical va then doneMsg s (migResult 3 0) else rejectMsg s [])
       | _ => .inr (rejectMsg s []))
    | some (k, w, bits) =>
      if !destOk s dest frame peer (2 ^ bits) then .inr (rejectMsg s [])
      else if w.testBit 8 then .inr (doneMsg s (migResult 1 0))
      else if !(w.testBit 10) && s.clusters.any (fun c => c.stash.any fun x => inRange x.key (frameKey w bits) (2 ^ bits)) then
        .inr (doneMsg s (migResult 2 0))
      else beginMigrate s ⟨leAt b 0 4, asid, va, k, w, bits, movedLeaf w dest frame peer, [], false, none⟩

/-- HOST_MIGRATE (R376, R388): a page that moves from or to a peer takes more steps of this kind, each once the fabric has
answered the last. -/
def execHostMigrate (s : State) : Out :=
  match message s with
  | none => disabled
  | some b =>
    if typeOf b != 6 || migrateBusy s then disabled
    else
      match s.control.owed with
      | some (status, cause, result) => .next (replyMsg b status cause result s)
      | none =>
      match (match s.migration with | some m => goOnMigrate s m | none => migrateMsg b s) with
      | .inl s => .next s
      | .inr a => .next (answerMsg b a)

/-! ## LISTBIND, RINGS, ATTEST -/

/-- Whether a bound list is idle (R388). -/
def listIdle (s : State) (l : WorkList) : Bool :=
  let holds (t : Train) : Bool := t.lanes.any fun ln => ln.hold == some l.id
  let waits (p : Path) : Bool := match p.wake with
    | some (.wlpop lists _ _) => lists.any fun x => x.2 == l.id
    | _ => false
  let trainUses (t : Train) : Bool := holds t || (livePaths t.paths).any fun (_, p) => waits p
  l.tail == l.head && !(s.notifies.any fun n => n.ok && n.list == l.id) &&
  !(s.cores.any fun k => k.slots.any fun o => match o with | some t => trainUses t | none => false) &&
  !(s.saved.any fun c => c.trains.any trainUses)

/-- LISTBIND (R356, R388). -/
def listbindMsg (b : List Byte) (s : State) : Option Answer :=
  let id := leAt b 8 2
  let asid := leAt b 10 2
  let k := leAt b 12 1
  let ring := leAt b 16 8
  let busy := match listAt s id with | some l => !listIdle s l | none => false
  if id ≥ 4096 || asid ≥ 1024 || !zeros b 13 16 || !zeros b 24 64 || busy || (k != 0 && (k < 5 || k > 24)) ||
      ring % 256 != 0 || (k != 0 && (ring ≥ tierBase || !physOk s ring (8 * 2 ^ k))) then
    some (rejectMsg s [])
  else
    let rest := s.lists.filter fun l => l.id != id
    some (doneMsg { s with lists := if k == 0 then rest else rest ++ [⟨id, asid, ring, k, 0, 0⟩] } [])

/-- HOST_LISTBIND (R388). -/
def execHostListbind (s : State) : Out := handle (fun b => typeOf b == 7) listbindMsg s

/-- The records that were held before the error log was placed are written into it and PUSHed, and DROPS with its header
(R391). -/
def placeLog (s : State) (base size : Nat) : State :=
  let held := s.control.held
  let s := { s with control := { s.control with errLog := some (base, size), held := [] } }
  let s := held.foldl (fun s rec_ => logRecord rec_ s (s.latent.length + 1)) s
  homeWrite s 0xFFFFFFFF (base + 8) (leBytes 4 s.control.drops)

/-- RINGS (R388, R391). -/
def ringsMsg (b : List Byte) (s : State) : Option Answer :=
  let id := leAt b 8 4
  let size := leAt b 12 4
  let base := leAt b 16 8
  let core := id - 0x1000
  let sample := 0x1000 ≤ id && core < 288
  if !zeros b 24 64 || !(sample || id == 0x2000) || !powerIn size 64 (2 ^ 20) || base % 4096 != 0 || base ≥ tierBase ||
      !physOk s base (64 + 32 * size) then
    some (rejectMsg s [])
  else if sample then some (doneMsg (modCore s core fun k => { k with ring := some (base, size) }) [])
  else some (doneMsg (placeLog s base size) [])

/-- HOST_RINGS (R388). -/
def execHostRings (s : State) : Out := handle (fun b => typeOf b == 8) ringsMsg s

/-- A quote is written into the control window and PUSHed (R389). -/
def putQuote (s : State) (off : Nat) (quote : List Byte) : State :=
  (List.range ((quote.length + 255) / 256)).foldl (fun s i =>
    pushFrame s 0 (off + 256 * i) ((quote.drop (256 * i)).take 256)) { s with mem := memPut s.mem (ctlKey off) quote }

/-- The quote that answers a message: the digests of the images that run and the message's nonce, signed with the identity key's
next signature (R392). The specification gives neither its layout nor the key: the bytes are an opaque function of these three. -/
def quoteOf (s : State) (b : List Byte) : List Byte := (Config.quote s.image ((b.drop 8).take 32) s.signed).take 16384

/-- Whether the identity key's signature counter is spent: 2^20 signatures of an XMSS-SHAKE_20_256 key (R392). -/
def keySpent (s : State) : Bool := s.signed ≥ 2 ^ 20

/-- ATTEST (R388, R392). -/
def attestMsg (b : List Byte) (s : State) : Option Answer :=
  let off := leAt b 40 4
  if !zeros b 44 64 || off % 4096 != 0 || off + 16384 > 2 ^ 24 || keySpent s then some (rejectMsg s [])
  else
    let quote := quoteOf s b
    some (doneMsg { putQuote s off quote with signed := s.signed + 1 } (leBytes 4 quote.length))

/-- HOST_ATTEST (R388, R392): the quote, or STATUS 1 where the key's counter is spent. -/
def execHostAttest (quote : List Byte) (spent : Bool) (s : State) : Out :=
  if spent != keySpent s then disabled
  else handle (fun b => typeOf b == 9 && (spent || quote == quoteOf s b)) attestMsg s

/-- The quote that the conductor's next message calls for. -/
def quoteNow (s : State) : List Byte := match message s with | some b => quoteOf s b | none => []

end Sys2Proof.Machine
end

