-- ==== Sys2Proof/Machine/ScalarOps.lean ====
section
/-! DEFINITION. The scalar instructions (R104, R105). -/
namespace Sys2Proof.Machine

/-- The width of a scalar operation. -/
def Ctx.sw (c : Ctx) : Nat := if c.wide then 64 else 32

/-- A scalar result of two sources at the operation's width (R104). -/
def Ctx.scalar2 (c : Ctx) (s : State) (op : Bool → Nat → Nat → Nat → Nat) : State :=
  writeS s c.r c.f.d.toNat c.wide (op (tySigned c.ty) c.sw (c.s c.f.a c.wide) (c.sb c.ty c.wide % 2 ^ c.sw))

/-- A scalar shift: the count is 32 bits (R104). -/
def Ctx.scalarShift (c : Ctx) (s : State) (op : Bool → Nat → Nat → Nat → Nat) : State :=
  let n := match expandImm c.f c.ty with | some x => x % 2 ^ 32 | none => c.s c.f.b false
  writeS s c.r c.f.d.toNat c.wide (op (tySigned c.ty) c.sw (c.s c.f.a c.wide) n)

/-- The effect of SADD. -/
def saddBody (c : Ctx) (s : State) : State := c.scalar2 s fun _ w a b => wrapTo w (a + b)
/-- SADD (R104). -/
def execSadd (f : Fields) (s : State) : Out := issue (.sadd f) noEntry saddBody s
/-- The effect of SSUB. -/
def ssubBody (c : Ctx) (s : State) : State := c.scalar2 s fun _ w a b => wrapTo w ((a : Int) - b)
/-- SSUB (R104). -/
def execSsub (f : Fields) (s : State) : Out := issue (.ssub f) noEntry ssubBody s
/-- The effect of SMUL. -/
def smulBody (c : Ctx) (s : State) : State := c.scalar2 s fun _ w a b => a * b % 2 ^ w
/-- SMUL (R104). -/
def execSmul (f : Fields) (s : State) : Out := issue (.smul f) noEntry smulBody s
/-- The effect of SAND. -/
def sandBody (c : Ctx) (s : State) : State := c.scalar2 s fun _ _ a b => a &&& b
/-- SAND (R104). -/
def execSand (f : Fields) (s : State) : Out := issue (.sand f) noEntry sandBody s
/-- The effect of SOR. -/
def sorBody (c : Ctx) (s : State) : State := c.scalar2 s fun _ _ a b => a ||| b
/-- SOR (R104). -/
def execSor (f : Fields) (s : State) : Out := issue (.sor f) noEntry sorBody s
/-- The effect of SXOR. -/
def sxorBody (c : Ctx) (s : State) : State := c.scalar2 s fun _ _ a b => a ^^^ b
/-- SXOR (R104). -/
def execSxor (f : Fields) (s : State) : Out := issue (.sxor f) noEntry sxorBody s
/-- The effect of SSHL. -/
def sshlBody (c : Ctx) (s : State) : State := c.scalarShift s fun _ w a n => shlVal w a n
/-- SSHL (R104). -/
def execSshl (f : Fields) (s : State) : Out := issue (.sshl f) noEntry sshlBody s
/-- The effect of SSHR. -/
def sshrBody (c : Ctx) (s : State) : State := c.scalarShift s fun sg w a n => if sg then shaVal w a n else shrVal w a n
/-- SSHR (R104). -/
def execSshr (f : Fields) (s : State) : Out := issue (.sshr f) noEntry sshrBody s
/-- The effect of SCMP. -/
def scmpBody (c : Ctx) (s : State) : State :=
  let sg := tySigned c.ty
  let yes := condHolds c.f.x.toNat (asView sg c.sw (c.s c.f.a c.wide)) (asView sg c.sw (c.sb c.ty c.wide))
  writeS s c.r c.f.d.toNat false (if yes then 1 else 0)
/-- SCMP (R105). -/
def execScmp (f : Fields) (s : State) : Out := issue (.scmp f) noEntry scmpBody s
/-- The effect of SMOV. -/
def smovBody (c : Ctx) (s : State) : State := writeS s c.r c.f.d.toNat c.wide (c.s c.f.a c.wide)
/-- SMOV (R104). -/
def execSmov (f : Fields) (s : State) : Out := issue (.smov f) noEntry smovBody s
/-- The effect of SMOVI. -/
def smoviBody (c : Ctx) (s : State) : State := writeS s c.r c.f.d.toNat c.wide (c.sb c.ty c.wide)
/-- SMOVI (R104). -/
def execSmovi (f : Fields) (s : State) : Out := issue (.smovi f) noEntry smoviBody s
/-- The effect of SLEA. -/
def sleaBody (c : Ctx) (s : State) : State :=
  writeS s c.r c.f.d.toNat true (leaVal c.f.x.toNat (c.s c.f.a true) (c.sb .i32 false))
/-- SLEA (R104). -/
def execSlea (f : Fields) (s : State) : Out := issue (.slea f) noEntry sleaBody s
/-- The effect of V2S. -/
def v2sBody (c : Ctx) (s : State) : State :=
  let lane := if c.f.x.toNat == 1 then
      (let n := c.s c.f.b false
       if n < 96 && c.act.has n then some n else none)
    else c.act.lowest
  let x := match lane with | some l => c.v l (c.lane l) c.f.a c.wide | none => 0
  writeS s c.r c.f.d.toNat c.wide x
/-- V2S (R105). -/
def execV2s (f : Fields) (s : State) : Out := issue (.v2s f) noEntry v2sBody s
/-- S2V (R105). -/
def execS2v (f : Fields) (s : State) : Out :=
  issue (.s2v f) noEntry (fun c s => c.writeD s c.wide fun _ _ => c.s c.f.a c.wide) s
/-- The effect of SMIN. -/
def sminBody (c : Ctx) (s : State) : State :=
  c.scalar2 s fun sg w a b =>
  if asView sg w b < asView sg w a then b else a
/-- SMIN (R104). -/
def execSmin (f : Fields) (s : State) : Out := issue (.smin f) noEntry sminBody s
/-- The effect of SMAX. -/
def smaxBody (c : Ctx) (s : State) : State :=
  c.scalar2 s fun sg w a b =>
  if asView sg w b > asView sg w a then b else a
/-- SMAX (R104). -/
def execSmax (f : Fields) (s : State) : Out := issue (.smax f) noEntry smaxBody s

end Sys2Proof.Machine
end

