-- ==== Sys2Proof/Machine/Cycle.lean ====
section
/-! DEFINITION. A core's cycle: the readiness of its candidates (R196, R199-R201), the choice among them (R195, R197, R198),
the reservations (R209, R245), the stall reasons (R211), and what a core counts (R201, R213, R319). -/
namespace Sys2Proof.Machine

/-- The checks and waits of each instruction's own entry (R196, R466). -/
def entryOf (i : Instr) : State → Ctx → Entry :=
  match i with
  | .setmode f => setmodeEntry f
  | .getsp f => getspEntry f
  | .setsp f => setspEntry f
  | .winstackWrite f => winstackEntry (.winstackWrite f)
  | .windepthWrite _ => windepthEntry
  | .rampsetWrite f => rampsetWriteEntry f
  | .sampctlWrite f => sampctlWriteEntry f
  | .dbgctlWrite f => dbgctlWriteEntry f
  | .eret _ | .waitl _ | .exit _ | .tail _ => fun _ c => drainEntry c
  | .yield _ => yieldEntry
  | .bra _ => braEntry
  | .brx _ => brxEntry
  | .jset _ => jsetEntry
  | .jwait _ => jwaitEntry
  | .call _ => callEntry false
  | .callx _ => callEntry true
  | .ret _ => retEntry
  | .wflush _ => wflushEntry
  | .fcvt f => cvtEntry (.fcvt f)
  | .icvtf f => cvtEntry (.icvtf f)
  | .fcvti f => cvtEntry (.fcvti f)
  | .tabld _ => tabldEntry
  | .ld w _ => ldEntry w
  | .st w _ => stEntry w
  | .lds w _ => ldsEntry w
  | .sts w _ => stsEntry w
  | .ldc w _ => ldcEntry w
  | .ldi w _ => ldiEntry w
  | .ldl w f => ldlEntry w f
  | .ldt w _ => ldtEntry w
  | .stt w _ => sttEntry w
  | .atom _ | .red _ | .cas _ => atomOpEntry
  | .fxadd _ => atomEntry 8 false
  | .waitaddr _ => waEntry
  | .fence _ => fenceOpEntry
  | .rfence _ | .tlbiPage _ | .tlbiAsid _ | .tlbiAll _ => fenceEntry
  | .opfence _ => opfenceEntry
  | .cacheopZero _ => cacheopZeroEntry
  | .mma f => mmaEntry false (.mma f)
  | .mmag f => mmaEntry true (.mmag f)
  | .gather f => gatherEntry f
  | .cpy f => cpyEntry f
  | .cpyx f => cpyxEntry f
  | .cwait _ | .ctest _ => waitObjEntry
  | .qbind f => qbindEntry (.qbind f)
  | .qfree f => qfreeEntry f
  | .nmc f => nmcEntry (.nmc f)
  | .nmfence _ => nmfenceEntry
  | .accrd f => accrdEntry f
  | .bararv _ | .barwt _ | .barsync _ => barEntry false
  | .rbarSync _ | .rbarArv _ | .rbarWt _ => barEntry true
  | .launch f => launchEntry (.launch f)
  | .wlpush _ => wlpushEntry
  | .intent f => intentEntry f
  | .intentG f => intentGEntry f
  | .stn _ => stnEntry
  | .mcst _ => orderEntry
  | .collAr f => collEntry (.collAr f)
  | .collRs f => collEntry (.collRs f)
  | .collAg f => collEntry (.collAg f)
  | .collBc f => collEntry (.collBc f)
  | .collBar f => collEntry (.collBar f)
  | .fbar f => fbarEntry (.fbar f)
  | .viewqTag f => viewqEntry (.viewqTag f)
  | .viewqState f => viewqEntry (.viewqState f)
  | .viewqLive f => viewqEntry (.viewqLive f)
  | .viewqSeq f => viewqEntry (.viewqSeq f)
  | .vjoin f => vjoinEntry f
  | .shsyncPub _ => shsyncPubEntry
  | .accwrLoad f => accwrEntry (.accwrLoad f) (some 512)
  | .accwrLoad64 f => accwrEntry (.accwrLoad64 f) (some 1024)
  | .accwrZero f => accwrEntry (.accwrZero f) none
  | .accwrFree f => accwrEntry (.accwrFree f) none
  | .smap _ | .sunmap _ => orderEntry
  | _ => noEntry

/-- How a candidate stands in a cycle: held by a stall reason, with the write-combining entries that must drain for it or the
transfers it demands; held back by the band; with a granule to ask a peer for; short of transaction entries or of tokens, with whether nothing else
holds it; or ready, with whether it will issue or trap uncharged (R196, R211). -/
inductive Verdict where
  | stall (code : Nat) (drain : List Nat) (jobs : List TenderKind)
  | band
  | ask (peer gran : Nat)
  | entries (need : Nat) (only : Bool)
  | tokens (price : Nat) (only : Bool)
  | ready (issues : Bool)
  deriving DecidableEq, Repr

/-- Whether every operand can be forwarded (R200): no producer of the path, and no producer of a scalar of its train, is still in
the way. -/
def forwarded (s : State) (c : Ctx) : Bool :=
  let now := (coreAt s c.r.core).cycle
  let reads := (regUses c).1
  !((c.p.producers ++ c.t.made).any fun g => g.ready > now && reads.contains g.reg)

/-- Whether the instruction's pipe is free (R199). -/
def pipeFree (s : State) (c : Ctx) : Bool :=
  !(0x60 ≤ c.sp.op && c.sp.op ≤ 0x6B) || (coreAt s c.r.core).sfu ≤ (coreAt s c.r.core).cycle

/-- Whether the band holds an instruction back (R201). -/
def bandHolds (s : State) (i : Instr) (c : Ctx) : Bool :=
  isHeavy i c.ty && heavyNow (coreAt s c.r.core) ≥ (coreAt s c.r.core).band

/-- The effects of the instructions that may write a mask register (R25). -/
def maskBody (i : Instr) : Option (Ctx → State → State) :=
  match i with
  | .getsp _ => some getspBody
  | .sadd _ => some saddBody
  | .ssub _ => some ssubBody
  | .smul _ => some smulBody
  | .sand _ => some sandBody
  | .sor _ => some sorBody
  | .sxor _ => some sxorBody
  | .sshl _ => some sshlBody
  | .sshr _ => some sshrBody
  | .scmp _ => some scmpBody
  | .smov _ => some smovBody
  | .smovi _ => some smoviBody
  | .slea _ => some sleaBody
  | .smin _ => some sminBody
  | .smax _ => some smaxBody
  | .v2s _ => some v2sBody
  | .vote _ => some voteBody
  | .reduce _ => some reduceBody
  | _ => none

/-- Whether an instruction waits because it would release a lane (R26). -/
def maskHolds (s : State) (i : Instr) (c : Ctx) : Bool :=
  maskPending c && (match maskBody i with | some b => released c (b c (commit i c s)) | none => false)

/-- Whether another TABLD, or an FTAB of the other bank, holds a TABLD (R115). -/
def tableHeld (s : State) (i : Instr) (c : Ctx) : Bool :=
  match i with
  | .tabld _ => tabldFlying s c.r.core || ftabBusy (coreAt s c.r.core)
  | _ => false

/-- How an instruction that decodes stands (R196). -/
def verdictOf (s : State) (i : Instr) (c : Ctx) : Verdict :=
  let free := forwarded s c && pipeFree s c
  let rest (issues : Bool) : Verdict :=
    if bandHolds s i c then .band
    else if tokensFor s c.r < priceOf i c.ty then .tokens (priceOf i c.ty) free
    else if !free then .stall 0x0E [] []
    else .ready issues
  match checksEntry i (entryOf i) s c with
  | .wait 0x0E _ => if bandHolds s i c then .band else if tokensFor s c.r < priceOf i c.ty then .tokens (priceOf i c.ty) false
      else .stall 0x0E [] []
  | .wait code drain => .stall code drain []
  | .demand jobs => .stall 0x02 [] jobs
  | .ask peer gran => .ask peer gran
  | .entries need => .entries need (free && !tableHeld s i c && !bandHolds s i c && tokensFor s c.r ≥ priceOf i c.ty)
  | .ok => if maskHolds s i c then .stall 0x01 [] [] else rest true
  | _ => rest false

/-- How words that name no instruction stand: as ready once the windows are open and the path's stores have their entries
(R141, R196, R407); they have no pipe, no operand and no price. -/
def verdictNone (s : State) (r : PathRef) (p : Path) : Verdict :=
  if p.pending.any fun q => !windowOpen q then .stall 0x01 [] []
  else if wcHeld s r.core p.uid then .stall 0x14 [] []
  else .ready false

/-- How words that fail a decode check stand (R196): as the instruction of their opcode would, whose checks aside every other
condition must hold. -/
def verdictBad (s : State) (r : PathRef) (p : Path) (w0 w1 w2 : Word) : Verdict :=
  match decodeLoose w0 w1 w2 with
  | none => verdictNone s r p
  | some i =>
    match mkCtx s r i with
    | none => verdictNone s r p
    | some c =>
      let held := (shootEntry s c).behind ((wcWaits s c).behind ((resultsEntry c).andThen (entryOf i s c).waits))
      match held with
      | .wait code drain => .stall code drain []
      | .entries need => .entries need false
      | .ask peer gran => .ask peer gran
      | _ =>
        if bandHolds s i c then .band
        else if tokensFor s c.r < priceOf i c.ty then .tokens (priceOf i c.ty) (forwarded s c && pipeFree s c)
        else if forwarded s c && pipeFree s c then .ready false
        else .stall 0x0E [] []

/-- How a candidate stands; one whose words fail a decode check is treated as ready (R196). -/
def verdict (s : State) (r : PathRef) : Verdict :=
  match pathAt s r with
  | none => .stall 0 [] []
  | some p =>
    if p.delay > 0 then .stall 0 [] []
    else
      match p.fetched with
      | none => .stall 0 [] []
      | some (w0, w1, w2) =>
        match decodeWords w0 w1 w2 with
        | .bad _ => verdictBad s r p w0 w1 w2
        | .ok i _ =>
          match mkCtx s r i with
          | none => verdictNone s r p
          | some c => verdictOf s i c

/-- A candidate path of a cycle, with what ranks it (R197). -/
structure Cand where
  r     : PathRef
  waitc : Nat
  prio  : Nat
  stamp : Nat
  tix   : Nat
  turn  : Nat
  v     : Verdict

/-- Whether a candidate comes before another (R197). -/
def Cand.before (a b : Cand) : Bool :=
  let ua := decide (a.waitc ≥ 128)
  let ub := decide (b.waitc ≥ 128)
  if ua != ub then ua
  else if ua && a.waitc != b.waitc then a.waitc > b.waitc
  else if a.prio != b.prio then a.prio > b.prio
  else if a.stamp != b.stamp then a.stamp < b.stamp
  else if a.tix != b.tix then a.tix < b.tix
  else if a.r.slot != b.r.slot then a.r.slot < b.r.slot
  else a.turn < b.turn

/-- The first of some candidates by rank. -/
def firstCand (l : List Cand) : Option Cand :=
  l.foldl (fun b x => match b with | none => some x | some y => if x.before y then some x else b) none

/-- Whether a path may be chosen: it may issue, and a pre-emption has not stopped it for want of a REGION (R40, R189). -/
def choosable (s : State) (t : Train) (p : Path) : Bool :=
  issuable p && !(p.stop == .awaitingRegion && (match t.preempt with | some x => s.time ≥ x + 100000 | none => false))

/-- The paths of a train that may be candidates: its handler's where one runs, with its own beside those of an agent that
freezes no sibling (R177, R184, R195). -/
def candPaths (t : Train) : List (Nat × Bool × Path) :=
  let own := (livePaths t.paths).map fun (e, p) => (e, false, p)
  match t.handler with
  | none => own
  | some h => (livePaths h.paths).map (fun (e, p) => (e, true, p)) ++ (if h.agent && !dbgFreeze t then own else [])

/-- The candidates of a train (R195). -/
def trainCands (s : State) (core slot : Nat) (t : Train) : List Cand :=
  if t.ended.isSome then []
  else
    let n := match t.handler with | some h => if h.agent && !dbgFreeze t then 8 else 4 | none => 8
    (candPaths t).filterMap fun (e, h, p) =>
      if !choosable s t p then none
      else
        let r : PathRef := ⟨core, slot, e, h⟩
        some ⟨r, p.waitc, t.prio, t.stamp, t.tix, (e + 2 * n - t.lastEntry - 1) % n, verdict s r⟩

/-- The candidates of a core's cycle: none before the trains of a crew assigned to a gated cluster count as placed (R365). -/
def candsOf (s : State) (core : Nat) : List Cand :=
  if (clusterAt s (clusterOf core)).gate != .on then []
  else
    ((coreAt s core).slots.zipIdx).flatMap fun (o, i) => match o with
      | some t => trainCands s core i t
      | none => []

/-! ## The start of a cycle -/

/-- The core's counts at the start of a cycle (R201, R213). -/
def tickCore (k : Core) : Core :=
  let sampling := k.sampctl.getLsbD 0 && !k.sampctl.getLsbD 7
  { k with
    bandMax := max k.bandMax (heavyNow k),
    cycle := k.cycle + 1,
    heavy := k.heavy.filter fun t => t > k.cycle + 1,
    renewIn := k.renewIn - 1,
    sampIn := if sampling then k.sampIn - 1 else k.sampIn,
    issued := none }

/-- The redirect delay of a path, cycle by cycle; the last of its cycles ends in a step of its own (R130). -/
def tickDelay (p : Path) : Path := if p.delay > 1 then { p with delay := p.delay - 1 } else p

/-- The delays of a train's paths. -/
def tickTrain (t : Train) : Train :=
  { t with
    paths := t.paths.map (Option.map tickDelay),
    handler := t.handler.map fun h => { h with paths := h.paths.map (Option.map tickDelay) } }

/-- The paths of a core, those of handlers among them. -/
def coreRefs (s : State) (core : Nat) : List (PathRef × Path) :=
  ((coreAt s core).slots.zipIdx).flatMap fun (o, i) => match o with
    | none => []
    | some t =>
      ((livePaths t.paths).map fun (e, p) => ((⟨core, i, e, false⟩ : PathRef), p)) ++
      (match t.handler with
       | some h => (livePaths h.paths).map fun (e, p) => ((⟨core, i, e, true⟩ : PathRef), p)
       | none => [])

/-- A reservation whose holder has left Active ends (R209). -/
def keepResv (s : State) (core : Nat) (v : Reservation) : Bool :=
  match pathAt s ⟨core, v.slot, v.entry, v.handler⟩ with
  | some p => issuable p
  | none => false

/-- Whether any of some operations of a cluster is still in a queue. -/
def opsLeft (s : State) (core : Nat) (ops : List Nat) : Bool :=
  let k := clusterAt s (clusterOf core)
  (k.copies.any fun o => ops.contains o.id) || k.pairs.any fun p => p.queue.any fun o => ops.contains o.id

/-- A path that is Parked at a JWAIT beside another path parked at the same id, as after a halt that its sibling's arrival
found, merges with it (R136, R192), once the Tender has made the transfers of the merge (R167). -/
def meetAgain (s : State) (r : PathRef) (j : Nat) : State :=
  match trainAt s r.core r.slot, pathAt s r with
  | some t, some p =>
    match jwaitPeer t r.handler r.entry j with
    | none => s
    | some (i, q) =>
      let m := (mergeJobs p q).filter fun k => !p.xfers.contains k
      if i < r.entry then s else if m.isEmpty then arriveJwait s r j else enqueueJobs s r m
  | _, _ => s

/-- A waiting path looks again at what it waits for (R41): a condition met while it is Frozen counts once it is not. -/
def recheck (s : State) (r : PathRef) : State :=
  match pathAt s r with
  | none => s
  | some p =>
    match p.wake with
    | some (.cwait _ _ _) | some (.yield _ _ _) => recheckObj s r
    | some (.wlpop _ _ _) | some (.quiesce _) => recheckList s r
    | some (.shsync _ _) => recheckShsync s r
    | some (.cwaitAll ops act) => if opsLeft s r.core ops then s else endWait s r act
    | some (.mwait ops act) => if opsLeft s r.core ops then s else endWait s r act
    | some (.jwait j) => if p.pstate == .parked && p.frozen == .none then meetAgain s r j else s
    | _ => s

/-- What goes on beside issue: parked paths look again, pre-emptions stop paths, multicasts and collectives that wait for
earlier accesses go on, and a JOIN is proposed once nothing is in progress (R41, R189, R274, R438). -/
def background (s : State) (core : Nat) : State :=
  let s := (coreRefs s core).foldl (fun s x => recheck s x.1) s
  let s := (List.range 12).foldl (fun s i => progressStop s core i) s
  let s := (s.mcsts.filter fun o => o.who.core == core).foldl moveMcst s
  let s := ((s.groups.filter fun g => g.colls.any fun o => o.who.core == core).map (·.id)).foldl moveColls s
  ((s.groups.filter fun g => g.joiner.isSome).map (·.id)).foldl tryJoin s

/-- The start of a core's cycle. -/
def startCycle (s : State) (core : Nat) : State :=
  let ends := ((coreRefs s core).filter fun x => x.2.delay == 1).map fun x => Instr.redirectDelayEnd x.1
  let s := modCore s core fun k => let k := tickCore k; { k with slots := k.slots.map (Option.map tickTrain) }
  let s := background s core
  let s := modCore s core fun k => { k with
    resv := k.resv.filter (keepResv s core), txResv := k.txResv.filter (keepResv s core) }
  let k := coreAt s core
  let due := (if k.renewIn == 0 then [Instr.bandRenewal core] else []) ++
    (if k.sampctl.getLsbD 0 && !k.sampctl.getLsbD 7 && k.sampIn == 0 then [Instr.sample core] else [])
  { s with agenda := s.agenda ++ due ++ ends }

/-! ## The choice -/

/-- A reservation for a path. -/
def reserveFor (r : PathRef) (amount : Nat) : Reservation := ⟨r.slot, r.entry, r.handler, amount⟩

/-- The reservation of tokens (R209): the first by rank of the paths that nothing but tokens could hold lacks its price. -/
def setResv (s : State) (core : Nat) (cands : List Cand) : State :=
  if (coreAt s core).resv.isSome then s
  else
    let l := cands.filter fun x => match x.v with | .ready _ => true | .tokens _ only => only | _ => false
    match firstCand l with
    | some x => (match x.v with
      | .tokens price _ => modCore s core fun k => { k with resv := some (reserveFor x.r price) }
      | _ => s)
    | none => s

/-- The reservation of transaction entries (R245), as that of tokens. -/
def setTxResv (s : State) (core : Nat) (cands : List Cand) : State :=
  if (coreAt s core).txResv.isSome then s
  else
    let l := cands.filter fun x => match x.v with | .ready _ => true | .entries _ only => only | _ => false
    match firstCand l with
    | some x => (match x.v with
      | .entries need _ => modCore s core fun k => { k with txResv := some (reserveFor x.r need) }
      | _ => s)
    | none => s

/-- A raise of the band is asked for, once (R201, R316). -/
def askBand (s : State) (core : Nat) : State :=
  let k := coreAt s core
  if k.raising || k.band ≥ 3 then s
  else
    modCluster (modCore s core fun k => { k with raising := true }) (clusterOf core) fun k =>
      { k with sbq := k.sbq ++ [⟨s.time, core, .band core⟩] }

/-- What a candidate that is not chosen reports and asks for (R198, R211). -/
def standing (s : State) (x : Cand) : State :=
  match x.v with
  | .stall code drain jobs =>
    let s := if drain.isEmpty then s else wcDrain s x.r.core fun e => drain.contains e.id
    let s := enqueueJobs s x.r jobs
    setStall s x.r (if jobs.isEmpty then code else demandCode s x.r)
  | .band => askBand (setStall s x.r 0x04) x.r.core
  | .ask peer gran => askPath s x.r peer gran
  | .entries _ _ => setStall s x.r 0x06
  | .tokens _ _ => setStall s x.r 0x03
  | .ready _ => modPath s x.r fun p => { p with stall := 0x0E, waitc := p.waitc + 1 }

/-- The stall code of a verdict, for the counts of R319. -/
def Verdict.code (v : Verdict) : Nat :=
  match v with | .stall c _ _ => c | .entries _ _ => 0x06 | .band => 0x04 | .ask _ _ => 0x05 | .tokens _ _ => 0x03 | .ready _ => 0x0E

/-- The counts of a cycle (R319): whether the core issues, and how its Active paths stand. -/
def countCycle (s : State) (core : Nat) (issues : Bool) (codes : List Nat) : State :=
  if core % 6 == 5 || !(clusterAt s (clusterOf core)).policy.getLsbD 24 then s
  else
    let mem := codes.any fun c => c == 5 || c == 6 || c == 7
    modCore s core fun k =>
      if issues then { k with iss := k.iss + 1 }
      else if codes.isEmpty then k
      else if mem then { k with mem := k.mem + 1 }
      else { k with isl := k.isl + 1 }

/-- Whether the service train, or the conductor, of a core has work (R294, R387). -/
def serviceBusy (s : State) (core : Nat) : Bool :=
  core % 6 == 5 && (!(clusterAt s (clusterOf core)).svc.isEmpty || (core == 5 && s.control.awake))

/-- Whether the service train or the conductor is ready in a core's cycle, which the specification does not give. DESIGN CHOICE:
log entry 94. -/
def serviceIssues (s : State) (core : Nat) : Bool × State :=
  if serviceBusy s core then
    let (w, s) := drawFree s
    (w.getLsbD 0, s)
  else (false, s)

/-- The service train or the conductor among the candidates of a cycle: it ranks 8 (R197). -/
def serviceCand (s : State) (core : Nat) : Cand := ⟨⟨core, 11, 0, false⟩, (coreAt s core).svcWait, 8, 0, 0, 0, .ready true⟩

/-- Whether the service train or the conductor, which is ready where `ready` says so, takes a core's cycle before the first of the
user paths, and the state with its waiting count (R197, R198). -/
def serviceTakes (s : State) (core : Nat) (ready : Bool) (first : Option Cand) : Bool × State :=
  let wins := ready && (match first with | some b => (serviceCand s core).before b | none => true)
  (wins, modCore s core fun k => { k with
    svcWait := if wins || !serviceBusy s core then 0 else if ready then k.svcWait + 1 else k.svcWait })

/-- The choice of a cycle: the reservations, then the first by rank of the ready paths (R195-R198, R209). -/
def choose (s : State) (core : Nat) : State :=
  let seen := candsOf s core
  let s := setTxResv (setResv s core seen) core seen
  let cands := candsOf s core
  let ready := cands.filter fun x => match x.v with | .ready _ => true | _ => false
  let (due, s) := serviceIssues s core
  let (taken, s) := serviceTakes s core due (firstCand ready)
  match if taken then none else firstCand ready with
  | none => countCycle (cands.foldl standing s) core false (cands.map (·.v.code))
  | some b =>
    let s := (cands.filter fun x => x.r != b.r).foldl standing s
    countCycle { s with sel := some b.r } core (b.v == .ready true) (cands.map (·.v.code))

/-- Whether a core runs: it and its cluster have power, as core 5 always has, and start-up is complete (R365, R392). -/
def coreRuns (s : State) (core : Nat) : Bool :=
  core < 288 && s.boot == .running &&
    (core % 6 == 5 || (!(coreAt s core).gated && (clusterAt s (clusterOf core)).gate == .on))

/-- ISSUE_CYCLE (R195-R201, R320): one cycle of a core chooses the path that issues next; a core whose clock relocks chooses
none. -/
def execIssueCycle (core : Nat) (s : State) : Out :=
  if !coreRuns s core || s.sel.isSome then disabled
  else
    let s := startCycle s core
    if (coreAt s core).relock then
      .next (countCycle s core false ((candsOf s core).map fun _ => 0x13))
    else .next (choose s core)

end Sys2Proof.Machine
end

