-- ==== Sys2Proof/Machine/Traps.lean ====
section
/-! DEFINITION. TRAP, BRK, ERET and REGION (R182, R183, R186). -/
namespace Sys2Proof.Machine

/-- The code of a TRAP (R183). -/
def trapCode (f : Fields) : Nat := match f.ext with | .l1 imm _ => imm.toNat | _ => 0

/-- TRAP (R183): a software trap on the active set, which returns to the next instruction. -/
def execTrap (f : Fields) (s : State) : Out :=
  issue (.trap f) noEntry (fun c s =>
    if c.act == 0 then s else takeTrap s c.r ⟨0x0E, c.act, c.nextPc, BitVec.ofNat 64 (trapCode f)⟩) s

/-- BRK (R183): the agent is entered on the path's mask, at the BRK. -/
def execBrk (f : Fields) (s : State) : Out :=
  issue (.brk f) noEntry (fun c s => issuedTrap c s 0x0F c.p.mask (BitVec.ofNat 64 (c.f.x.toNat * 16))) s

/-- ERET (R182). -/
def execEret (f : Fields) (s : State) : Out :=
  issue (.eret f) (fun _ c => drainEntry c) (fun c s =>
    match c.t.handler with
    | none => s
    | some h =>
      if (livePaths h.paths).length != 1 || c.p.mask != h.hmask then
        killTrain s c.r.core c.r.slot 0x12 c.p.pc h.hmask
      else leaveHandler s c.r.core c.r.slot c.p.wbase c.p.uid c.p.pc) s

/-- The region that a REGION records (R186): its address, the live-in masks, KEEPS and the counts of the lanes. -/
def regionOf (c : Ctx) : Region where
  entry := c.p.pc
  livev := BitVec.ofNat 16 (c.f.d.toNat + c.f.a.toNat * 64 + c.f.b.toNat % 16 * 4096)
  livew := match c.f.ext with | .w _ lit => lit | _ => 0
  keeps := c.f.b.getLsbD 4
  broken := false
  dics := c.t.lanes.map (·.dic)
  preds := []
  loaded := []
  hit := []
  written := []
  breach := false

/-- REGION (R186, R189): a path that awaits its region stops there. -/
def execRegion (f : Fields) (s : State) : Out :=
  issue (.region f) noEntry (fun c s =>
    if c.r.handler then s
    else modPath s c.r fun p => { p with
      region := regionOf c,
      stop := if p.stop == .awaitingRegion then .atRegion else p.stop,
      stall := if p.stop == .awaitingRegion then 0x17 else p.stall }) s

end Sys2Proof.Machine
end

