-- ==== Sys2Proof/Machine/Dispatch.lean ====
section
/-! DEFINITION. The meaning of each instruction and step, one arm per constructor. -/
namespace Sys2Proof.Machine

-- What an instruction, or a step of an agent, does to the state.
def exec (i : Instr) (s : State) : Host.Outcome State Fault Refusal :=
  match i with
  | .ill len hi w1 w2 => Sys2Proof.Machine.execIll len hi w1 w2 s
  | .nop f => Sys2Proof.Machine.execNop f s
  | .setmode f => Sys2Proof.Machine.execSetmode f s
  | .getsp f => Sys2Proof.Machine.execGetsp f s
  | .setsp f => Sys2Proof.Machine.execSetsp f s
  | .winstackWrite f => Sys2Proof.Machine.execWinstackWrite f s
  | .windepthWrite f => Sys2Proof.Machine.execWindepthWrite f s
  | .rampsetWrite f => Sys2Proof.Machine.execRampsetWrite f s
  | .sampctlWrite f => Sys2Proof.Machine.execSampctlWrite f s
  | .dbgctlWrite f => Sys2Proof.Machine.execDbgctlWrite f s
  | .region f => Sys2Proof.Machine.execRegion f s
  | .trap f => Sys2Proof.Machine.execTrap f s
  | .eret f => Sys2Proof.Machine.execEret f s
  | .brk f => Sys2Proof.Machine.execBrk f s
  | .yield f => Sys2Proof.Machine.execYield f s
  | .waitl f => Sys2Proof.Machine.execWaitl f s
  | .bra f => Sys2Proof.Machine.execBra f s
  | .brx f => Sys2Proof.Machine.execBrx f s
  | .jset f => Sys2Proof.Machine.execJset f s
  | .jwait f => Sys2Proof.Machine.execJwait f s
  | .call f => Sys2Proof.Machine.execCall f s
  | .callx f => Sys2Proof.Machine.execCallx f s
  | .ret f => Sys2Proof.Machine.execRet f s
  | .exit f => Sys2Proof.Machine.execExit f s
  | .tail f => Sys2Proof.Machine.execTail f s
  | .wflush f => Sys2Proof.Machine.execWflush f s
  | .iadd f => Sys2Proof.Machine.execIadd f s
  | .isub f => Sys2Proof.Machine.execIsub f s
  | .imul f => Sys2Proof.Machine.execImul f s
  | .imulhi f => Sys2Proof.Machine.execImulhi f s
  | .imad f => Sys2Proof.Machine.execImad f s
  | .imin f => Sys2Proof.Machine.execImin f s
  | .imax f => Sys2Proof.Machine.execImax f s
  | .iabs f => Sys2Proof.Machine.execIabs f s
  | .and f => Sys2Proof.Machine.execAnd f s
  | .or f => Sys2Proof.Machine.execOr f s
  | .xor f => Sys2Proof.Machine.execXor f s
  | .andn f => Sys2Proof.Machine.execAndn f s
  | .shl f => Sys2Proof.Machine.execShl f s
  | .shr f => Sys2Proof.Machine.execShr f s
  | .sha f => Sys2Proof.Machine.execSha f s
  | .rot f => Sys2Proof.Machine.execRot f s
  | .bfe f => Sys2Proof.Machine.execBfe f s
  | .bfi f => Sys2Proof.Machine.execBfi f s
  | .popc f => Sys2Proof.Machine.execPopc f s
  | .clz f => Sys2Proof.Machine.execClz f s
  | .brev f => Sys2Proof.Machine.execBrev f s
  | .icmp f => Sys2Proof.Machine.execIcmp f s
  | .sel f => Sys2Proof.Machine.execSel f s
  | .mov f => Sys2Proof.Machine.execMov f s
  | .movi f => Sys2Proof.Machine.execMovi f s
  | .lea f => Sys2Proof.Machine.execLea f s
  | .iadds f => Sys2Proof.Machine.execIadds f s
  | .bysel f => Sys2Proof.Machine.execBysel f s
  | .idot4 f => Sys2Proof.Machine.execIdot4 f s
  | .sadd f => Sys2Proof.Machine.execSadd f s
  | .ssub f => Sys2Proof.Machine.execSsub f s
  | .smul f => Sys2Proof.Machine.execSmul f s
  | .sand f => Sys2Proof.Machine.execSand f s
  | .sor f => Sys2Proof.Machine.execSor f s
  | .sxor f => Sys2Proof.Machine.execSxor f s
  | .sshl f => Sys2Proof.Machine.execSshl f s
  | .sshr f => Sys2Proof.Machine.execSshr f s
  | .scmp f => Sys2Proof.Machine.execScmp f s
  | .smov f => Sys2Proof.Machine.execSmov f s
  | .smovi f => Sys2Proof.Machine.execSmovi f s
  | .slea f => Sys2Proof.Machine.execSlea f s
  | .v2s f => Sys2Proof.Machine.execV2s f s
  | .s2v f => Sys2Proof.Machine.execS2v f s
  | .smin f => Sys2Proof.Machine.execSmin f s
  | .smax f => Sys2Proof.Machine.execSmax f s
  | .fadd f => Sys2Proof.Machine.execFadd f s
  | .fsub f => Sys2Proof.Machine.execFsub f s
  | .fmul f => Sys2Proof.Machine.execFmul f s
  | .ffma f => Sys2Proof.Machine.execFfma f s
  | .fmin f => Sys2Proof.Machine.execFmin f s
  | .fmax f => Sys2Proof.Machine.execFmax f s
  | .fcmp f => Sys2Proof.Machine.execFcmp f s
  | .fclass f => Sys2Proof.Machine.execFclass f s
  | .fcvt f => Sys2Proof.Machine.execFcvt f s
  | .icvtf f => Sys2Proof.Machine.execIcvtf f s
  | .fcvti f => Sys2Proof.Machine.execFcvti f s
  | .frnd f => Sys2Proof.Machine.execFrnd f s
  | .fscale f => Sys2Proof.Machine.execFscale f s
  | .fdot2 f => Sys2Proof.Machine.execFdot2 f s
  | .frcp f => Sys2Proof.Machine.execFrcp f s
  | .frsq f => Sys2Proof.Machine.execFrsq f s
  | .fsqrt f => Sys2Proof.Machine.execFsqrt f s
  | .fdiv f => Sys2Proof.Machine.execFdiv f s
  | .fexp2 f => Sys2Proof.Machine.execFexp2 f s
  | .flog2 f => Sys2Proof.Machine.execFlog2 f s
  | .fsin f => Sys2Proof.Machine.execFsin f s
  | .fcos f => Sys2Proof.Machine.execFcos f s
  | .ftanh f => Sys2Proof.Machine.execFtanh f s
  | .fsigm f => Sys2Proof.Machine.execFsigm f s
  | .ftab f => Sys2Proof.Machine.execFtab f s
  | .tabld f => Sys2Proof.Machine.execTabld f s
  | .lxch f => Sys2Proof.Machine.execLxch f s
  | .vote f => Sys2Proof.Machine.execVote f s
  | .match f => Sys2Proof.Machine.execMatch f s
  | .reduce f => Sys2Proof.Machine.execReduce f s
  | .scan f => Sys2Proof.Machine.execScan f s
  | .plut f => Sys2Proof.Machine.execPlut f s
  | .p2v f => Sys2Proof.Machine.execP2v f s
  | .v2p f => Sys2Proof.Machine.execV2p f s
  | .ld w f => Sys2Proof.Machine.execLd w f s
  | .st w f => Sys2Proof.Machine.execSt w f s
  | .lds w f => Sys2Proof.Machine.execLds w f s
  | .sts w f => Sys2Proof.Machine.execSts w f s
  | .ldc w f => Sys2Proof.Machine.execLdc w f s
  | .ldi w f => Sys2Proof.Machine.execLdi w f s
  | .ldl w f => Sys2Proof.Machine.execLdl w f s
  | .ldt w f => Sys2Proof.Machine.execLdt w f s
  | .stt w f => Sys2Proof.Machine.execStt w f s
  | .atom f => Sys2Proof.Machine.execAtom f s
  | .red f => Sys2Proof.Machine.execRed f s
  | .cas f => Sys2Proof.Machine.execCas f s
  | .fxadd f => Sys2Proof.Machine.execFxadd f s
  | .waitaddr f => Sys2Proof.Machine.execWaitaddr f s
  | .fence f => Sys2Proof.Machine.execFence f s
  | .rfence f => Sys2Proof.Machine.execRfence f s
  | .opfence f => Sys2Proof.Machine.execOpfence f s
  | .pref f => Sys2Proof.Machine.execPref f s
  | .cacheopWb f => Sys2Proof.Machine.execCacheopWb f s
  | .cacheopEvict f => Sys2Proof.Machine.execCacheopEvict f s
  | .cacheopZero f => Sys2Proof.Machine.execCacheopZero f s
  | .smap f => Sys2Proof.Machine.execSmap f s
  | .sunmap f => Sys2Proof.Machine.execSunmap f s
  | .tlbiPage f => Sys2Proof.Machine.execTlbiPage f s
  | .tlbiAsid f => Sys2Proof.Machine.execTlbiAsid f s
  | .tlbiAll f => Sys2Proof.Machine.execTlbiAll f s
  | .mma f => Sys2Proof.Machine.execMma f s
  | .mmag f => Sys2Proof.Machine.execMmag f s
  | .gather f => Sys2Proof.Machine.execGather f s
  | .mwait f => Sys2Proof.Machine.execMwait f s
  | .mwaitAll f => Sys2Proof.Machine.execMwaitAll f s
  | .cpy f => Sys2Proof.Machine.execCpy f s
  | .cpyx f => Sys2Proof.Machine.execCpyx f s
  | .cwait f => Sys2Proof.Machine.execCwait f s
  | .cwaitAll f => Sys2Proof.Machine.execCwaitAll f s
  | .ctest f => Sys2Proof.Machine.execCtest f s
  | .qbind f => Sys2Proof.Machine.execQbind f s
  | .qfree f => Sys2Proof.Machine.execQfree f s
  | .nmc f => Sys2Proof.Machine.execNmc f s
  | .nmfence f => Sys2Proof.Machine.execNmfence f s
  | .accrd f => Sys2Proof.Machine.execAccrd f s
  | .accwrLoad f => Sys2Proof.Machine.execAccwrLoad f s
  | .accwrLoad64 f => Sys2Proof.Machine.execAccwrLoad64 f s
  | .accwrZero f => Sys2Proof.Machine.execAccwrZero f s
  | .accwrFree f => Sys2Proof.Machine.execAccwrFree f s
  | .bararv f => Sys2Proof.Machine.execBararv f s
  | .barwt f => Sys2Proof.Machine.execBarwt f s
  | .barsync f => Sys2Proof.Machine.execBarsync f s
  | .rbarSync f => Sys2Proof.Machine.execRbarSync f s
  | .rbarArv f => Sys2Proof.Machine.execRbarArv f s
  | .rbarWt f => Sys2Proof.Machine.execRbarWt f s
  | .launch f => Sys2Proof.Machine.execLaunch f s
  | .wlpush f => Sys2Proof.Machine.execWlpush f s
  | .wlpop f => Sys2Proof.Machine.execWlpop f s
  | .wlpopDone f => Sys2Proof.Machine.execWlpopDone f s
  | .quiesce f => Sys2Proof.Machine.execQuiesce f s
  | .quiesceTest f => Sys2Proof.Machine.execQuiesceTest f s
  | .intent f => Sys2Proof.Machine.execIntent f s
  | .intentG f => Sys2Proof.Machine.execIntentG f s
  | .tokqBal f => Sys2Proof.Machine.execTokqBal f s
  | .tokqRate f => Sys2Proof.Machine.execTokqRate f s
  | .tokqChg f => Sys2Proof.Machine.execTokqChg f s
  | .tokqRsv f => Sys2Proof.Machine.execTokqRsv f s
  | .curq f => Sys2Proof.Machine.execCurq f s
  | .stn f => Sys2Proof.Machine.execStn f s
  | .mcst f => Sys2Proof.Machine.execMcst f s
  | .collAr f => Sys2Proof.Machine.execCollAr f s
  | .collRs f => Sys2Proof.Machine.execCollRs f s
  | .collAg f => Sys2Proof.Machine.execCollAg f s
  | .collBc f => Sys2Proof.Machine.execCollBc f s
  | .collBar f => Sys2Proof.Machine.execCollBar f s
  | .fbar f => Sys2Proof.Machine.execFbar f s
  | .viewqTag f => Sys2Proof.Machine.execViewqTag f s
  | .viewqState f => Sys2Proof.Machine.execViewqState f s
  | .viewqLive f => Sys2Proof.Machine.execViewqLive f s
  | .viewqSeq f => Sys2Proof.Machine.execViewqSeq f s
  | .vjoin f => Sys2Proof.Machine.execVjoin f s
  | .shsyncWait f => Sys2Proof.Machine.execShsyncWait f s
  | .shsyncPub f => Sys2Proof.Machine.execShsyncPub f s
  | .issueCycle core => Sys2Proof.Machine.execIssueCycle core s
  | .instructionFetch r => Sys2Proof.Machine.execInstructionFetch r s
  | .redirectDelayEnd r => Sys2Proof.Machine.execRedirectDelayEnd r s
  | .longLatencyResultWrite r id => Sys2Proof.Machine.execLongLatencyResultWrite r id s
  | .storeAck core id => Sys2Proof.Machine.execStoreAck core id s
  | .tlbWalkComplete core asid va => Sys2Proof.Machine.execTlbWalkComplete core asid va s
  | .faultRecordWrite asid => Sys2Proof.Machine.execFaultRecordWrite asid s
  | .faultReplay r => Sys2Proof.Machine.execFaultReplay r s
  | .watchdogExpiry core slot => Sys2Proof.Machine.execWatchdogExpiry core slot s
  | .haltEntry core slot => Sys2Proof.Machine.execHaltEntry core slot s
  | .tenderTransferStart core => Sys2Proof.Machine.execTenderTransferStart core s
  | .spillComplete core => Sys2Proof.Machine.execSpillComplete core s
  | .fillComplete core => Sys2Proof.Machine.execFillComplete core s
  | .deferredRecordWritten core => Sys2Proof.Machine.execDeferredRecordWritten core s
  | .deferredRefillDone core => Sys2Proof.Machine.execDeferredRefillDone core s
  | .trainDrainComplete core slot => Sys2Proof.Machine.execTrainDrainComplete core slot s
  | .trackerDrainComplete core idx => Sys2Proof.Machine.execTrackerDrainComplete core idx s
  | .atomicRequest cluster idx inbound => Sys2Proof.Machine.execAtomicRequest cluster idx inbound s
  | .barrierArrive cluster idx => Sys2Proof.Machine.execBarrierArrive cluster idx s
  | .completionObjectUpdate cluster idx => Sys2Proof.Machine.execCompletionObjectUpdate cluster idx s
  | .waitaddrWake r => Sys2Proof.Machine.execWaitaddrWake r s
  | .waitaddrTimeout r => Sys2Proof.Machine.execWaitaddrTimeout r s
  | .matrixOpStart pair id => Sys2Proof.Machine.execMatrixOpStart pair id s
  | .matrixOpComplete pair id => Sys2Proof.Machine.execMatrixOpComplete pair id s
  | .copyQueueArrival cluster id => Sys2Proof.Machine.execCopyQueueArrival cluster id s
  | .copyStart cluster id => Sys2Proof.Machine.execCopyStart cluster id s
  | .copyComplete cluster id => Sys2Proof.Machine.execCopyComplete cluster id s
  | .bufferFreed cluster q => Sys2Proof.Machine.execBufferFreed cluster q s
  | .signalBoxGrant cluster => Sys2Proof.Machine.execSignalBoxGrant cluster s
  | .bandRenewal core => Sys2Proof.Machine.execBandRenewal core s
  | .clusterCycle die dt => Sys2Proof.Machine.execClusterCycle die dt s
  | .sample core => Sys2Proof.Machine.execSample core s
  | .sensitivityWindowEnd core => Sys2Proof.Machine.execSensitivityWindowEnd core s
  | .ratioRelockDone core => Sys2Proof.Machine.execRatioRelockDone core s
  | .preemptRequest launch => Sys2Proof.Machine.execPreemptRequest launch s
  | .regionStopTimeout r => Sys2Proof.Machine.execRegionStopTimeout r s
  | .preemptSave crew => Sys2Proof.Machine.execPreemptSave crew s
  | .preemptAbandon crew => Sys2Proof.Machine.execPreemptAbandon crew s
  | .victimHoldoffEnd crew => Sys2Proof.Machine.execVictimHoldoffEnd crew s
  | .launchReady launch => Sys2Proof.Machine.execLaunchReady launch s
  | .placeCrew launch => Sys2Proof.Machine.execPlaceCrew launch s
  | .doneobjUpdate launch => Sys2Proof.Machine.execDoneobjUpdate launch s
  | .quiescenceDetect asid => Sys2Proof.Machine.execQuiescenceDetect asid s
  | .gateStart cluster => Sys2Proof.Machine.execGateStart cluster s
  | .gateComplete cluster => Sys2Proof.Machine.execGateComplete cluster s
  | .ungateComplete cluster => Sys2Proof.Machine.execUngateComplete cluster s
  | .scrubPass die granule => Sys2Proof.Machine.execScrubPass die granule s
  | .prefetchHintExpiry die => Sys2Proof.Machine.execPrefetchHintExpiry die s
  | .nmcShareStart id stack => Sys2Proof.Machine.execNmcShareStart id stack s
  | .nmcComplete id => Sys2Proof.Machine.execNmcComplete id s
  | .thrashUnpin asid va => Sys2Proof.Machine.execThrashUnpin asid va s
  | .remoteResponse id outcome data => Sys2Proof.Machine.execRemoteResponse id outcome data s
  | .wcAgeDrain core id => Sys2Proof.Machine.execWcAgeDrain core id s
  | .wcAck core id outcome => Sys2Proof.Machine.execWcAck core id outcome s
  | .notifyItemAppend src stn => Sys2Proof.Machine.execNotifyItemAppend src stn s
  | .commitTimeout group => Sys2Proof.Machine.execCommitTimeout group s
  | .vjoinTimeout group => Sys2Proof.Machine.execVjoinTimeout group s
  | .writeAcknowledgement id outcome => Sys2Proof.Machine.execWriteAcknowledgement id outcome s
  | .groupEntryApply group => Sys2Proof.Machine.execGroupEntryApply group s
  | .governorStep trip => Sys2Proof.Machine.execGovernorStep trip s
  | .clockStretch die => Sys2Proof.Machine.execClockStretch die s
  | .powerOn => Sys2Proof.Machine.execPowerOn s
  | .packageReset info => Sys2Proof.Machine.execPackageReset info s
  | .controlWriteFrame lane seq off data crcOk => Sys2Proof.Machine.execControlWriteFrame lane seq off data crcOk s
  | .controlAckReceive lane seq => Sys2Proof.Machine.execControlAckReceive lane seq s
  | .controlNakReceive lane seq => Sys2Proof.Machine.execControlNakReceive lane seq s
  | .ageindUpdate die value => Sys2Proof.Machine.execAgeindUpdate die value s
  | .hostLaunch => Sys2Proof.Machine.execHostLaunch s
  | .hostContext => Sys2Proof.Machine.execHostContext s
  | .hostTlbi => Sys2Proof.Machine.execHostTlbi s
  | .configRampset => Sys2Proof.Machine.execConfigRampset s
  | .configPowerControl => Sys2Proof.Machine.execConfigPowerControl s
  | .configDieClock => Sys2Proof.Machine.execConfigDieClock s
  | .configClockPolicy => Sys2Proof.Machine.execConfigClockPolicy s
  | .configMigrationControl => Sys2Proof.Machine.execConfigMigrationControl s
  | .configFeatureOffer => Sys2Proof.Machine.execConfigFeatureOffer s
  | .hostHalt => Sys2Proof.Machine.execHostHalt s
  | .hostMigrate => Sys2Proof.Machine.execHostMigrate s
  | .hostListbind => Sys2Proof.Machine.execHostListbind s
  | .hostRings => Sys2Proof.Machine.execHostRings s
  | .hostAttest quote spent => Sys2Proof.Machine.execHostAttest quote spent s
  | .remoteReadRequest src tag line sectors => Sys2Proof.Machine.execRemoteReadRequest src tag line sectors s
  | .remoteWritePacket src tag line mask data => Sys2Proof.Machine.execRemoteWritePacket src tag line mask data s
  | .portLinkDown port => Sys2Proof.Machine.execPortLinkDown port s
  | .lossNotice peer => Sys2Proof.Machine.execLossNotice peer s
  | .admissionNotice peer => Sys2Proof.Machine.execAdmissionNotice peer s
  | .notifyWriteReceive src tag stn line mask data list itemTag last => Sys2Proof.Machine.execNotifyWriteReceive src tag stn line mask data list itemTag last s
  | .multicastReceive port tag exportIx off data => Sys2Proof.Machine.execMulticastReceive port tag exportIx off data s
  | .multicastAckReceive id codes => Sys2Proof.Machine.execMulticastAckReceive id codes s
  | .collResultReceive group seq tag size sends => Sys2Proof.Machine.execCollResultReceive group seq tag size sends s
  | .membershipNotice group rank => Sys2Proof.Machine.execMembershipNotice group rank s
  | .viewProposeReceive group tag mask leader => Sys2Proof.Machine.execViewProposeReceive group tag mask leader s
  | .viewAckReceive group tag rank => Sys2Proof.Machine.execViewAckReceive group tag rank s
  | .viewNackReceive group tag lost => Sys2Proof.Machine.execViewNackReceive group tag lost s
  | .viewCommit group tag mask restamped nextSeq => Sys2Proof.Machine.execViewCommit group tag mask restamped nextSeq s
  | .joinReceive group rank => Sys2Proof.Machine.execJoinReceive group rank s
  | .fbarRelease group tag => Sys2Proof.Machine.execFbarRelease group tag s
  | .intentGDelivery group src ts watts => Sys2Proof.Machine.execIntentGDelivery group src ts watts s
  | .fabricLinkLoss port => Sys2Proof.Machine.execFabricLinkLoss port s
  | .fabricLinkReturn port => Sys2Proof.Machine.execFabricLinkReturn port s
  | .damagedFlit port => Sys2Proof.Machine.execDamagedFlit port s
  | .selfTestPattern core lane failed => Sys2Proof.Machine.execSelfTestPattern core lane failed s

end Sys2Proof.Machine
end

