-- ==== Sys2Proof/Machine/Schedule.lean ====
section
/-! DEFINITION. The order in which this model takes the steps of the package's agents: a round offers every step once, in an
order of the model's own, and a step that cannot occur is passed over. Also the train that `withFetchWord` seats. -/
namespace Sys2Proof.Machine

/-- The nanoseconds by which a cluster cycle of die 0 advances TIME: 10 / F each, rounded so that no fraction is lost (R366,
R394). -/
def cycleNs (s : State) : Nat :=
  let n := (clusterAt s 0).cycle.toNat
  let f := max 1 (dieAt s 0).clock.toNat
  10 * (n + 1) / f - 10 * n / f

/-- The cluster cycles of the four dies. -/
def clockSteps (s : State) : List Instr :=
  [.clusterCycle 0 (cycleNs s), .clusterCycle 1 0, .clusterCycle 2 0, .clusterCycle 3 0]

/-- Whether a pre-emption has been asked of a crew. -/
def crewAsked (s : State) (c : Crew) : Bool :=
  (trainsOf s c.ref).any fun (i, j) => match trainAt s i j with | some t => t.preempt.isSome | none => false

/-- The steps of the package as a whole: the governor, launches, lists, groups, ballast. -/
def packageSteps (s : State) : List Instr :=
  [.governorStep false] ++
  (s.faults.map fun f => .faultRecordWrite f.asid) ++
  (s.nmcs.flatMap fun q => ((List.range 12).map fun k => .nmcShareStart q.id k) ++ [.nmcComplete q.id]) ++
  (s.notifies.map fun n => .notifyItemAppend n.src n.stn) ++
  (s.ctxs.map fun c => .quiescenceDetect c.asid) ++
  (s.applying.map fun x => .groupEntryApply x.1) ++
  (s.groups.flatMap fun g => [.commitTimeout g.id, .vjoinTimeout g.id]) ++
  (s.crews.flatMap fun c => (if crewAsked s c then [.preemptSave c.ref, .preemptAbandon c.ref] else []) ++
    (if c.holdoff.isSome then [.victimHoldoffEnd c.ref] else [])) ++
  (s.launches.flatMap fun l => [.launchReady l.id, .placeCrew l.id, .preemptRequest l.id, .doneobjUpdate l.id]) ++
  (s.thrash.map fun x => .thrashUnpin x.asid (BitVec.ofNat 64 x.page)) ++
  ((List.range 4).flatMap fun d => [.prefetchHintExpiry d, .scrubPass d (nextScrub (dieAt s d) d)])

/-- The steps of a cluster: its service train, its engines, its signal box, its gate. -/
def clusterSteps (cl : Nat) (k : Cluster) : List Instr :=
  (k.svc.map fun q => match q with
    | .atomic .. => .atomicRequest cl 0 none
    | .arrive .. => .barrierArrive cl 0
    | .complete .. => .completionObjectUpdate cl 0) ++
  (k.sbq.map fun _ => .signalBoxGrant cl) ++
  ((k.pairs.zipIdx).flatMap fun (p, i) => p.queue.flatMap fun o =>
    [.matrixOpStart (3 * cl + i) o.id, .matrixOpComplete (3 * cl + i) o.id]) ++
  (k.copies.flatMap fun o => [.copyQueueArrival cl o.id, .copyStart cl o.id, .copyComplete cl o.id]) ++
  ((k.bufs.zipIdx).filterMap fun (b, q) => match b with
    | some b => if b.freed then some (.bufferFreed cl q) else none
    | none => none) ++
  (match k.gate with
   | .on => if k.idleFrom.isSome then [.gateStart cl] else []
   | .gating => [.gateComplete cl]
   | .ungating => [.ungateComplete cl]
   | .gated => [])

/-- The steps of a path. -/
def pathSteps (r : PathRef) (p : Path) : List Instr :=
  (p.pending.map fun q => .longLatencyResultWrite r q.id) ++
  (match p.wake with
   | some (.waitAddr ..) => [.waitaddrWake r, .waitaddrTimeout r]
   | some (.pageFault _ true) => [.faultReplay r]
   | _ => []) ++
  (if p.stop == .awaitingRegion then [.regionStopTimeout r] else []) ++
  (if p.fetched.isNone && issuable p then [.instructionFetch r] else [])

/-- The steps of a train. -/
def trainSteps (core slot : Nat) (t : Train) : List Instr :=
  (if t.handler.isSome then [.watchdogExpiry core slot] else []) ++
  (if t.pendHalt then [.haltEntry core slot] else []) ++
  (if t.ended.isSome then [.trainDrainComplete core slot] else []) ++
  (t.refills.map fun x => .faultReplay ⟨core, slot, x.entry, false⟩)

/-- Whether a core's clock runs in this cluster cycle: n of every 8 (R317). -/
def coreTicks (s : State) (core : Nat) : Bool :=
  let c := (clusterAt s (clusterOf core)).cycle.toNat
  let n := ratioOf s core
  (c + 1) * n / 8 != c * n / 8

/-- The steps of a core, and its cycle. -/
def coreSteps (s : State) (core : Nat) (k : Core) : List Instr :=
  (k.txns.filterMap fun x => match x.kind with
    | .store => some (.storeAck core x.id)
    | _ => none) ++
  (k.wc.map fun e => .wcAgeDrain core e.id) ++
  ((k.slots.zipIdx).flatMap fun (o, i) => match o with | some t => trainSteps core i t | none => []) ++
  ((k.trackers.zipIdx).filterMap fun (o, i) => match o with
    | some _ => some (.trackerDrainComplete core i)
    | none => none) ++
  (if k.tender.isEmpty then []
   else [.spillComplete core, .fillComplete core, .deferredRecordWritten core, .deferredRefillDone core]) ++
  (if s.time ≥ k.winEnd then [.sensitivityWindowEnd core] else []) ++
  (if k.relock then [.ratioRelockDone core] else []) ++
  ((coreRefs s core).flatMap fun x => pathSteps x.1 x.2) ++
  (if coreRuns s core && coreTicks s core then [.issueCycle core] else []) ++
  (if k.tender.isEmpty then [] else [.tenderTransferStart core])

/-- The steps that a round offers, in the model's own order (DESIGN CHOICE, unsafe: log entry 6). -/
def roundOf (s : State) : List Instr :=
  clockSteps s ++ packageSteps s ++ ((s.clusters.zipIdx).flatMap fun (k, i) => clusterSteps i k) ++
    ((s.cores.zipIdx).flatMap fun (k, i) => coreSteps s i k)

/-- The first of some steps that occurs. -/
def firstStep (l : List (State → Out)) (s : State) : Option State :=
  match l with
  | [] => none
  | f :: rest => match f s with | .next s' => some s' | _ => firstStep rest s

/-- The conductor's turn, before a round begins: it handles the message that it is at (R387). -/
def conductorTurn (s : State) : State :=
  (firstStep [execHostLaunch, execHostContext, execHostTlbi, execConfigRampset, execConfigPowerControl, execConfigDieClock,
    execConfigClockPolicy, execConfigMigrationControl, execConfigFeatureOffer, execHostHalt, execHostMigrate,
    execHostListbind, execHostRings, fun s => execHostAttest (quoteNow s) (keySpent s) s] s).getD s

/-- The outcome of a queued step, which is passed over where it cannot occur. -/
def queuedOut (s : State) (o : Out) : Out :=
  match o with
  | .fault .notEnabled => .next s
  | o => o

/-- A launch packet of no grid, for a train that is seated without one. -/
def noPacket : Packet :=
  ⟨0, false, 1, 0, 1, 0, 0, (1, 1, 1), 0, 0, 0, 0, [], 0, 0, 0, List.replicate 16 0, []⟩

/-- A train seated in slot 0 of core 0, whose first path has an instruction's words fetched, tokens to pay for it, and is the
path that issues next (DEDUCED, safe: log entry 7). -/
def seatWords (s : State) (w0 w1 w2 : Word) : State :=
  let t := newTrain s.nextId noPacket ⟨0, 0⟩ 0 0 0 s.time
  let t := { t with paths := t.paths.map (Option.map fun p => { p with fetched := some (w0, w1, w2) }) }
  let s := modCore (putTrain s 0 0 t) 0 fun k => { k with balance := 2 ^ 20, gated := false, relock := false }
  let s := modCluster s 0 fun k => { k with gate := .on }
  { s with nextId := s.nextId + 2, boot := .running, sel := some ⟨0, 0, 0, false⟩ }

end Sys2Proof.Machine
end

