-- ==== Sys2Proof/Machine/Step.lean ====
section
/-! DEFINITION. One step of the package. -/
namespace Sys2Proof.Machine

/-- The step of the selected path: its fetched words are decoded, and the instruction is executed or its decode trap
taken (R79, R80). -/
def stepSelected (s : State) (r : PathRef) : Host.Outcome State Fault Refusal :=
  match pathAt s r with
  | none => .fault .noIssuer
  | some p =>
    match p.fetched with
    | none => .fault .noIssuer
    | some (w0, w1, w2) =>
      match decodeWords w0 w1 w2 with
      | .ok i _ => exec i s
      | .bad e =>
        let w := match e.idx with | 0 => w0 | 1 => w1 | _ => w2
        .next (decodeTrap { s with sel := none } r e.cause w e.idx)

/-- One step: the selected path issues; else the next step of the round is taken; else a new round begins, where the package
runs (R392). -/
def step (s : State) : Host.Outcome State Fault Refusal :=
  match s.sel with
  | some r => stepSelected s r
  | none =>
    match s.agenda with
    | e :: rest => queuedOut { s with agenda := rest } (exec e { s with agenda := rest })
    | [] =>
      if s.boot == .running then .next { conductorTurn s with agenda := roundOf (conductorTurn s) } else .fault .notRunning

/-- The state with an instruction's words fetched for the first path of a train in slot 0 of core 0, which the next step
issues. -/
def State.withFetchWord (s : State) (nbits w : Nat) : State :=
  let v := w % 2 ^ nbits
  seatWords s (BitVec.ofNat 32 v) (BitVec.ofNat 32 (v / 2 ^ 32)) (BitVec.ofNat 32 (v / 2 ^ 64))

end Sys2Proof.Machine
end

