-- ==== Sys2Proof/Safety.lean ====
section
/-! DEFINITION. The terms of the statements: when a path's instruction issues with its effect (R80, R94, R141-R143, R196,
R203, R407), the state after its charge, and the conditions that steps keep. -/
namespace Sys2Proof.Machine

/-- The memory's keys rise strictly and no listed byte equals what an unlisted byte reads as. -/
abbrev Memory.wf (m : List Host.Cell) : Prop := cellsWf m = true

/-- The path of `c` is the one that issues `i` next: it is chosen, and nothing holds it (R40). -/
structure Chosen (i : Instr) (s : State) (c : Ctx) : Prop where
  sel : s.sel = some c.r
  ctx : mkCtx s c.r i = some c
  active : c.p.pstate = .active
  thawed : c.p.frozen = .none
  noTrap : c.p.trapDue = none
  runs : c.p.stop = .running ∨ c.p.stop = .awaitingRegion

/-- What every instruction needs before its own checks, and the tokens of its charge: the type in force and the fields
are legal (R80, R94), the mode may run it (R37) and no handler may not (R179), the windows are open and an outstanding
result has room (R141, R143), a mask write has no result to wait for (R26), no lookahead check fails (R142), no TLBI of
the path is under way (R239), no store lane waits for a write-combining entry (R407), the path may spend the price (R196, R203), and no single step is armed
(R191). -/
structure Ready (i : Instr) (s : State) (c : Ctx) : Prop extends Chosen i s c where
  type : tyAccepted c.sp c.ty = true
  fields : fieldCheck c.sp (some c.ty) c.f = none
  mode : isPrivileged i = true → c.r.handler = true
  handler : c.r.handler = true → doubleFaults i = false
  windows : ∀ q ∈ c.p.pending, q.win ≠ .count 0
  room : opensResult c = true → c.p.pending.length < 16 ∧ ∀ q ∈ c.p.pending, c.p.full ≠ some q.id
  masks : (∃ n ≥ 61, Reg.scalar n ∈ (regUses c).2) → c.r.handler = false → c.p.pending = []
  lookahead : dbgLachk c.t = true → ∀ q ∈ c.p.pending, ∀ d ∈ q.dests, d ∉ (regUses c).1 ∧ d ∉ (regUses c).2
  shoots : ∀ x ∈ s.shoots, x.who ≠ some c.r
  combining : ∀ e ∈ (coreAt s c.r.core).wc.drop 64, c.p.uid ∉ e.paths
  tokens : priceOf i c.ty ≤ tokensFor s c.r
  noStep : c.t.stepArmed ≠ some c.p.uid ∨ c.r.handler = true

/-- The state in which an instruction has its effect: nothing is selected any more, and its charge is made (R195, R203). -/
def charged (i : Instr) (s : State) (c : Ctx) : State := commit i c { s with sel := none }

end Sys2Proof.Machine
end

