-- ==== Sys2Proof/Certificates/Slice0/Obligations.lean ====
section
/-! DEFINITION. The statements for the provers: what instructions and steps do, what they leave unchanged, where they trap,
and what the machine keeps. -/
namespace Sys2Proof.Machine

/-! ## Lane, scalar and predicate results -/

/-- The number that an element of width `w` stands for under a signed or an unsigned view. -/
def viewNum (sg : Bool) (w a : Nat) : Int := if sg && decide (2 ^ (w - 1) ≤ a) then (a : Int) - 2 ^ w else a

/-- The least number of a view. -/
def viewMin (sg : Bool) (w : Nat) : Int := if sg then -(2 ^ (w - 1)) else 0
/-- The greatest number of a view. -/
def viewMax (sg : Bool) (w : Nat) : Int := if sg then 2 ^ (w - 1) - 1 else 2 ^ w - 1

/-- Clamping to a view's range. -/
def viewClamp (sg : Bool) (w : Nat) (x : Int) : Int :=
  if x < viewMin sg w then viewMin sg w else if x > viewMax sg w then viewMax sg w else x

/-- The number whose bit j, below `w`, is `p j`. -/
def bitSum (w : Nat) (p : Nat → Bool) : Nat := ((List.range w).map fun j => if p j then 2 ^ j else 0).sum

/-- The element-wise results of R98, R99 and R102, each to be taken mod 2^w: from the view's signedness, its width, the
elements a and b, and the third source. -/
def elementRule (i : Instr) (c : Ctx) : Option (Bool → Nat → Nat → Nat → Nat → Int) :=
  match i with
  | .iadd _ => some fun _ _ a b _ => a + b
  | .isub _ => some fun _ _ a b _ => a - b
  | .imul _ => some fun _ _ a b _ => a * b
  | .imulhi _ => some fun sg w a b _ => viewNum sg w a * viewNum sg w b / 2 ^ w
  | .imad _ => some fun _ _ a b x => a * b + x
  | .imin _ => some fun sg w a b _ => if viewNum sg w b < viewNum sg w a then b else a
  | .imax _ => some fun sg w a b _ => if viewNum sg w a < viewNum sg w b then b else a
  | .iabs _ => some fun sg w a _ _ =>
      let x := if c.f.x = 1 then -viewNum sg w a else max (viewNum sg w a) (-viewNum sg w a)
      if c.satOn then viewClamp sg w x else x
  | .and _ => some fun _ _ a b _ => (a &&& b : Nat)
  | .or _ => some fun _ _ a b _ => (a ||| b : Nat)
  | .xor _ => some fun _ _ a b _ => (a ^^^ b : Nat)
  | .andn _ => some fun _ w a b _ => (a &&& (2 ^ w - 1 - b) : Nat)
  | .shl _ => some fun _ w a b _ => if b < w then a * 2 ^ b else 0
  | .shr _ => some fun _ w a b _ => if b < w then (a / 2 ^ b : Nat) else 0
  | .sha _ => some fun _ w a b _ => viewNum true w a / 2 ^ min b w
  | .rot _ => some fun _ w a b _ => (a * 2 ^ (b % w) % 2 ^ w + a / 2 ^ (w - b % w) : Nat)
  | .popc _ => some fun _ w a _ _ => ((List.range w).countP fun j => a.testBit j)
  | .clz _ => some fun _ w a _ _ => if a = 0 then w else w - 1 - Nat.log2 a
  | .brev _ => some fun _ w a _ _ => bitSum w fun j => a.testBit (w - 1 - j)
  | .iadds _ => some fun sg w a b _ =>
      viewClamp sg w (if c.f.x = 1 then viewNum sg w a - viewNum sg w b else viewNum sg w a + viewNum sg w b)
  | _ => none

/-- The whole-register lane results of R98, R100, R101, R103, R105 and R124: whether the destination is a pair, and the
value from the lane's number and registers. -/
def registerRule (i : Instr) (c : Ctx) : Option (Bool × (Nat → Lane → Nat)) :=
  let v := viewOf c.ty
  let wide := tyIs64 v
  let W := if wide then 64 else 32
  let sg := tySigned v
  let src (l : Nat) (ln : Lane) : Nat := c.v l ln c.f.a wide
  let srcB (l : Nat) (ln : Lane) : Nat := c.vb l ln v wide
  match i with
  | .mov _ => some (wide, src)
  | .movi _ => some (wide, srcB)
  | .bfe _ => some (wide, fun l ln =>
      let pos := srcB l ln % 256
      let len := min (srcB l ln / 256 % 256) W
      if len = 0 then 0
      else (viewNum sg len (viewNum sg W (src l ln) / 2 ^ pos % 2 ^ len).toNat % 2 ^ W).toNat)
  | .bfi _ => some (wide, fun l ln =>
      let pos := srcB l ln % 256
      let len := min (srcB l ln / 256 % 256) W
      bitSum W fun j => if pos ≤ j ∧ j < pos + len then (src l ln).testBit (j - pos) else (c.vc l ln wide).testBit j)
  | .sel _ => some (wide, fun l ln =>
      if predOf ln (if hasExt0 c.f then (ext0Of c.f).c.toNat else c.f.x.toNat) then src l ln else srcB l ln)
  | .lea _ => some (true, fun l ln =>
      let b := c.vb l ln .i32 false
      let ext := if c.f.x.getLsbD 3 then (b : Int) else viewNum true 32 b
      ((c.v l ln c.f.a true + ext * 2 ^ (c.f.x.toNat % 8)) % 2 ^ 64).toNat)
  | .bysel _ => some (false, fun l ln =>
      let selector := match c.f.ext with
        | .w _ lit => lit.toNat
        | .l0 e => c.v l ln e.c false
        | _ => c.v l ln c.f.d false
      let pool := c.v l ln c.f.a false % 2 ^ 32 + c.v l ln c.f.b false % 2 ^ 32 * 2 ^ 32
      packElems 8 fun j =>
        let field := selector / 16 ^ j % 16
        let named := pool / 256 ^ (field % 8) % 256
        if field < 8 then named else if c.f.x = 1 ∨ named < 128 then 0 else 255)
  | .idot4 _ => some (false, fun l ln =>
      let sa := c.f.x.getLsbD 0
      let sb := c.f.x.getLsbD 1
      let one (e : Nat) : Int :=
        viewNum sa 8 (elemOf 8 (c.v l ln c.f.a false) e) * viewNum sb 8 (elemOf 8 (c.vb l ln .i32 false) e)
      let x := viewNum (sa || sb) 32 (c.vc l ln false % 2 ^ 32) + one 0 + one 1 + one 2 + one 3
      ((if c.satOn then viewClamp (sa || sb) 32 x else x) % 2 ^ 32).toNat)
  | .s2v _ => some (c.wide, fun _ _ => c.s c.f.a c.wide)
  | .p2v _ => some (false, fun _ ln => bitSum 32 fun j => predOf ln (c.f.a.toNat + j))
  | _ => none

/-- The comparison that a condition code names (R100). -/
def condRule (k : Nat) (a b : Int) : Bool :=
  if k = 0 then decide (a = b) else if k = 1 then decide (a ≠ b) else if k = 2 then decide (a < b)
  else if k = 3 then decide (a ≤ b) else if k = 4 then decide (b < a) else decide (b ≤ a)

/-- The predicate results of R100, R121 and R124, from the lane's number and registers. -/
def predicateRule (i : Instr) (c : Ctx) : Option (Nat → Lane → Bool) :=
  let v := viewOf c.ty
  let w := tyBits v
  let sg := tySigned v
  match i with
  | .icmp _ => some fun l ln =>
      let holds (e : Nat) : Bool := condRule (c.f.x.toNat % 8) (viewNum sg w (elemOf w (c.v l ln c.f.a (w == 64)) e))
        (viewNum sg w (elemOf w (c.vb l ln v (w == 64)) e))
      if c.f.x.getLsbD 3 then (List.range (elemCount w)).any holds else (List.range (elemCount w)).all holds
  | .vote _ =>
    if c.f.x = 0 then some fun _ _ => laneIds.all fun k => !(c.act.has k) || predOf (c.lane k) c.f.a.toNat
    else if c.f.x = 1 then some fun _ _ => laneIds.any fun k => c.act.has k && predOf (c.lane k) c.f.a.toNat
    else none
  | .plut _ => some fun _ ln =>
      let bit (n : Nat) : Nat := if predOf ln n then 1 else 0
      (c.f.x.toNat + 16 * (subOf c.f % 16)).testBit
        (4 * bit c.f.a.toNat + 2 * bit c.f.b.toNat + bit (ext0Of c.f).c.toNat)
  | _ => none

/-- The scalar results of R104, R105 and R121: whether the destination is a pair, and the value. -/
def scalarRule (i : Instr) (c : Ctx) : Option (Bool × Nat) :=
  let wide := c.wide
  let w := if wide then 64 else 32
  let sg := tySigned c.ty
  let a := c.s c.f.a wide
  let b := c.sb c.ty wide % 2 ^ w
  let count := match expandImm c.f c.ty with | some x => x % 2 ^ 32 | none => c.s c.f.b false
  let yes (l : Nat) : Bool := c.act.has l && predOf (c.lane l) c.f.a.toNat
  match i with
  | .sadd _ => some (wide, (a + b) % 2 ^ w)
  | .ssub _ => some (wide, ((a - b : Int) % 2 ^ w).toNat)
  | .smul _ => some (wide, a * b % 2 ^ w)
  | .sand _ => some (wide, a &&& b)
  | .sor _ => some (wide, a ||| b)
  | .sxor _ => some (wide, a ^^^ b)
  | .sshl _ => some (wide, if count < w then a * 2 ^ count % 2 ^ w else 0)
  | .sshr _ => some (wide, if sg then (viewNum true w a / 2 ^ min count w % 2 ^ w).toNat
      else if count < w then a / 2 ^ count else 0)
  | .scmp _ => some (false, if condRule c.f.x.toNat (viewNum sg w a) (viewNum sg w b) then 1 else 0)
  | .smov _ => some (wide, a)
  | .smovi _ => some (wide, c.sb c.ty wide)
  | .slea _ =>
      let o := c.sb .i32 false
      let ext := if c.f.x.getLsbD 3 then (o : Int) else viewNum true 32 o
      some (true, ((c.s c.f.a true + ext * 2 ^ (c.f.x.toNat % 8)) % 2 ^ 64).toNat)
  | .v2s _ =>
      let at_ := c.s c.f.b false
      let lane := if c.f.x = 1 then (if at_ < 96 ∧ c.act.has at_ = true then some at_ else none) else c.act.lowest
      some (wide, match lane with | some l => c.v l (c.lane l) c.f.a wide | none => 0)
  | .smin _ => some (wide, if viewNum sg w b < viewNum sg w a then b else a)
  | .smax _ => some (wide, if viewNum sg w a < viewNum sg w b then b else a)
  | .vote _ => if c.f.x = 3 then
      some (false, (laneIds.filter yes).length) else none
  | _ => none

/-- The source lane of an LXCH, where its condition holds (R120). -/
def lxchRule (x l b : Nat) : Option Nat :=
  let g := if x / 4 = 0 then 96 else if x / 4 = 1 then 32 else if x / 4 = 2 then 16 else 8
  let base := l - l % g
  if x % 4 = 0 then (if b < g then some (base + b) else none)
  else if x % 4 = 1 then (if b ≤ l - base then some (l - b) else none)
  else if x % 4 = 2 then (if l + b < base + g then some (l + b) else none)
  else (if b < g ∧ l ^^^ b < base + g then some (l ^^^ b) else none)

end Sys2Proof.Machine
open Sys2Proof Sys2Proof.Machine

/-- R98, R99, R102: each active lane's destination takes, element by element, the result that the table gives from the
elements of a, b and the third source under the integer view (R96). -/
def Obligations.IntegerElementResults : Prop :=
  ∀ (i : Instr) (s : State) (c : Ctx) (op : Bool → Nat → Nat → Nat → Nat → Int),
    elementRule i c = some op → Ready i s c →
    let v := viewOf c.ty
    let w := tyBits v
    exec i s = .next (c.writeD (charged i s c) (w == 64) fun l ln => packElems w fun e =>
      (op (tySigned v) w (elemOf w (c.v l ln c.f.a (w == 64)) e) (elemOf w (c.vb l ln v (w == 64)) e)
        (elemOf w (c.vc l ln (w == 64)) e) % 2 ^ w).toNat)

/-- R98, R100, R101, R103, R105, R124: each active lane's destination takes the value that the rule gives from its own
registers and the train's scalars. -/
def Obligations.RegisterResults : Prop :=
  ∀ (i : Instr) (s : State) (c : Ctx) (x : Bool × (Nat → Lane → Nat)),
    registerRule i c = some x → Ready i s c → exec i s = .next (c.writeD (charged i s c) x.1 x.2)

/-- R100, R121, R124: the predicates that ICMP, VOTE.ALL, VOTE.ANY, PLUT and V2P write in the active lanes. -/
def Obligations.PredicateResults : Prop :=
  (∀ (i : Instr) (s : State) (c : Ctx) (p : Nat → Lane → Bool), predicateRule i c = some p → Ready i s c →
    exec i s = .next (c.writeP (charged i s c) p)) ∧
  ∀ (f : Fields) (s : State) (c : Ctx), Ready (.v2p f) s c →
    exec (.v2p f) s = .next (c.onLanes (charged (.v2p f) s c) fun l ln =>
      (List.range 32).foldl (fun ln j => setPred ln (c.f.d.toNat + j) ((c.v l (c.lane l) c.f.a false).testBit j)) ln)

/-- R104, R105, R121: the scalar results, written once per issue whatever the active set. -/
def Obligations.ScalarResults : Prop :=
  (∀ (i : Instr) (s : State) (c : Ctx) (x : Bool × Nat), scalarRule i c = some x → Ready i s c →
    exec i s = .next (writeS (charged i s c) c.r c.f.d.toNat x.1 x.2)) ∧
  ∀ (f : Fields) (s : State) (c : Ctx), c.f.x = 2 → Ready (.vote f) s c →
    exec (.vote f) s = .next (writeBallot (charged (.vote f) s c) c.r c.f.d.toNat
      (LaneSet.ofPred fun l => c.act.has l && predOf (c.lane l) c.f.a.toNat))

/-- R120, R122: LXCH gives each active lane the value of its source lane, its own where the condition fails or the source is
not active; MATCH gives it the rank, the count or the first of the active lanes with its value. -/
def Obligations.CrossLaneResults : Prop :=
  (∀ (f : Fields) (s : State) (c : Ctx), Ready (.lxch f) s c →
    exec (.lxch f) s = .next (c.writeD (charged (.lxch f) s c) c.wide fun l ln =>
      match lxchRule c.f.x.toNat l (c.vb l ln .i32 false) with
      | some j => if c.act.has j = true then c.v j (c.lane j) c.f.a c.wide else c.v l (c.lane l) c.f.a c.wide
      | none => c.v l (c.lane l) c.f.a c.wide)) ∧
  ∀ (f : Fields) (s : State) (c : Ctx), Ready (.match f) s c →
    exec (.match f) s = .next (c.writeD (charged (.match f) s c) c.wide fun l _ =>
      let same := laneIds.filter fun k =>
        c.act.has k && (c.v k (c.lane k) c.f.a c.wide == c.v l (c.lane l) c.f.a c.wide)
      if c.f.x = 0 then (same.filter fun k => decide (k < l)).length else if c.f.x = 1 then same.length else same.headD l)
/-! ## Floating-point and special functions -/

namespace Sys2Proof.Machine

/-- The floating-point lane results of R107-R110: whether the destination is a pair, and each lane's value with the
exceptions that its elements raise. -/
def floatRule (i : Instr) (c : Ctx) : Option (Bool × (Nat → Nat × Exc)) :=
  let w := tyBits c.ty
  let a (l : Nat) : Nat := c.v l (c.lane l) c.f.a c.wide
  match i with
  | .fadd _ => some (c.wide, c.floatVal fun t v e a b _ => fAddSub false t v e a b)
  | .fsub _ => some (c.wide, c.floatVal fun t v e a b _ => fAddSub true t v e a b)
  | .fmul _ => some (c.wide, c.floatVal fun t v e a b _ => fMul t v e a b)
  | .ffma _ => some (c.wide, c.floatVal fun t v e a b x => fFma t v e a b x)
  | .fmin _ => some (c.wide, c.floatVal fun t v _ a b _ => fMinMax false t v a b)
  | .fmax _ => some (c.wide, c.floatVal fun t v _ a b _ => fMinMax true t v a b)
  | .frnd _ => some (c.wide, fun l => packExc w fun e => fRnd (c.f.x == 1) c.ty (c.envRnd l) e (elemOf w (a l) e))
  | .fscale _ => some (c.wide, fun l => packExc w fun e =>
      fScale c.ty (c.env l) e (elemOf w (a l) e)
        (viewNum true w (elemOf w (c.vb l (c.lane l) (viewOf c.ty) c.wide) e)))
  | .fdot2 _ => some (false, fun l =>
      fDot2 c.ty (c.env l) 0 (c.v l (c.lane l) c.f.a false) (c.vb l (c.lane l) c.ty false) (c.vc l (c.lane l) false))
  | .fcvt _ =>
      if c.f.x = 0 then some (false, c.cvtVal 32 8 fun v _ a => toE8M0 v.ftz a)
      else if c.f.x = 1 then some (false, c.cvtVal 8 32 fun v _ a => ofE8M0 v.ftz a)
      else some (tyIs64 (ETy.ofCode c.f.x.toNat), c.cvtVal (tyBits c.ty) (tyBits (ETy.ofCode c.f.x.toNat))
        fun v e a => convert c.ty (ETy.ofCode c.f.x.toNat) v e c.scaleS c.satOn a)
  | .icvtf _ | .fcvti _ => some (tyIs64 (ETy.ofCode c.f.x.toNat), c.cvtVal (tyBits c.ty) (tyBits (ETy.ofCode c.f.x.toNat))
        fun v e a => convert c.ty (ETy.ofCode c.f.x.toNat) v e c.scaleS c.satOn a)
  | _ => none

/-- The element widths of the source and the destination of a conversion (R109). -/
def convWidths (i : Instr) (c : Ctx) : Option (Nat × Nat) :=
  match i with
  | .fcvt _ => some (if c.f.x = 0 then (32, 8) else if c.f.x = 1 then (8, 32)
      else (tyBits c.ty, tyBits (ETy.ofCode c.f.x.toNat)))
  | .icvtf _ | .fcvti _ => some (tyBits c.ty, tyBits (ETy.ofCode c.f.x.toNat))
  | _ => none

/-- The part q of a conversion lies inside its limit (R110); every other instruction has none. -/
def partOk (i : Instr) (c : Ctx) : Prop :=
  match convWidths i c with
  | none => True
  | some (ws, wd) =>
    let ns := elemCount ws
    let nd := elemCount wd
    let q := subOf c.f % 8
    if ns = nd then q = 0 else if ns < nd then q < nd / ns else q < ns / nd

/-- The values of the special functions (R111), by element. -/
def specialRule (i : Instr) : Option (ETy → FEnv → Nat → FVal → FVal → Nat × Exc) :=
  match i with
  | .frcp _ => some fun t v e a _ => fDiv t v e (.fin false 1 0) a
  | .frsq _ => some fun t v e a _ => fRsq t v e a
  | .fsqrt _ => some fun t v e a _ => fSqrt t v e a
  | .fdiv _ => some fun t v e a b => fDiv t v e a b
  | .fexp2 _ => some fun t v _ a _ => fFun .exp2 t v a
  | .flog2 _ => some fun t v _ a _ => fFun .log2 t v a
  | .fsin _ => some fun t v _ a _ => fFun .sin t v a
  | .fcos _ => some fun t v _ a _ => fFun .cos t v a
  | .ftanh _ => some fun t v _ a _ => fFun .tanh t v a
  | .fsigm _ => some fun t v _ a _ => fFun .sigm t v a
  | _ => none

/-- A lane's special-function result: its packed elements and the exceptions they raise. -/
def specialVal (c : Ctx) (op : ETy → FEnv → Nat → FVal → FVal → Nat × Exc) : Nat → Nat × Exc :=
  c.floatVal fun t v e a b _ => op t v e (inF t v a) (inF t v b)

/-- No active lane raises an exception that MODE enables (R36, R52). -/
def NoEnabled (c : Ctx) (exc : Nat → Exc) : Prop := ∀ l < 96, c.act.has l = true → exc l &&& c.enabled = 0

/-- The bank that FTAB reads is valid and of the train's ASID (R114). -/
def TableLoaded (s : State) (c : Ctx) : Prop :=
  let b := nth ActBank.reset (coreAt s c.r.core).actBanks (coreAt s c.r.core).actCur
  b.valid = true ∧ b.asid = c.t.asid

/-- The number that a value stands for (R45); 0 for what is no number. -/
def numOf (v : FVal) : ℚ := match v with | .fin n m e => (if n then -1 else 1) * m * 2 ^ e | _ => 0

/-- A value is finite. -/
def IsFin (v : FVal) : Prop := ∃ n m e, v = .fin n m e

/-- The floating-point types (R45). -/
def roundedTypes : List ETy := [.fp64, .fp32, .fp16, .bf16, .e5m2, .e4m3, .e2m1]

/-- `y` is the number of a grid that the exact `x` rounds to in a mode (R53): the nearer neighbour, on a tie the even one; the
neighbour of smaller magnitude, the lower, the upper; the nearer neighbour, on a tie the one of larger magnitude. -/
def RoundedAs (rm : Nat) (x y : ℝ) (grid : ℝ → Prop) (even : Prop) : Prop :=
  grid y ∧
  match rm with
  | 0 => (∀ z, grid z → |x - y| ≤ |x - z|) ∧ ∀ z, grid z → |x - z| = |x - y| → z ≠ y → even
  | 1 => |y| ≤ |x| ∧ 0 ≤ x * y ∧ ∀ z, grid z → |z| ≤ |x| → 0 ≤ x * z → |z| ≤ |y|
  | 2 => y ≤ x ∧ ∀ z, grid z → z ≤ x → z ≤ y
  | 3 => x ≤ y ∧ ∀ z, grid z → x ≤ z → y ≤ z
  | _ => (∀ z, grid z → |x - y| ≤ |x - z|) ∧ ∀ z, grid z → |x - z| = |x - y| → |z| ≤ |y|

/-- A number is one that a finite pattern of a type stands for. -/
def HasNum (t : ETy) (z : ℝ) : Prop := ∃ p < 2 ^ tyBits t, IsFin (decF t p) ∧ z = numOf (decF t p)

/-- A pattern of a type is the exact `x` rounded once (R53). -/
def RoundsTo (t : ETy) (rm : Nat) (x : ℝ) (p : Nat) : Prop :=
  p < 2 ^ tyBits t ∧ IsFin (decF t p) ∧ RoundedAs rm x (numOf (decF t p)) (HasNum t) (p % 2 = 0)

/-- A result is the exact `x` rounded once, inexact exactly where it is not `x`; what overflows apart, and where subnormals are
kept (R50, R52, R53). -/
def ExactOnce (t : ETy) (v : FEnv) (x : ℝ) (r : Nat × Exc) : Prop :=
  |x| ≤ numOf (decF t (maxMag t)) → v.ftz = false →
    RoundsTo t v.rm x r.1 ∧ (r.2.getLsbD 4 = true ↔ ((numOf (decF t r.1) : ℚ) : ℝ) ≠ x)

/-- What the source of a conversion stands for: an integer, a fixed-point number of scale `s`, or a finite floating-point
number (R60, R96, R109). -/
def SourceIs (src : ETy) (s x : Nat) (a : ℚ) : Prop :=
  (src.code < 8 ∧ a = viewNum (tySigned src) (tyBits src) x) ∨ (src = .fx64 ∧ a = viewNum true 64 x / 2 ^ s) ∨
  (src ∈ roundedTypes ∧ IsFin (decF src x) ∧ a = numOf (decF src x))

/-- A conversion to a signed or unsigned integer of `w` bits: the exact number rounded once, and clamped to the range (R53, R57). -/
def IntOnce (sg : Bool) (w rm : Nat) (x : ℝ) (r : Nat × Exc) : Prop :=
  ∀ i : ℤ, RoundedAs rm x i (fun z => ∃ j : ℤ, z = j) (i % 2 = 0) → r.1 = (viewClamp sg w i % 2 ^ w).toNat ∧
    (r.2.getLsbD 0 = true ↔ viewClamp sg w i ≠ i)

end Sys2Proof.Machine

/-- R107-R110: where no enabled exception is raised, each active lane takes the result of the operation on its elements; FCMP
writes a predicate, FCLASS raises nothing. -/
def Obligations.FloatResults : Prop :=
  (∀ (i : Instr) (s : State) (c : Ctx) (x : Bool × (Nat → Nat × Exc)), floatRule i c = some x → Ready i s c →
    partOk i c → NoEnabled c (fun l => (x.2 l).2) →
    exec i s = .next (c.writeD (charged i s c) x.1 fun l _ => (x.2 l).1)) ∧
  (∀ (f : Fields) (s : State) (c : Ctx), Ready (.fcmp f) s c → NoEnabled c (fun l => (c.fcmpVal l).2) →
    exec (.fcmp f) s = .next (c.writeP (charged (.fcmp f) s c) fun l _ => (c.fcmpVal l).1)) ∧
  ∀ (f : Fields) (s : State) (c : Ctx), Ready (.fclass f) s c →
    exec (.fclass f) s = .next (c.writeD (charged (.fclass f) s c) c.wide fun l ln =>
      packElems (tyBits c.ty) fun e => fClass c.ty (elemOf (tyBits c.ty) (c.v l ln c.f.a c.wide) e))

/-- R52: an exception that MODE enables is a precise trap 0x0C: it names the lanes that raised an enabled exception, TRAPADDR
holds every exception that an active lane raised, and no lane writes. -/
def Obligations.FloatTraps : Prop :=
  ∀ (i : Instr) (s : State) (c : Ctx) (exc : Nat → Exc),
    ((∃ x, floatRule i c = some x ∧ exc = fun l => (x.2 l).2) ∨
     (∃ op, specialRule i = some op ∧ exc = fun l => (specialVal c op l).2) ∨
     (∃ f, i = .fcmp f ∧ exc = fun l => (c.fcmpVal l).2)) →
    Ready i s c → partOk i c → ¬ NoEnabled c exc →
    exec i s = .next (takeTrap (charged i s c) c.r ⟨0x0C,
      LaneSet.ofPred fun l => c.act.has l && (exc l &&& c.enabled != 0), c.p.pc,
      ((laneIds.filter c.act.has).foldl (fun x l => x ||| exc l) (0 : Exc)).setWidth 64⟩)

/-- R33, R111, R114: where no enabled exception is raised, a special function's values become the outstanding result of the
instruction in the window that X opens; FTAB's are those of the bank that is current. -/
def Obligations.SpecialFunctionResults : Prop :=
  (∀ (i : Instr) (s : State) (c : Ctx) (op : ETy → FEnv → Nat → FVal → FVal → Nat × Exc), specialRule i = some op →
    Ready i s c → NoEnabled c (fun l => (specialVal c op l).2) →
    exec i s = .next (c.pendLanes (charged i s c) (if c.wide then 2 else 1)
      (c.act.toList.map fun l => (l, (specialVal c op l).1)))) ∧
  ∀ (f : Fields) (s : State) (c : Ctx), Ready (.ftab f) s c → TableLoaded s c →
    exec (.ftab f) s = .next (c.pendLanes (charged (.ftab f) s c) 1 (c.act.toList.map fun l =>
      (l, packElems (tyBits c.ty) fun e => ftabElem
        (nth ActBank.reset (coreAt s c.r.core).actBanks (coreAt s c.r.core).actCur) c.ty
        (elemOf (tyBits c.ty) (c.v l (c.lane l) c.f.a false) e))))

/-- R46, R49, R51, R107: a NaN operand gives the canonical NaN, invalid only where it signals; opposite infinities and zero
times infinity are invalid; the exact zero sum of operands of opposite sign is +0, but -0 toward -infinity; FCMP with a
NaN holds for NE and UN alone. -/
def Obligations.FloatSpecialValues : Prop :=
  ∀ (t : ETy) (v : FEnv) (k x y z : Nat),
    let a := inF t v x
    let b := inF t v y
    ((a.isNaN = true ∨ b.isNaN = true) →
      (∀ sub, fAddSub sub t v k x y = (nanPat t, sigExc [a, b])) ∧ fMul t v k x y = (nanPat t, sigExc [a, b]) ∧
      (fFma t v k x y z).1 = nanPat t ∧
      ∀ cond < 8, (fCmp cond t v x y).1 = (cond == 1 || cond == 6)) ∧
    (∀ n, a = .inf n → b = .inf (!n) → fAddSub false t v k x y = (nanPat t, excInv)) ∧
    (∀ n, a = .inf n → b = .inf n → fAddSub true t v k x y = (nanPat t, excInv)) ∧
    (∀ n g e, a = .inf n → b = .fin g 0 e → fMul t v k x y = (nanPat t, excInv) ∧ fFma t v k x y z = (nanPat t, excInv)) ∧
    (∀ n m e, a = .fin n m e → b = .fin (!n) m e → fAddSub false t v k x y = (signPat t (v.rm == 2), 0))

/-- R53: the rounding of m * 2^e to a multiple of 2^(e + s): inexact exactly where it is none; the nearer neighbour, ties to
even or away; toward zero; downward; upward. R50, R107, R109, R111: a finite sum, difference, product, fused product,
quotient, root, reciprocal root or conversion is the exact number rounded once, in each deterministic mode; with FTZ subnormal
operands and results are zeros of their sign. -/
def Obligations.RoundingModes : Prop :=
  (∀ t ∈ roundedTypes, ∀ (v : FEnv) (k : Nat), v.rm < 5 →
    (∀ x y z, let a := decF t x
      let b := decF t y
      let c := decF t z
      IsFin a → IsFin b →
        ExactOnce t v ((numOf a + numOf b : ℚ) : ℝ) (fAddSub false t v k x y) ∧
        ExactOnce t v ((numOf a - numOf b : ℚ) : ℝ) (fAddSub true t v k x y) ∧
        ExactOnce t v ((numOf a * numOf b : ℚ) : ℝ) (fMul t v k x y) ∧
        (IsFin c → ExactOnce t v ((numOf a * numOf b + numOf c : ℚ) : ℝ) (fFma t v k x y z)) ∧
        (numOf b ≠ 0 → ExactOnce t v ((numOf a / numOf b : ℚ) : ℝ) (fDiv t v k a b)) ∧
        (0 ≤ numOf a → ExactOnce t v (Real.sqrt (numOf a : ℚ)) (fSqrt t v k a)) ∧
        (0 < numOf a → ExactOnce t v (1 / Real.sqrt (numOf a : ℚ)) (fRsq t v k a))) ∧
    (∀ src s sat x a, SourceIs src s x a → ExactOnce t v ((a : ℚ) : ℝ) (convert src t v k s sat x)) ∧
    (∀ src dst : ETy, 8 ≤ src.code → dst.code < 8 → v.ftz = false → ∀ s sat x a, SourceIs src s x a →
      IntOnce (tySigned dst) (tyBits dst) v.rm ((a : ℚ) : ℝ) (convert src dst v k s sat x)) ∧
    (v.ftz = false → ∀ s sat x a, SourceIs t s x a →
      IntOnce true 64 v.rm ((a * 2 ^ s : ℚ) : ℝ) (convert t .fx64 v k s sat x)) ∧
    (v.ftz = true → ∀ sub x y z, let w := { v with ftz := false }
      let zero (p : Nat) : Nat := if isSub t p = true then signPat t (p.testBit (tyBits t - 1)) else p
      (fAddSub sub t v k x y).1 = zero (fAddSub sub t w k (zero x) (zero y)).1 ∧
      (fMul t v k x y).1 = zero (fMul t w k (zero x) (zero y)).1 ∧
      (fFma t v k x y z).1 = zero (fFma t w k (zero x) (zero y) (zero z)).1)) ∧
  ∀ (u : Nat) (neg : Bool) (m s : Nat) (e : Int), 0 < s →
    let r (rm : Nat) : Nat := (roundAt rm u neg m e false (e + s)).1
    let near (q : Nat) : Prop := 2 * (q * 2 ^ s) ≤ 2 * m + 2 ^ s ∧ 2 * m ≤ 2 * (q * 2 ^ s) + 2 ^ s
    let tie (q : Nat) : Prop := 2 * (q * 2 ^ s) = 2 * m + 2 ^ s ∨ 2 * m = 2 * (q * 2 ^ s) + 2 ^ s
    (∀ rm, (roundAt rm u neg m e false (e + s)).2 = true ↔ ¬ 2 ^ s ∣ m) ∧
    (near (r 0) ∧ (tie (r 0) → r 0 % 2 = 0)) ∧
    r 1 = m / 2 ^ s ∧
    (r 2 = if neg then (m + (2 ^ s - 1)) / 2 ^ s else m / 2 ^ s) ∧
    (r 3 = if neg then m / 2 ^ s else (m + (2 ^ s - 1)) / 2 ^ s) ∧
    (near (r 4) ∧ (tie (r 4) → m ≤ r 4 * 2 ^ s))

/-! ## MODE, special registers, control flow and traps -/

namespace Sys2Proof.Machine

/-- MODE as SETMODE's sub-function leaves it (R36, R117). -/
def modeRule (c : Ctx) : Nat :=
  let m := c.p.mode.toNat
  let v := match c.f.ext with
    | .l1 imm _ => imm.toNat
    | .w _ lit => lit.toNat
    | _ => c.s c.f.a false
  if c.f.x = 0 then m / 2 ^ 16 * 2 ^ 16 + v % 2 ^ 16
  else if c.f.x = 1 then m % 2 ^ 16 + v % 2 ^ 5 * 2 ^ 16
  else if c.f.x = 2 then v % 2 ^ 21
  else m / 2 ^ 11 * 2 ^ 11 + v % 2 ^ 4 * 2 ^ 7 + m % 2 ^ 7

/-- What a special register reads (R38): the package, core, train and path as they stand, the balance after the reading
instruction's own charge and the cycle's frame transfer (R202). -/
def spRule (i : Instr) (s : State) (c : Ctx) (n : Nat) : Nat :=
  let k := coreAt s c.r.core
  match n with
  | 0x00 => c.p.mode.toNat
  | 0x01 => if c.r.handler then 0 else c.r.entry
  | 0x02 => c.t.trainId.toNat
  | 0x03 => c.t.crew.crew
  | 0x04 => (clusterAt s (c.r.core / 6)).cycle.toNat
  | 0x05 => s.time % 2 ^ 64
  | 0x06 => k.balance - priceOf i c.ty - dueCharge (charged i s c) c.r.core
  | 0x07 => s.bank / 10 ^ 9
  | 0x08 => s.rampset.toNat
  | 0x09 => c.p.wbase.toNat % 2 ^ 16
  | 0x0A => c.t.winstack.toNat
  | 0x0B => c.t.trapCause.toNat
  | 0x0C => c.t.trapPc.toNat
  | 0x0D => c.t.trapMask.toNat % 2 ^ 32
  | 0x0E => c.t.trapMask.toNat / 2 ^ 32 % 2 ^ 32
  | 0x0F => c.t.trapMask.toNat / 2 ^ 64 % 2 ^ 32
  | 0x10 => c.t.trapAddr.toNat
  | 0x11 => dbgctlRead c.t
  | 0x12 => k.sampctl.toNat - k.sampctl.toNat / 128 % 2 * 128 + (if sampFull s k then 128 else 0)
  | 0x13 => (shardVerOf s c.t.asid).toNat
  | 0x20 => s.feature0.toNat
  | 0x28 => (dieAt s 0).ageind.toNat
  | 0x29 => (dieAt s 1).ageind.toNat
  | 0x2A => (dieAt s 2).ageind.toNat
  | 0x2B => (dieAt s 3).ageind.toNat
  | _ => 0

/-- RMODE of a MODE value is none of the reserved 6 and 7 (R36, R53). -/
def RmodeLegal (m : Nat) : Prop := m / 2 ^ 11 % 2 ^ 3 < 6

/-- The path of `c` goes on at a PC with a mask, nothing else of it changed by control flow: Active, redirected for the 4
cycles of R130 or not. -/
def GoesOn (t : State) (c : Ctx) (pc : DWord) (mask : LaneSet) (delay : Nat) : Prop :=
  ∃ q, pathAt t c.r = some q ∧ q.pc = pc ∧ q.mask = mask ∧ q.delay = delay ∧ q.mode = c.p.mode ∧ q.wbase = c.p.wbase ∧
    q.jids = c.p.jids ∧ q.pstate = .active ∧ q.frozen = .none ∧ q.trapDue = none

/-- The redirect delay of a path that goes on at a PC (R130). -/
def redirect (c : Ctx) (pc : DWord) : Nat := if pc = c.nextPc then 0 else 4

/-- The lanes on which a BRA is taken (R133). -/
def takenRule (c : Ctx) : LaneSet :=
  let cond := LaneSet.ofPred fun l => c.act.has l && (predOf (c.lane l) c.f.a.toNat != c.f.x.getLsbD 0)
  let kind := c.f.x.toNat / 2 % 4
  if kind = 0 then cond
  else if kind = 1 then (if cond = 0 then 0 else c.p.mask)
  else if c.act ≠ 0 ∧ cond = c.act then c.p.mask else 0

/-- A target that R67 lets a transfer reach. -/
def TargetOk (a : DWord) : Prop := a.toNat % 4 = 0 ∧ canonical a = true

/-- A path can divide into these groups: its results have landed, the groups that find no free entry have their records
written, and a handler has entries for all (R127, R177). -/
def CanDivide (s : State) (c : Ctx) (gs : List PGroup) : Prop :=
  (2 ≤ gs.length → c.p.pending = []) ∧ ∃ d, divide s c gs = some d ∧ ∀ x ∈ d.recs, x.1 ∈ c.p.xfers

/-- No error is found that is not yet, and the bytes at a key are not poisoned, at home or in a held copy (R228, R240). -/
def Clean (s : State) (k n : Nat) : Prop :=
  s.latent = [] ∧ ∀ g ∈ granulesOf k n, g ∉ s.poison ∧ ∀ x ∈ s.l1, x.granule = g → x.poison = false

/-- No read of the bytes at a key can still miss a write of them: every such write is older than R329's bound. -/
def Unmoved (s : State) (k n : Nat) : Prop := ∀ x ∈ s.past, x.touches k n = true → x.time + visibleIn ≤ s.time

/-- What a core's cache of a separately cached route holds is what memory holds (R220, R250). -/
def RouteFresh (s : State) (core : Nat) (g : Route) : Prop :=
  ∀ x ∈ routeLines s core g, x.later = [] ∧ x.data = memBytes s.mem (64 * x.line) 64

/-- The object of a YIELD, CWAIT or CTEST passes its check and is read without an error: its key (R271). -/
def ObjectAt (s : State) (c : Ctx) (a : DWord) (k : Nat) : Prop :=
  canonical a = true ∧ a.toNat % 32 = 0 ∧
  leafCheck s c.priv .write 32 a (xlate s c.r.core c.t.asid a) = .ok k ∧
  Clean s k 16

/-- Another path than those of two entries, or a record, carries an id (R136). -/
def CarriedElsewhere (c : Ctx) (j e : Nat) : Prop :=
  (∃ i q, (i, q) ∈ livePaths (pathsOf c.t c.r.handler) ∧ i ≠ c.r.entry ∧ i ≠ e ∧ q.jids.getLsbD j = true) ∨
  (c.r.handler = false ∧ ((∃ d ∈ c.t.deferred, d.jids.getLsbD j = true) ∨ ∃ x ∈ c.t.refills, x.what.jids.getLsbD j = true))

/-- A path is Parked at JWAIT j. -/
def ParkedAtId (j : Nat) (p : Path) : Prop := p.pstate = .parked ∧ p.wake = some (.jwait j)

/-- A carrier of an id has arrived at its JWAIT: it is parked there while another carrier is left, else the id leaves its ids and
it goes on at the id's PC in the reconvergence table in use (R136, R177). -/
def ArrivedAt (c : Ctx) (j e : Nat) (ids : BitVec 16) (p : Path) : Prop :=
  (CarriedElsewhere c j e → ParkedAtId j p ∧ p.stall = 0x10 ∧ p.jids = ids) ∧
  (¬ CarriedElsewhere c j e → p.pstate = .active ∧ p.wake = none ∧ p.jids = ids &&& ~~~(BitVec.ofNat 16 (2 ^ j)) ∧
    (c.r.handler = false → p.pc = nth 0 c.t.jtab j) ∧
    ∀ h pc, c.r.handler = true → c.t.handler = some h → nth none h.jtab j = some pc → p.pc = pc)

/-- Whether an object is satisfied: DONE has reached WANT (R271). -/
def Satisfied (s : State) (k : Nat) : Prop := memLe s.mem (k + 8) 8 ≤ memLe s.mem k 8

end Sys2Proof.Machine

/-- R36, R38, R117, R118: NOP has no effect beyond its charge; SETMODE and SETSP write MODE or a trap register of the
executing path; GETSP copies the special register into its scalar. R36: a SETMODE or a SETSP of MODE that would write
RMODE 6 or 7 traps with cause 0x02 before issue: nothing is charged and MODE is unchanged until the handler runs. -/
def Obligations.ModeResults : Prop :=
  ((∀ f s c, Ready (.nop f) s c → exec (.nop f) s = .next (charged (.nop f) s c)) ∧
   (∀ f s c, Ready (.setmode f) s c → RmodeLegal (modeRule c) →
     exec (.setmode f) s = .next (modPath (charged (.setmode f) s c) c.r fun p =>
       { p with mode := BitVec.ofNat 32 (modeRule c) })) ∧
   (∀ f s c, Ready (.getsp f) s c → c.f.a.toNat ≤ 0x13 ∨ (0x20 ≤ c.f.a.toNat ∧ c.f.a.toNat ≤ 0x2B) →
     exec (.getsp f) s = .next (writeS (charged (.getsp f) s c) c.r c.f.d.toNat (spIs64 c.f.a.toNat)
       (spRule (.getsp f) s c c.f.a.toNat))) ∧
   ∀ f s c, Ready (.setsp f) s c → c.f.d.toNat ≤ 0x13 ∨ (0x20 ≤ c.f.d.toNat ∧ c.f.d.toNat ≤ 0x2B) →
     (c.f.d = 0 → RmodeLegal c.spSrc) →
     exec (.setsp f) s = .next (spWrite (charged (.setsp f) s c) c.r c.f.d.toNat c.spSrc)) ∧
  (∀ f s c, Ready (.setmode f) s c → ¬ RmodeLegal (modeRule c) →
    exec (.setmode f) s = .next (takeTrap { s with sel := none } c.r
      ⟨0x02, c.p.mask, c.p.pc, decodeAddr c (.setmode f) 0⟩)) ∧
  ∀ f s c, Ready (.setsp f) s c → c.f.d = 0 → ¬ RmodeLegal c.spSrc →
    exec (.setsp f) s = .next (takeTrap { s with sel := none } c.r
      ⟨0x02, c.p.mask, c.p.pc, decodeAddr c (.setsp f) 0⟩)

/-- R156, R169, R191, R212, R380: the privileged writes of WINSTACK, WINDEPTH, RAMPSET, SAMPCTL and DBGCTL, with the
conditions under which each takes its value. R184, R192: a write of FREEZE by the agent freezes the siblings, or lets those
that it has frozen run on. -/
def Obligations.PrivilegedWrites : Prop :=
  (∀ f s c, Ready (.winstackWrite f) s c → c.t.deferred = [] → c.t.refills = [] → c.spSrc % 2 ^ 16 ≠ 0 →
    deepest c.t < c.spSrc % 2 ^ 16 →
    exec (.winstackWrite f) s = .next (modTrain (charged (.winstackWrite f) s c) c.r.core c.r.slot fun t =>
      { t with winstack := BitVec.ofNat 64 (c.spSrc % 2 ^ 56) })) ∧
  (∀ f s c, Ready (.windepthWrite f) s c → c.spSrc < c.t.winstack.toNat % 2 ^ 16 → c.p.pending = [] →
    (∀ j ∈ flushJobs c.p c.p.mask, j ∈ c.p.xfers) →
    exec (.windepthWrite f) s = .next (modPath (modTrain (charged (.windepthWrite f) s c) c.r.core c.r.slot fun t =>
        { t with lanes := mapLanes t.lanes c.p.mask fun _ ln => moveWindow c.depth c.spSrc ln }) c.r fun p =>
      { p with wbase := mkWbase c.spSrc 0 })) ∧
  (∀ f s c, Ready (.rampsetWrite f) s c →
    10 ≤ c.spSrc % 2 ^ 8 → c.spSrc % 2 ^ 8 ≤ 200 → 25 ≤ c.spSrc / 2 ^ 8 % 2 ^ 10 → c.spSrc / 2 ^ 8 % 2 ^ 10 ≤ 1000 →
    25 ≤ c.spSrc / 2 ^ 18 % 2 ^ 10 → c.spSrc / 2 ^ 18 % 2 ^ 10 ≤ c.spSrc / 2 ^ 8 % 2 ^ 10 →
    exec (.rampsetWrite f) s = .next { charged (.rampsetWrite f) s c with rampset := BitVec.ofNat 32 (c.spSrc % 2 ^ 29) }) ∧
  (∀ f s c, Ready (.sampctlWrite f) s c → 8 ≤ c.spSrc / 2 % 2 ^ 5 → c.spSrc / 2 % 2 ^ 5 ≤ 20 →
    exec (.sampctlWrite f) s = .next (modCore (charged (.sampctlWrite f) s c) c.r.core fun k =>
      let old := k.sampctl.toNat
      { k with
        sampctl := BitVec.ofNat 32 (c.spSrc % 2 ^ 7 +
          (BitVec.ofNat 16 (old / 2 ^ 16) &&& ~~~(BitVec.ofNat 16 (c.spSrc / 2 ^ 16))).toNat * 2 ^ 16),
        sampIn := if (c.spSrc % 2 = 1 ∧ old % 2 = 0) ∨ c.spSrc / 2 % 2 ^ 5 ≠ old / 2 % 2 ^ 5
          then 2 ^ (c.spSrc / 2 % 2 ^ 5) else k.sampIn })) ∧
  ∀ f s c, Ready (.dbgctlWrite f) s c → c.spSrc / 2 ^ 4 % 2 ^ 4 ≤ 8 →
    exec (.dbgctlWrite f) s = .next (modTrain (charged (.dbgctlWrite f) s c) c.r.core c.r.slot fun t =>
      refreeze (requestHalt { t with dbgctl := BitVec.ofNat 32 (c.spSrc % 2 ^ 8) })) ∧
    ∀ h, c.t.handler = some h → h.agent = true → ∀ e q, e ≠ h.entry → nth none c.t.paths e = some q → ∃ t u q',
      exec (.dbgctlWrite f) s = .next t ∧ trainAt t c.r.core c.r.slot = some u ∧ nth none u.paths e = some q' ∧ q'.pc = q.pc ∧
      (c.spSrc % 2 = 1 → q'.frozen = if q.frozen = .none then .halt else q.frozen) ∧
      (c.spSrc % 2 = 0 → q'.frozen = if q.frozen = .halt then .none else q.frozen)

/-- R133: a BRA with no taken lane goes on at the next instruction; one whose every lane is taken goes to its target; one that
divides keeps its taken lanes in its entry and gives the others the lowest free entry (R19, R127); where its target is the next
instruction all its lanes go on there. -/
def Obligations.BranchResults : Prop :=
  (∀ f s c, Ready (.bra f) s c →
     (takenRule c = 0 ∨ canonical (c.p.pc + 4 * dispOf c.f) = true ∧ CanDivide s c (braGroups c)) →
     exec (.bra f) s = .next (divideNow (charged (.bra f) s c) c (braGroups c))) ∧
  ∀ f s c, Ready (.bra f) s c →
    let T := takenRule c
    let target := c.p.pc + 4 * dispOf c.f
    (T = 0 → ∃ t, exec (.bra f) s = .next t ∧ GoesOn t c c.nextPc c.p.mask 0) ∧
    (T ≠ 0 → canonical target = true → T = c.p.mask →
      ∃ t, exec (.bra f) s = .next t ∧ GoesOn t c target c.p.mask (redirect c target)) ∧
    (T ≠ 0 → T ≠ c.p.mask → target = c.nextPc → canonical target = true →
      ∃ t, exec (.bra f) s = .next t ∧ GoesOn t c c.nextPc c.p.mask 0) ∧
    (T ≠ 0 → canonical target = true → T ≠ c.p.mask → target ≠ c.nextPc → c.p.pending = [] → ∀ e rest, freeEntries c.t c.r.handler = e :: rest →
      ∃ t, exec (.bra f) s = .next t ∧ GoesOn t c target T (redirect c target) ∧
        ∃ q, pathAt t { c.r with entry := e } = some q ∧ q.pc = c.nextPc ∧ q.mask = c.p.mask.diff T ∧ q.delay = 0 ∧
          q.mode = c.p.mode ∧ q.wbase = c.p.wbase ∧ q.jids = c.p.jids ∧ q.pending = [] ∧ q.pstate = .active) ∧
    (T ≠ 0 → canonical target = false →
      exec (.bra f) s = .next (takeTrap { s with sel := none } c.r ⟨0x07, T, c.p.pc, target⟩))

/-- R134, R161, R163: BRX, CALL, CALLX and RET move every group of their lanes to its target at once; an empty active set lets
CALL, CALLX and RET go on; CALL writes each callee's link pair, and RET needs the caller's frame. R161, R163: where every
active lane of the whole mask has one target, CALL takes the path there one frame deeper with one more resident caller, of
at most 3, and every lane's w22:w23 holds the return address; RET takes it back one frame up. -/
def Obligations.TransferResults : Prop :=
  ((∀ f s c, Ready (.brx f) s c → (∀ l ∈ c.act.toList, TargetOk (c.regTarget l)) → CanDivide s c (brxGroups c) →
     exec (.brx f) s = .next (divideNow (charged (.brx f) s c) c (brxGroups c))) ∧
   (∀ (i : Instr) f s c ind, (i = .call f ∧ ind = false ∨ i = .callx f ∧ ind = true) → Ready i s c → c.p.pending = [] →
     (c.act = 0 → exec i s = .next (charged i s c)) ∧
     (c.act ≠ 0 → (∀ l ∈ c.act.toList, TargetOk (callTarget c ind l)) →
       c.p.wbase.toNat % 2 ^ 16 + 1 < c.t.winstack.toNat % 2 ^ 16 →
       (∀ j ∈ callJobs c (callGroups c ind), j ∈ c.p.xfers) → CanDivide s c (callGroups c ind) →
       exec i s = .next (divideNow (c.onLanes (charged i s c) fun _ ln =>
         wrV (c.p.wbase.toNat % 2 ^ 16 + 1) ln 38 true c.nextPc.toNat) c (callGroups c ind)))) ∧
   ∀ f s c, Ready (.ret f) s c → c.p.pending = [] →
     (c.act = 0 → exec (.ret f) s = .next (charged (.ret f) s c)) ∧
     (c.act ≠ 0 → c.p.wbase.toNat % 2 ^ 16 ≠ 0 → (∀ l ∈ c.act.toList, TargetOk (c.linkOf l)) →
       (∀ j ∈ retJobs c, j ∈ c.p.xfers) → CanDivide s c (retGroups c) →
       exec (.ret f) s = .next (divideNow (charged (.ret f) s c) c (retGroups c)))) ∧
  (∀ (i : Instr) f s c ind target, (i = .call f ∧ ind = false ∨ i = .callx f ∧ ind = true) → Ready i s c →
    c.p.pending = [] → c.act = c.p.mask → c.act ≠ 0 → (∀ l ∈ c.act.toList, callTarget c ind l = target) → TargetOk target →
    depthOf c.p + 1 < framesOf c.t → (resOf c.p = 3 → .spill (depthOf c.p - 3) c.p.mask ∈ c.p.xfers) →
    ∃ t q u, exec i s = .next t ∧ pathAt t c.r = some q ∧ q.pc = target ∧ q.mask = c.p.mask ∧
      q.wbase = mkWbase (depthOf c.p + 1) (min (resOf c.p) 2 + 1) ∧ q.delay = redirect c target ∧
      trainAt t c.r.core c.r.slot = some u ∧
      ∀ l ln, c.t.lanes[l]? = some ln → ln.ring.length = 104 → c.p.mask.has l = true →
        ∃ ln', u.lanes[l]? = some ln' ∧ rdV u (depthOf c.p + 1) l ln' 38 true = c.nextPc.toNat) ∧
  ∀ f s c target, Ready (.ret f) s c → c.p.pending = [] → c.act = c.p.mask → c.act ≠ 0 → depthOf c.p ≠ 0 →
    (∀ l ∈ c.act.toList, c.linkOf l = target) → TargetOk target →
    (resOf c.p = 0 → .fill (depthOf c.p - 1) c.p.mask ∈ c.p.xfers) →
    ∃ t q, exec (.ret f) s = .next t ∧ pathAt t c.r = some q ∧ q.pc = target ∧ q.mask = c.p.mask ∧
      q.wbase = mkWbase (depthOf c.p - 1) (resOf c.p - 1) ∧ q.delay = redirect c target

/-- R135-R137, R144, R145, R165: JSET names an id's PC and carries it; JWAIT on an id not carried goes on; WAITL waits for the
results alone; YIELD goes to its continuation or parks until its object is satisfied; WFLUSH leaves no resident caller. R35, R136:
JWAIT on a carried id parks the path where none is parked at it, else merges it with that one in the lower entry: their masks
and ids together, MODE that of the owner of the lowest lane, the other entry Free; where no other carrier is left, the path
goes on at the id's PC, which it no longer carries. That a YIELD of form L with KIND 0 continues at its own address is the model's
choice (log entry 85). -/
def Obligations.WaitResults : Prop :=
  (∀ f s c, Ready (.jset f) s c → canonical (c.p.pc + 4 * dispOf c.f) = true →
    exec (.jset f) s = .next (modPath (modTrain (charged (.jset f) s c) c.r.core c.r.slot fun t =>
      setJtab t c.r.handler c.f.x.toNat (c.p.pc + 4 * dispOf c.f)) c.r fun p =>
        { p with jids := p.jids ||| BitVec.ofNat 16 (2 ^ c.f.x.toNat) })) ∧
  (∀ f s c, Ready (.jwait f) s c →
    (c.p.jids.getLsbD c.f.x.toNat = false → exec (.jwait f) s = .next (charged (.jwait f) s c)) ∧
    (c.p.jids.getLsbD c.f.x.toNat = true → c.p.pending = [] →
      (∀ e q, jwaitPeer c.t c.r.handler c.r.entry c.f.x.toNat = some (e, q) → ∀ j ∈ mergeJobs c.p q, j ∈ c.p.xfers) →
      exec (.jwait f) s = .next (arriveJwait (charged (.jwait f) s c) c.r c.f.x.toNat))) ∧
  (∀ f s c, Ready (.jwait f) s c → let j := c.f.x.toNat
    let others := (livePaths (pathsOf c.t c.r.handler)).filter fun x => x.1 != c.r.entry
    c.p.jids.getLsbD j = true → c.p.pending = [] →
    ((∀ x ∈ others, ¬ ParkedAtId j x.2) → ∃ t p, exec (.jwait f) s = .next t ∧ t.mem = s.mem ∧ pathAt t c.r = some p ∧
      p.mask = c.p.mask ∧ p.mode = c.p.mode ∧ ArrivedAt c j c.r.entry c.p.jids p) ∧
    ∀ e q, (e, q) ∈ others → ParkedAtId j q → (∀ x ∈ others, ParkedAtId j x.2 → x = (e, q)) →
      (∀ k ∈ mergeJobs c.p q, k ∈ c.p.xfers) →
      ∃ t p, exec (.jwait f) s = .next t ∧ t.mem = s.mem ∧ pathAt t { c.r with entry := min c.r.entry e } = some p ∧
        pathAt t { c.r with entry := max c.r.entry e } = none ∧ p.mask = c.p.mask ||| q.mask ∧
        (c.p.mask.lowest.getD 96 < q.mask.lowest.getD 96 → p.mode = c.p.mode) ∧
        (q.mask.lowest.getD 96 < c.p.mask.lowest.getD 96 → p.mode = q.mode) ∧ ArrivedAt c j e (c.p.jids ||| q.jids) p) ∧
  (∀ f s c, Ready (.waitl f) s c → c.p.pending = [] → exec (.waitl f) s = .next (charged (.waitl f) s c)) ∧
  (∀ f s c k, Ready (.yield f) s c → c.p.pending = [] → ObjectAt s c (BitVec.ofNat 64 (c.s c.f.a true)) k →
    let cont := match c.f.ext with | .s => c.nextPc | _ => c.p.pc + 4 * dispOf c.f
    canonical cont = true →
    ∃ t q, exec (.yield f) s = .next t ∧ pathAt t c.r = some q ∧
      (Satisfied s k → q.pc = cont ∧ q.pstate = .active ∧ q.delay = redirect c cont) ∧
      (¬ Satisfied s k → q.pstate = .parked ∧ q.wake = some (.yield k cont (BitVec.ofNat 64 (c.s c.f.a true))) ∧ q.stall = 0x0F)) ∧
  ∀ f s c, Ready (.wflush f) s c → c.p.pending = [] → (∀ j ∈ flushJobs c.p c.p.mask, j ∈ c.p.xfers) →
    exec (.wflush f) s = .next (modPath (charged (.wflush f) s c) c.r fun p =>
      { p with wbase := mkWbase (depthOf p) 0 })

/-- R147, R148: EXIT and TAIL retire the active lanes of a path outside a handler with their statuses; while lanes are left
the path goes on with them. -/
def Obligations.RetireResults : Prop :=
  ∀ (i : Instr) f s c how, (i = .exit f ∧ how = .byExit ∨ i = .tail f ∧ how = .byTail) → Ready i s c → c.p.pending = [] →
    exec i s = .next (retire c (charged i s c) how) ∧
    (c.r.handler = false → c.p.mask.diff c.act ≠ 0 → ∃ t u, exec i s = .next t ∧
      GoesOn t c c.nextPc (c.p.mask.diff c.act) 0 ∧ trainAt t c.r.core c.r.slot = some u ∧
      u.retired = c.t.retired ||| c.act ∧
      ∀ l ln, c.t.lanes[l]? = some ln → ∃ ln', u.lanes[l]? = some ln' ∧ ln'.v = ln.v ∧ ln'.ring = ln.ring ∧
        ln'.preds = ln.preds ∧ (c.act.has l = true → ln'.hold = none ∧ ln'.status = match c.f.ext with
          | .l1 imm _ => imm
          | .w _ lit => lit.setWidth 16
          | _ => BitVec.ofNat 16 (c.v l ln c.f.b false)) ∧
        (c.act.has l = false → ln'.hold = ln.hold ∧ ln'.status = ln.status))

/-- R80, R182, R183, R186: ILL is an illegal instruction, uncharged; TRAP on a non-empty active set takes cause 0x0E to return
after it; BRK enters the agent on the path's mask; ERET leaves the handler; REGION records its region. -/
def Obligations.TrapInstructionResults : Prop :=
  (∀ len hi w1 w2 s r p, s.sel = some r → pathAt s r = some p → issuable p = true →
    exec (.ill len hi w1 w2) s = .next (takeTrap { s with sel := none } r
      ⟨0x01, p.mask, p.pc, ((hi ++ (0 : BitVec 8) ++ len : BitVec 32)).setWidth 64⟩)) ∧
  (∀ f s c, Ready (.trap f) s c →
    let code : DWord := match c.f.ext with | .l1 imm _ => imm.setWidth 64 | _ => 0
    (c.act = 0 → exec (.trap f) s = .next (charged (.trap f) s c)) ∧
    (c.act ≠ 0 → exec (.trap f) s = .next (takeTrap (charged (.trap f) s c) c.r ⟨0x0E, c.act, c.nextPc, code⟩))) ∧
  (∀ f s c, Ready (.brk f) s c →
    exec (.brk f) s = .next (takeTrap (charged (.brk f) s c) c.r
      ⟨0x0F, c.p.mask, c.p.pc, BitVec.ofNat 64 (16 * c.f.x.toNat)⟩)) ∧
  (∀ f s c h, Ready (.eret f) s c → c.t.handler = some h → c.p.pending = [] → (livePaths h.paths).length = 1 →
    c.p.mask = h.hmask → TargetOk c.t.trapPc →
    exec (.eret f) s = .next (leaveHandler (charged (.eret f) s c) c.r.core c.r.slot c.p.wbase c.p.uid c.p.pc)) ∧
  (∀ f s c h, Ready (.eret f) s c → c.t.handler = some h → c.p.pending = [] →
    ((livePaths h.paths).length ≠ 1 ∨ c.p.mask ≠ h.hmask) →
    exec (.eret f) s = .next (killTrain (charged (.eret f) s c) c.r.core c.r.slot 0x12 c.p.pc h.hmask)) ∧
  ∀ f s c, Ready (.region f) s c →
    (c.r.handler = true → exec (.region f) s = .next (charged (.region f) s c)) ∧
    (c.r.handler = false → ∃ t q, exec (.region f) s = .next t ∧ pathAt t c.r = some q ∧
      q.region.entry = c.p.pc ∧ q.region.broken = false ∧ q.region.keeps = c.f.b.getLsbD 4 ∧
      q.region.livev = BitVec.ofNat 16 (c.f.d.toNat + 64 * c.f.a.toNat + 4096 * (c.f.b.toNat % 16)) ∧
      q.region.livew = (match c.f.ext with | .w _ lit => lit | _ => 0) ∧ q.region.dics = c.t.lanes.map (·.dic) ∧
      q.stop = if c.p.stop = .awaitingRegion then .atRegion else c.p.stop)

/-! ## Combining and tables -/

namespace Sys2Proof.Machine

/-- The integer operations of REDUCE and SCAN, and the value of none (R63, R123): from the view's signedness and width. -/
def combineRule (x : Nat) (sg : Bool) (w : Nat) : (Nat → Nat → Nat) × Nat :=
  if x = 0 then (fun a b => (a + b) % 2 ^ w, 0)
  else if x = 1 then (fun a b => if viewNum sg w b < viewNum sg w a then b else a, (viewMax sg w % 2 ^ w).toNat)
  else if x = 2 then (fun a b => if viewNum sg w a < viewNum sg w b then b else a, (viewMin sg w % 2 ^ w).toNat)
  else if x = 3 then (fun a b => a &&& b, 2 ^ w - 1)
  else if x = 4 then (fun a b => a ||| b, 0)
  else (fun a b => a ^^^ b, 0)

/-- The integer combination of the active lanes below `n`, element by element (R61, R123). -/
def combineLanes (c : Ctx) (n : Nat) : Nat :=
  let v := viewOf c.ty
  let w := tyBits v
  let rule := combineRule c.f.x.toNat (tySigned v) w
  packElems w fun e => ((laneIds.filter fun l => c.act.has l && decide (l < n)).map fun l =>
    elemOf w (c.v l (c.lane l) c.f.a (w == 64)) e).foldl rule.1 rule.2

/-- The words of a table image: LO, HI and INV finite, LO < HI, 0 < INV, and zeros where the layout has none (R113). -/
def ImageOk (g : Nat → Nat) : Prop :=
  let finite (x : Nat) : Prop := x / 2 ^ 23 % 2 ^ 8 ≠ 255
  let less (a b : Nat) : Prop := (fCmp 2 .fp32 FEnv.nearest a b).1 = true
  finite (g 0) ∧ finite (g 1) ∧ less (g 0) (g 1) ∧ finite (g 2) ∧ less 0 (g 2) ∧ g 5 = 0 ∧ g 6 = 0 ∧ g 7 = 0 ∧
    ∀ i < 64, g (11 + 4 * i) = 0

/-- A lane passes its checks on a page of this package, at a key as aligned as its address, where the data is clean (R222,
R228). -/
def LaneReads (s : State) (n : Nat) (x : LaneAcc) : Prop := ∃ k, x.out = .ok k ∧ k % n = 0 ∧ Clean s k n

/-- No earlier acquire or local atomic of the path is still to perform (R328). -/
def NoAcquire (s : State) (c : Ctx) : Prop := ∀ x ∈ (coreAt s c.r.core).txns, c.p.uid ∈ x.paths → x.acq = false

/-- No earlier atomic of the path is still to perform (R325). -/
def NoAtomic (s : State) (c : Ctx) : Prop := ∀ x ∈ (coreAt s c.r.core).txns, c.p.uid ∈ x.paths → x.kind = .atomic → x.perf = true

/-- No earlier atomic of the path that is still to perform acts on some bytes of this package, by location (R325). -/
def AtomsApart (s : State) (c : Ctx) (keys : List (Nat × Nat)) : Prop :=
  ∀ cl, ∀ q ∈ (clusterAt s cl).svc, ∀ txn a m, reqLoc cl q = some (c.r.core, txn, a, m) →
    (∃ x ∈ (coreAt s c.r.core).txns, x.id = txn ∧ c.p.uid ∈ x.paths ∧ x.kind = .atomic ∧ x.perf = false) →
    ∀ k ∈ keys, a + m ≤ k.1 ∨ k.1 + k.2 ≤ a

/-- Whether a train's slot holds its path still, gone on at an instruction, Active. -/
def WentOn (t : State) (c : Ctx) (p : Path) : Prop := pathAt t c.r = some p ∧ p.pc = c.nextPc ∧ p.pstate = .active

/-- A path's outstanding results after one more instruction (R141). -/
def aged (c : Ctx) : List Pending := c.p.pending.map fun q => { q with win := nextWindow q.win }

end Sys2Proof.Machine

/-- R62, R63, R123: REDUCE writes P(96) and SCAN each active lane's prefix, where no step raises an enabled exception; where
one does, the trap names the lanes that those steps cover and TRAPADDR holds every step's exceptions. R61, R62, R123:
REDUCE and SCAN with an integer operation combine the active lanes in force for each lane, and what they give is the plain
combination of those lanes' elements. -/
def Obligations.CombiningResults : Prop :=
  ((∀ f s c, Ready (.reduce f) s c →
     let x := c.prefixes [96]
     (x.2.1 = 0 → exec (.reduce f) s = .next (if subOf c.f = 1
       then writeS (charged (.reduce f) s c) c.r c.f.d.toNat (tyBits c.combTy == 64) (prefixAt x.1 96)
       else c.writeD (charged (.reduce f) s c) (tyBits c.combTy == 64) fun _ _ => prefixAt x.1 96)) ∧
     (x.2.1 ≠ 0 → exec (.reduce f) s = .next (takeTrap (charged (.reduce f) s c) c.r
       ⟨0x0C, x.2.1, c.p.pc, x.2.2.setWidth 64⟩))) ∧
   ∀ f s c, Ready (.scan f) s c →
     let n (l : Nat) : Nat := if subOf c.f = 1 then l else l + 1
     let x := c.prefixes (c.act.toList.map n)
     (x.2.1 = 0 → exec (.scan f) s = .next (c.writeD (charged (.scan f) s c) (tyBits c.combTy == 64) fun l _ =>
       prefixAt x.1 (n l))) ∧
     (x.2.1 ≠ 0 → exec (.scan f) s = .next (takeTrap (charged (.scan f) s c) c.r
       ⟨0x0C, x.2.1, c.p.pc, x.2.2.setWidth 64⟩))) ∧
  (∀ f s c, Ready (.reduce f) s c → c.f.x.toNat < 6 →
    exec (.reduce f) s = .next (if subOf c.f = 1
      then writeS (charged (.reduce f) s c) c.r c.f.d.toNat (tyBits (viewOf c.ty) == 64) (combineLanes c 96)
      else c.writeD (charged (.reduce f) s c) (tyBits (viewOf c.ty) == 64) fun _ _ => combineLanes c 96)) ∧
  ∀ f s c, Ready (.scan f) s c → c.f.x.toNat < 6 →
    exec (.scan f) s = .next (c.writeD (charged (.scan f) s c) (tyBits (viewOf c.ty) == 64) fun l _ =>
      combineLanes c (if subOf c.f = 1 then l else l + 1))

/-- R114, R115: an FTAB on an invalid bank gives canonical NaNs, one on another ASID's traps; TABLD of a good image leaves the
flip to its bank outstanding, of a misaligned one traps; which lanes that trap names is the model's choice (log entry 50). -/
def Obligations.TableResults : Prop :=
  (∀ f s c, Ready (.ftab f) s c →
    let k := coreAt s c.r.core
    let b := nth ActBank.reset k.actBanks k.actCur
    (b.valid = false → NoEnabled c (fun _ => excInv) →
      exec (.ftab f) s = .next (c.pendLanes (charged (.ftab f) s c) 1 (c.act.toList.map fun l =>
        (l, packElems (tyBits c.ty) fun _ => nanPat c.ty)))) ∧
    (b.valid = true → b.asid ≠ c.t.asid → c.act ≠ 0 →
      exec (.ftab f) s = .next (takeTrap (charged (.ftab f) s c) c.r ⟨0x07, c.act, c.p.pc, 0⟩))) ∧
  ∀ f s c, Ready (.tabld f) s c → tabldFlying s c.r.core = false → ftabBusy (coreAt s c.r.core) = false → NoAcquire s c → NoAtomic s c →
    (c.tabAddr.toNat % 32 ≠ 0 → 6 ≤ entriesFree s c.r → (∀ x ∈ tabWords s c, x.peer = false) → exec (.tabld f) s = .next (takeTrap (charged (.tabld f) s c) c.r
      ⟨0x05, c.issueLanes, c.p.pc, c.tabAddr⟩)) ∧
    (∀ keys : List Nat, c.tabAddr.toNat % 32 = 0 → 5 ≤ entriesFree s c.r → (tabWords s c).map (·.out) = keys.map LaneOut.ok →
      (∀ k ∈ keys, Clean s k 4 ∧ Unmoved s k 4) →
      let g (i : Nat) : Nat := memLe s.mem (nth 0 keys i) 4
      let w (i : Nat) : Word := BitVec.ofNat 32 (g i)
      ImageOk g →
      ∃ t p q, exec (.tabld f) s = .next t ∧ t.mem = s.mem ∧ WentOn t c p ∧ p.pending = aged c ++ [q] ∧
        q.win = windowOf c.f.x.toNat ∧ q.writes = [] ∧ q.awaiting = [] ∧ q.errs = [] ∧
        q.flip = some (.bank ⟨true, c.t.asid, w 0, w 1, w 2, w 3, w 4,
          (List.range 64).map fun i => (w (8 + 4 * i), w (9 + 4 * i), w (10 + 4 * i))⟩) ∧
        (coreAt t c.r.core).tabld = some q.id ∧ (coreAt t c.r.core).actBanks = (coreAt s c.r.core).actBanks ∧
        (coreAt t c.r.core).actCur = (coreAt s c.r.core).actCur)

/-! ## Loads and stores -/

namespace Sys2Proof.Machine

/-- A datum as a register takes it: sign-extended to 32 bits, or zero-extended (R226). -/
def datumRule (sx : Bool) (n x : Nat) : Nat := if sx ∧ n < 4 then (viewNum true (8 * n) x % 2 ^ 32).toNat else x

/-- The lanes of a load, its access size in bytes, its separately cached route, and whether it sign-extends (R220, R223, R226,
R247, R249, R422). -/
def loadRule (i : Instr) (s : State) (c : Ctx) : Option (List LaneAcc × Nat × Option Route × Bool) :=
  let sx := (subOf c.f).testBit 5
  match i with
  | .ld w _ => some (memLanes s c .read w.bytes (c.ea w.bytes), w.bytes, none, sx)
  | .ldt w _ => (match shardLanes s c .read w.bytes with
    | .lanes l => some (l, w.bytes, none, false)
    | .trapAll _ _ => none)
  | .ldc w _ => some (memLanes s c .route w.bytes (c.ea w.bytes), w.bytes, some .constant, sx)
  | .ldl w _ => if ldlBad c.ldlDesc.2.1 c.ldlDesc.2.2.2 then none
      else some (ldlLanes s c w.bytes, w.bytes, some .tile, sx)
  | _ => none

/-- Every read of a lane's bytes gives those that memory holds now: on the load-store route no write of them can still be
missed, on another route the cache holds what memory holds (R250, R329). -/
def ReadsNow (s : State) (c : Ctx) (g : Option Route) (l : List LaneAcc) (n : Nat) : Prop :=
  match g with
  | none => ∀ x ∈ l, ∀ k, x.out = .ok k → Unmoved s k n
  | some r => RouteFresh s c.r.core r

/-- The result of an instruction is outstanding in the window that X opens: these lanes' values for the registers of D
(R33, R141). Code 48 discards them. -/
def Outstanding (t : State) (c : Ctx) (n : Nat) (vals : List (Nat × Nat)) : Prop :=
  let regs := regsOf c.depth c.f.d.toNat (if n = 16 then 4 else if n = 8 then 2 else 1)
  ∃ p, WentOn t c p ∧ (regs = [] → p.pending = aged c) ∧
    (regs ≠ [] → ∃ q, p.pending = aged c ++ [q] ∧ q.pc = c.p.pc ∧ q.win = windowOf c.f.x.toNat ∧ q.dests = regs ∧
      q.awaiting = [] ∧ q.errs = [] ∧ q.flip = none ∧ q.writes = vals.flatMap fun (l, x) => regWrites regs l x)

/-- Every earlier access of the path has performed: what a release waits for (R328, R402, R407). -/
def EarlierDone (s : State) (c : Ctx) : Prop :=
  (∀ x ∈ (coreAt s c.r.core).txns, c.p.uid ∈ x.paths → x.perf = true ∨ x.kind = .engine ∨ x.kind = .store) ∧
  (∀ w ∈ s.outWrites, c.p.uid ∉ w.paths) ∧ ∀ e ∈ (coreAt s c.r.core).wc, c.p.uid ∉ e.paths

/-- Every earlier read and atomic of the path has performed: what a write access waits for (R327). -/
def ReadsDone (s : State) (c : Ctx) : Prop :=
  ∀ x ∈ (coreAt s c.r.core).txns, c.p.uid ∈ x.paths → x.perf = true ∨ (x.kind ≠ .load ∧ x.kind ≠ .atomic)

/-- A write access has no earlier read or atomic to wait for, a release nothing earlier at all (R327, R328). -/
def Released (s : State) (c : Ctx) : Prop := ReadsDone s c ∧ (c.od = 3 → EarlierDone s c)

/-- Everything that a FENCE waits for has performed (R332). -/
def AllPerformed (s : State) (c : Ctx) : Prop :=
  (∀ x ∈ (coreAt s c.r.core).txns, c.p.uid ∈ x.paths → x.perf = true ∨ x.kind = .engine) ∧
  (∀ w ∈ s.outWrites, c.p.uid ∉ w.paths) ∧ ∀ e ∈ (coreAt s c.r.core).wc, c.p.uid ∉ e.paths

/-- The bytes that a list of lanes stores to. -/
def Stores (l : List LaneAcc) (n a : Nat) : Prop := ∃ x ∈ l, ∃ k, x.out = .ok k ∧ k ≤ a ∧ a < k + n

/-- Memory after the lanes of a list have stored, in order: each byte is that of the last lane that covers it, every other
byte is as before. -/
def StoredIn (m m' : List Host.Cell) (l : List LaneAcc) (n : Nat) (data : Nat → List Byte) : Prop :=
  (∀ pre x post k, l = pre ++ x :: post → x.out = .ok k → ∀ j < n, ¬ Stores post n (k + j) →
    memRead m' (k + j) = nth 0 (data x.lane) j) ∧
  ∀ a, ¬ Stores l n a → memRead m' a = memRead m a

/-- The lanes of a store to memory and its access size (R223, R422). -/
def storeRule (i : Instr) (s : State) (c : Ctx) : Option (List LaneAcc × Nat) :=
  match i with
  | .st w _ => some (memLanes s c .write w.bytes (c.ea w.bytes), w.bytes)
  | .stt w _ => (match shardLanes s c .write w.bytes with | .lanes l => some (l, w.bytes) | .trapAll _ _ => none)
  | _ => none

/-- The registers of every lane, the scalars, and the trap registers of a train are those of another. -/
def SameTrain (t u : Train) : Prop :=
  u.lanes.map (fun l => (l.v, l.ring, l.preds, l.status)) = t.lanes.map (fun l => (l.v, l.ring, l.preds, l.status)) ∧
  u.scalars = t.scalars ∧ u.trapCause = t.trapCause ∧ u.trapPc = t.trapPc ∧ u.trapMask = t.trapMask ∧
  u.trapAddr = t.trapAddr ∧ u.winstack = t.winstack ∧ u.dbgctl = t.dbgctl ∧ u.retired = t.retired

/-- What the path of an instruction that is neither a transfer nor a mask write keeps: its mask, MODE, window base and
reconvergence ids; its train keeps its registers. -/
def KeepsPath (t : State) (c : Ctx) : Prop :=
  ∃ u p, trainAt t c.r.core c.r.slot = some u ∧ SameTrain c.t u ∧ WentOn t c p ∧ p.mask = c.p.mask ∧ p.mode = c.p.mode ∧
    p.wbase = c.p.wbase ∧ p.jids = c.p.jids

end Sys2Proof.Machine

/-- R33, R141, R223, R226, R247, R249, R422: a load whose lanes all pass on pages of this package, with clean data and free
entries, goes on with its lanes' data as its outstanding result. No memory and no register has changed. A lane outside an LDL's tile reads zero. R248: an LDI whose
lanes' headers and entries all pass, with clean data and free entries, goes on with the interpolated values as its
outstanding result. -/
def Obligations.LoadResults : Prop :=
  (∀ (i : Instr) s c l n g sx, loadRule i s c = some (l, n, g, sx) → Ready i s c → NoAcquire s c →
     AtomsApart s c (localKeys n l) → s.latent = [] →
     (∀ x ∈ l, x.out = .zero ∨ x.out = .idle ∨ LaneReads s n x) → ReadsNow s c g l n → needOf false l ≤ entriesFree s c.r →
     ∃ t, exec i s = .next t ∧ t.mem = s.mem ∧ KeepsPath t c ∧
       Outstanding t c n (l.map fun x => (x.lane, match x.out with | .ok k => datumRule sx n (memLe s.mem k n) | _ => 0))) ∧
  ∀ w f s c, Ready (.ldi w f) s c → s.latent = [] → RouteFresh s c.r.core .sampler →
    let xs := ldiLanes w s c
    (∀ x ∈ xs, x.bad = none ∧ LaneReads s 16 x.acc ∧
      ∀ o ∈ x.keys, ∀ k, o = some k → k % w.bytes = 0 ∧ Clean s k w.bytes) →
    lineCount (xs.flatMap LdiLane.lines) ≤ entriesFree s c.r →
    ∃ t, exec (.ldi w f) s = .next t ∧ t.mem = s.mem ∧ KeepsPath t c ∧
      Outstanding t c (max 4 w.bytes) (xs.map fun x => (x.acc.lane, ldiResult w ((subOf c.f).testBit 5) x.frac
        (x.keys.map fun o => match o with
          | some k => memBytes s.mem k w.bytes
          | none => List.replicate w.bytes 0)))

/-- R284, R286: an LDS whose lanes lie in the crew's allocation, aligned and unstashed, goes on with the scratchpad's bytes as
its outstanding result; an STS stores them there, and no memory changes. -/
def Obligations.ScratchpadResults : Prop :=
  (∀ w f s c, Ready (.lds w f) s c → NoAcquire s c →
    (coreAt s c.r.core).banksTo ≤ (clusterAt s (c.r.core / 6)).cycle.toNat →
    let cl := c.r.core / 6
    let base := (allocOf s cl c.t.crew).1
    AtomsApart s c (c.act.toList.map fun l => (scrKey cl (base + c.scrOff w.bytes l (c.lane l)), w.bytes)) →
    let size := (allocOf s cl c.t.crew).2
    (∀ l ∈ c.act.toList, c.scrOff w.bytes l (c.lane l) % w.bytes = 0 ∧ c.scrOff w.bytes l (c.lane l) + w.bytes ≤ size ∧
      chunkAt s cl c.t.crew (c.scrOff w.bytes l (c.lane l)) = none ∧
      Unmoved s (scrKey cl (base + c.scrOff w.bytes l (c.lane l))) w.bytes) →
    ∃ t, exec (.lds w f) s = .next t ∧ t.mem = s.mem ∧ t.clusters = s.clusters ∧ KeepsPath t c ∧
      Outstanding t c w.bytes (c.act.toList.map fun l => (l, datumRule ((subOf c.f).testBit 5) w.bytes
        (leNat ((List.range w.bytes).map fun j => scrByte s cl c.t.crew (base + c.scrOff w.bytes l (c.lane l) + j)))))) ∧
  ∀ w f s c, Ready (.sts w f) s c → NoAcquire s c → Released s c → c.r.core / 6 < s.clusters.length →
    (coreAt s c.r.core).banksTo ≤ (clusterAt s (c.r.core / 6)).cycle.toNat →
    let cl := c.r.core / 6
    let base := (allocOf s cl c.t.crew).1
    let size := (allocOf s cl c.t.crew).2
    let off (l : Nat) : Nat := c.scrOff w.bytes l (c.lane l)
    (∀ l ∈ c.act.toList, off l % w.bytes = 0 ∧ off l + w.bytes ≤ size ∧ chunkAt s cl c.t.crew (off l) = none) →
    ∃ t, exec (.sts w f) s = .next t ∧ t.mem = s.mem ∧ KeepsPath t c ∧
      (∀ pre l post, c.act.toList = pre ++ l :: post → ∀ j < w.bytes,
        (∀ k ∈ post, ¬ (off k ≤ off l + j ∧ off l + j < off k + w.bytes)) →
        scrByte t cl c.t.crew (base + off l + j) = nth 0 (c.dBytes w.bytes l) j) ∧
      ∀ a, (∀ l ∈ c.act.toList, ¬ (base + off l ≤ a ∧ a < base + off l + w.bytes)) →
        scrByte t cl c.t.crew a = scrByte s cl c.t.crew a

/-- R223, R225, R241, R243, R422: a store whose lanes all pass on pages of this package goes on with its lanes' bytes in
memory, later lanes' over earlier ones'; no other byte of memory changes, and no register. A lane on a page of policy ZERO
stores nothing. -/
def Obligations.StoreResults : Prop :=
  ∀ (i : Instr) s c l n, storeRule i s c = some (l, n) → Ready i s c → Memory.wf s.mem → NoAcquire s c → Released s c →
    s.latent = [] → (∀ x ∈ l, x.out = .zero ∨ ∃ k, x.out = .ok k) →
    (c.r.handler = true → ∀ x ∈ l, slotHeld s c x.ea n = false) → needOf true l ≤ entriesFree s c.r →
    ∃ t, exec i s = .next t ∧ StoredIn s.mem t.mem l n (c.dBytes n) ∧ KeepsPath t c

/-- R222, R224, R232, R174: a load or a store one of whose lanes fails a check traps after its charge, with no access made:
the cause and the address are the lowest failing lane's, the mask names the lanes that failed with that cause. -/
def Obligations.AccessTraps : Prop :=
  ∀ (i : Instr) w f s c l, ((i = .ld w f ∧ l = memLanes s c .read w.bytes (c.ea w.bytes) ∧ NoAtomic s c) ∨
      (i = .st w f ∧ l = memLanes s c .write w.bytes (c.ea w.bytes) ∧ Released s c)) → Ready i s c → NoAcquire s c →
    (∀ pre x post k, l = pre ++ x :: post → x.out = .trap k → (∀ y ∈ pre, ∀ j, y.out ≠ .trap j) →
      needOf (match i with | .st _ _ => true | _ => false) l ≤ entriesFree s c.r →
      exec i s = .next (takeTrap (walkLanes (charged i s c) c l) c.r
        ⟨k, LaneSet.ofPred fun n => l.any fun y => y.lane == n && y.out == .trap k, c.p.pc, x.ea⟩))

/-! ## Atomics, WAITADDR, fences and caches, the stash, barriers -/

namespace Sys2Proof.Machine

/-- What an atomic asks of the owners of its words: the access size, whether its address has a displacement, whether
nothing comes back, the registers of the reply, and each lane's operation code, b, c and draw (R300-R303). -/
def atomRule (i : Instr) (c : Ctx) : Option (Nat × Bool × Bool × List Reg × (Nat → AtomReq)) :=
  let n := if c.wide then 8 else 4
  let old := regsOf c.depth c.f.d.toNat (if c.wide then 2 else 1)
  let b (l : Nat) : Nat := c.v l (c.lane l) c.f.b c.wide
  match i with
  | .atom _ => some (n, true, false, old, fun l => ⟨subOf c.f / 4, n, b l, 0, (c.env l).draw 0⟩)
  | .red _ => some (n, true, true, [], fun l => ⟨subOf c.f / 4, n, b l, 0, (c.env l).draw 0⟩)
  | .cas _ => some (n, true, false, old, fun l => ⟨12, n, b l, c.vc l (c.lane l) c.wide, 0⟩)
  | .fxadd _ =>
      let nr := (subOf c.f).testBit 2
      some (8, false, nr, if nr then [] else [.pred c.f.d.toNat], fun l =>
        let x := b l % 2 ^ tyBits c.ty
        let y := convert c.ty .fx64 .nearest 0 c.scaleS true x
        if c.ty = .fx64 then ⟨13, 8, x, 0, 0⟩ else ⟨13, 8, y.1, if y.2 &&& excInv = 0 then 0 else 1, 0⟩)
  | _ => none

/-- The owner of an atomic's word, whether the word lies in the scratchpad, and its key there (R295, R300). -/
def atomHome (s : State) (c : Ctx) (k : Nat) : Nat × Bool × Nat :=
  if c.sp? then
    match chunkAt s (c.r.core / 6) c.t.crew k with
    | some ch => (c.r.core / 6, false, ch.key + (k - ch.off))
    | none => (c.r.core / 6, true, (allocOf s (c.r.core / 6) c.t.crew).1 + k)
  else (ownerOf s k, false, k)

/-- The request that a lane sends. -/
def atomSends (s : State) (c : Ctx) (id : Nat) (noReply : Bool) (dests : List Reg) (x : LaneAcc) (k : Nat) (q : AtomReq) :
    SvcReq :=
  .atomic (atomHome s c k).2.2 (atomHome s c k).2.1 q.op q.bytes c.ty.code (BitVec.ofNat 64 q.b) (BitVec.ofNat 64 q.c) 0
    (c.p.mode.toNat / 2 ^ 11 % 8) (c.p.mode.getLsbD 14) (BitVec.ofNat 24 q.draw) noReply c.t.asid
    (if noReply then none else some (c.r, id, x.lane, dests)) c.r.core id x.ea c.p.uid (if c.od = 0 then some x.lane else none)

/-- The request at a place of an owner's queue, none of its line before it, and no earlier lane of its sequenced instruction
in any queue (R296, R304). -/
def FirstOfLine (s : State) (cl i : Nat) (q : SvcReq) : Prop :=
  (clusterAt s cl).svc[i]? = some q ∧
  (∀ j < i, ∀ x, (clusterAt s cl).svc[j]? = some x → reqLine x ≠ reqLine q) ∧
  ∀ k ∈ s.clusters, ∀ x ∈ k.svc, earlierLane x q = false

/-- The word that a service train acts on. -/
def ownedWord (s : State) (cl : Nat) (scr : Bool) (k n : Nat) : Nat :=
  if scr then scrLe s cl (crewAt s cl k) k n else memLe s.mem k n

/-- A word of an owner's scratchpad, not below its crew's allocation, or one of memory that is unstashed and whose bytes are clean. -/
def OwnedClean (s : State) (cl : Nat) (scr : Bool) (k n : Nat) : Prop :=
  scr = true ∧ (allocOf s cl (crewAt s cl k)).1 ≤ k ∨ scr = false ∧ chunkOfKey s k = none ∧ Clean s k n

/-- Memory but for `n` bytes from a key on. -/
def SameMemBut (m m' : List Host.Cell) (k n : Nat) : Prop := ∀ a, a < k ∨ k + n ≤ a → memRead m' a = memRead m a

/-- The new value of a service train's operation on a word of `w` bits (R301-R303). -/
def serviceRule (op ty w old b c : Nat) : Nat :=
  let sg := tySigned (viewOf (ETy.ofCode ty))
  if op = 0 then (old + b) % 2 ^ w
  else if op = 1 then (if viewNum sg w b < viewNum sg w old then b else old)
  else if op = 2 then (if viewNum sg w old < viewNum sg w b then b else old)
  else if op = 3 then old &&& b
  else if op = 4 then old ||| b
  else if op = 5 then old ^^^ b
  else if op = 6 then b
  else if op = 7 then (if b ≤ old then 0 else old + 1)
  else if op = 8 then (if old = 0 ∨ b < old then b else old - 1)
  else if op = 12 then (if old = b then c else old)
  else (old + b) % 2 ^ w

/-- What the lane of an ATOM, CAS or FXADD receives (R302, R303). -/
def replyRule (op old : Nat) (b c : DWord) : Nat :=
  if op = 13 then
    let sum := viewNum true 64 old + viewNum true 64 b.toNat
    if sum < viewMin true 64 ∨ viewMax true 64 < sum ∨ c ≠ 0 then 1 else 0
  else old

/-- A path reads this in a scalar, or in a pair. -/
def ScalarReads (t : State) (r : PathRef) (d : Nat) (wide : Bool) (v : Nat) : Prop :=
  ∃ u p, trainAt t r.core r.slot = some u ∧ pathAt t r = some p ∧ rdS64 u p d wide = v

/-- A destination of scalars that are not the mask (R24). -/
def ScalarFits (c : Ctx) (d : Nat) (wide : Bool) : Prop := c.t.scalars.length = 64 ∧ d + (if wide then 2 else 1) ≤ 61

/-- The condition of a WAITADDR (R307). -/
def WaitMet (c : Ctx) (v : Nat) : Prop :=
  if (subOf c.f).testBit 0 then v = c.s c.f.b c.waW else v ≠ c.s c.f.b c.waW

/-- The pages of a SMAP and their keys: each passes the checks at its address (R290). -/
def SmapPages (s : State) (c : Ctx) (keys : List Nat) : Prop :=
  keys.length = c.stashN ∧ ∀ i k, keys[i]? = some k →
    canonical (c.stashVa + BitVec.ofNat 64 (4096 * i)) = true ∧
    leafCheck s c.priv .update 4096 (c.stashVa + BitVec.ofNat 64 (4096 * i))
      (xlate s c.r.core c.t.asid (c.stashVa + BitVec.ofNat 64 (4096 * i))) = .ok k ∧
    ∀ w bits, xlate s c.r.core c.t.asid (c.stashVa + BitVec.ofNat 64 (4096 * i)) = .leaf w bits → w.testBit 5 = false

/-- A barrier's train has no other live or deferred path, and its path's earlier accesses have performed (R312, R313). -/
def MayArrive (s : State) (c : Ctx) : Prop :=
  (livePaths c.t.paths).length ≤ 1 ∧ c.t.deferred = [] ∧ c.t.refills = [] ∧ EarlierDone s c

/-- The address and the key of a barrier's word: an aligned offset inside the crew's allocation, or a roster's word on a page
of this package that may be written (R311). -/
def BarWordAt (s : State) (c : Ctx) (roster : Bool) (ea : DWord) (k : Nat) : Prop :=
  if roster then rosterWord s c = some ea ∧ checkLane s c.r.core c.t.asid c.priv .write 8 ea = .ok k
  else ea = BitVec.ofNat 64 c.barOperand ∧ k = c.barOperand ∧ k % 8 = 0 ∧ k + 8 ≤ (allocOf s (c.r.core / 6) c.t.crew).2

/-- A path is parked with a stall reason and a wake condition. -/
def ParkedAt (t : State) (c : Ctx) (code : BitVec 5) (w : Wake) : Prop :=
  ∃ p, pathAt t c.r = some p ∧ p.pstate = .parked ∧ p.wake = some w ∧ p.stall = code ∧ p.pc = c.nextPc

/-- A path's wait is over (R40). -/
def Woken (p q : Path) : Prop := q.wake = none ∧ q.waitc = 0 ∧ (p.pstate = .parked → q.pstate = .active)

end Sys2Proof.Machine

/-- R302, R304, R246: an atomic whose lanes all pass on this package sends one request per lane, in lane order, to the owner
of its word; it holds its entries with no request performed yet, later accesses wait for it where it is sequenced or an acquire
(R328), and ATOM, CAS and FXADD await their replies. -/
def Obligations.AtomicIssue : Prop :=
  ∀ (i : Instr) s c n disp noReply dests req, atomRule i c = some (n, disp, noReply, dests, req) → Ready i s c →
    NoAcquire s c → Released s c → s.latent = [] →
    (c.sp? = true → (coreAt s c.r.core).banksTo ≤ (clusterAt s (c.r.core / 6)).cycle.toNat) →
    let l := atomLanes s c n disp
    (c.r.handler = true → c.sp? = false → ∀ x ∈ l, slotHeld s c x.ea n = false) →
    (∀ x ∈ l, ∃ k, x.out = .ok k ∧ (atomHome s c k).1 < s.clusters.length) →
    (c.sp? = true ∨ needOf false l ≤ entriesFree s c.r) →
    ∃ t id, exec i s = .next t ∧ t.mem = s.mem ∧ KeepsPath t c ∧
      (∀ cl, (clusterAt t cl).svc = (clusterAt s cl).svc ++ l.filterMap fun x => match x.out with
        | .ok k => if (atomHome s c k).1 = cl then some (atomSends s c id noReply dests x k (req x.lane)) else none
        | _ => none) ∧
      (l ≠ [] → ∃ x ∈ (coreAt t c.r.core).txns, x.id = id ∧ x.kind = .atomic ∧ x.perf = false ∧
        (x.acq = true ↔ c.od = 0 ∨ c.od = 2)) ∧
      ∃ p, WentOn t c p ∧
        (noReply = true ∨ (l = [] ∧ dests = []) → p.pending = aged c) ∧
        (noReply = false → l ≠ [] ∨ dests ≠ [] → ∃ q, p.pending = aged c ++ [q] ∧ q.id = id ∧ q.dests = dests ∧
          q.awaiting = l.map (·.lane) ∧ q.writes = [] ∧ q.errs = [])

/-- R298, R301-R303: a service train performs an atomic request in its turn: the word takes the new value, no other byte of
memory changes, and the requester's lane receives what its own request read, or V. -/
def Obligations.AtomicPerforms : Prop :=
  ∀ s cl i key scr op n ty b c sc rm ftz draw nr asid ret core txn va o ord,
    let q : SvcReq := .atomic key scr op n ty b c sc rm ftz draw nr asid ret core txn va o ord
    FirstOfLine s cl i q → cl < s.clusters.length → Memory.wf s.mem → OwnedClean s cl scr key n →
    (op ≤ 8 ∧ tyBits (viewOf (ETy.ofCode ty)) = 8 * n ∨ op = 12 ∨ op = 13 ∧ n = 8) → 0 < n → (op = 13 → nr = false) →
    let old := ownedWord s cl scr key n
    ∃ t, exec (.atomicRequest cl i none) s = .next t ∧
      ownedWord t cl scr key n = serviceRule op ty (8 * n) old (b.toNat % 2 ^ (8 * n)) (c.toNat % 2 ^ (8 * n)) ∧
      (if scr then t.mem = s.mem else SameMemBut s.mem t.mem key n) ∧
      (clusterAt t cl).svc = (clusterAt s cl).svc.eraseIdx i ∧
      ∀ r id lane dests p, ret = some (r, id, lane, dests) → pathAt s r = some p → ∃ p', pathAt t r = some p' ∧
        p'.pending = p.pending.map fun x => if x.id = id then { x with
          writes := x.writes ++ regWrites dests lane (replyRule op old b c),
          awaiting := x.awaiting.filter (· != lane) } else x

/-- R307: a WAITADDR on a word of this package goes on with the value in s[D] where its condition holds, else it parks and a
monitor of the word's line is armed; a write to the line lets it translate and read again, and a wait that goes on is for the
line where its word lies then. -/
def Obligations.WaitaddrResults : Prop :=
  (∀ f s c k, Ready (.waitaddr f) s c → NoAcquire s c → 1 ≤ entriesFree s c.r →
    checkLane s c.r.core c.t.asid c.priv .read c.waSize c.waVa = .ok k → Clean s k c.waSize →
    ownerCluster (k / 256 * 256) < s.clusters.length →
    let v := memLe s.mem k c.waSize
    let wake : Wake := .waitAddr c.waVa k (BitVec.ofNat 64 (c.s c.f.b c.waW)) c.waW ((subOf c.f).testBit 0)
      (if (subOf c.f).testBit 2 then some (s.time + c.s (ext0Of c.f).c false) else none) c.f.d.toNat c.act false false
    ∃ t, exec (.waitaddr f) s = .next t ∧ t.mem = s.mem ∧
      (WaitMet c v → ScalarFits c c.f.d.toNat c.waW →
        ScalarReads t c.r c.f.d.toNat c.waW v ∧ ∃ p, WentOn t c p) ∧
      (¬ WaitMet c v → ParkedAt t c 0x09 wake ∧
        (⟨k / 256, c.r⟩ : Monitor) ∈ (clusterAt t (ownerCluster (k / 256 * 256))).monitors)) ∧
  ∀ s r p u va pa k cmp wide eq d dst act hit lost, pathAt s r = some p → trainAt s r.core r.slot = some u →
    p.pstate = .parked → p.frozen = .none → p.wake = some (.waitAddr va pa cmp wide eq d dst act hit lost) →
    (∀ q ∈ s.remotes, q.use ≠ .waitAddr r) →
    checkLane s r.core u.asid r.handler .read (if wide then 8 else 4) va = .ok k → Clean s k (if wide then 8 else 4) →
    dst + (if wide then 2 else 1) ≤ 61 → ownerCluster (k / 256 * 256) < s.clusters.length →
    let v := memLe s.mem k (if wide then 8 else 4)
    let ends : Prop := lost = true ∨ ∃ x, d = some x ∧ x ≤ s.time
    let met : Prop := (BitVec.ofNat 64 v = cmp ↔ eq = true) ∨ ends
    (hit = true ∨ lost = true → ∃ t q, exec (.waitaddrWake r) s = .next t ∧ t.mem = s.mem ∧ pathAt t r = some q ∧
      (met → Woken p q ∧ (u.scalars.length = 64 → ScalarReads t r dst wide v)) ∧
      (¬ met → q.pstate = .parked ∧ q.wake = some (.waitAddr va k cmp wide eq d dst act false false) ∧
        (⟨k / 256, r⟩ : Monitor) ∈ (clusterAt t (ownerCluster (k / 256 * 256))).monitors)) ∧
    ∀ x, d = some x → x ≤ s.time → ∃ t q, exec (.waitaddrTimeout r) s = .next t ∧ t.mem = s.mem ∧
      pathAt t r = some q ∧ Woken p q

/-- R239, R251, R266, R332, R333: FENCE goes on once all has performed, or takes a failure report as trap 0x14 before its
charge; RFENCE drops the separately cached lines that its selector and scope name; OPFENCE covers the train's stores. That RFENCE at CORE scope drops the
whole cluster's sampler cache is the model's choice (log entry 58). -/
def Obligations.FenceResults : Prop :=
  (∀ f s c, Ready (.fence f) s c → AllPerformed s c →
    (c.act = 0 ∨ c.p.reports ++ c.t.reports = [] → exec (.fence f) s = .next (charged (.fence f) s c)) ∧
    ∀ x, c.act ≠ 0 → x ∈ c.p.reports ++ c.t.reports →
      (∀ y ∈ c.p.reports ++ c.t.reports, y ≠ x → x.peer < y.peer ∨ (x.peer = y.peer ∧ x.line < y.line)) →
      exec (.fence f) s = .next (takeTrap (modPath (modTrain { s with sel := none } c.r.core c.r.slot fun t =>
        { t with reports := [] }) c.r fun p => { p with reports := [] }) c.r
          ⟨0x14, c.act, c.p.pc, lossAddr x.line x.peer x.reason x.kind⟩)) ∧
  (∀ f s c, Ready (.rfence f) s c → AllPerformed s c →
    let sel (k : Nat) : Bool := (subOf c.f).testBit k
    let near (core : Nat) : Prop := c.sc = 1 ∧ core = c.r.core ∨ c.sc = 2 ∧ core / 6 = c.r.core / 6 ∨ c.sc ≠ 1 ∧ c.sc ≠ 2
    ∃ t, exec (.rfence f) s = .next t ∧ t.mem = s.mem ∧ KeepsPath t c ∧ ∀ n,
      (coreAt t n).icache = (if sel 0 = true ∧ near n then [] else (coreAt s n).icache) ∧
      (coreAt t n).constants = (if sel 1 = true ∧ near n then [] else (coreAt s n).constants) ∧
      (coreAt t n).tiles = (if sel 3 = true ∧ near n then [] else (coreAt s n).tiles) ∧
      (clusterAt t n).sampler = (if sel 2 = true ∧ (n = c.r.core / 6 ∨ c.sc ≠ 1 ∧ c.sc ≠ 2) then []
        else (clusterAt s n).sampler)) ∧
  ∀ f s c, Ready (.opfence f) s c →
    (∀ x ∈ (coreAt s c.r.core).txns, c.p.uid ∈ x.paths → x.perf = true ∨ (x.kind ≠ .store ∧ x.kind ≠ .atomic)) →
    ∃ t p, exec (.opfence f) s = .next t ∧ t.mem = s.mem ∧ KeepsPath t c ∧ (∀ cl, (clusterAt t cl).unfenced =
      (clusterAt s cl).unfenced.map fun x =>
        if x.writer = .store c.t.uid ∧ x.fence = none then { x with fence := some t.point } else x) ∧
      pathAt t c.r = some p ∧ ∃ n ≥ t.point, (c.t.uid, n) ∈ p.seen

/-- R239: a TLBI drops the held translations that it names in the cores of its scope, in their TLBs, kept tables and last-page
registers, and keeps every other; the paths of its ASID that are parked for a page there wake, at once where no access under way
may have used a dropped translation; else a shootdown is recorded, and they wake in a cluster cycle that finds those accesses
performed. Which accesses those are is the model's choice (log entry 97). -/
def Obligations.TlbiResults : Prop :=
  (∀ (i : Instr) f s c (asid : Option Nat) (va : Option DWord), Ready i s c → AllPerformed s c →
    (i = .tlbiPage f ∧ asid = some (c.s c.f.b false % 1024) ∧ va = some (BitVec.ofNat 64 (c.s c.f.a true)) ∨
      i = .tlbiAsid f ∧ asid = some (c.s c.f.b false % 1024) ∧ va = none ∨
      i = .tlbiAll f ∧ asid = none ∧ va = none) →
    let near (core : Nat) : Prop := c.sc = 1 ∧ core = c.r.core ∨ c.sc = 2 ∧ core / 6 = c.r.core / 6 ∨ c.sc ≠ 1 ∧ c.sc ≠ 2
    let hit (a : Nat) : Prop := ∀ n, asid = some n → a = n
    let page (bits vbase : Nat) : Prop := ∀ v, va = some v → v.toNat / 2 ^ bits = vbase
    let left := accessesOf (charged i s c) (coresIn s (inScope c.r.core c.sc)) asid
    ∃ t, exec i s = .next t ∧ t.mem = s.mem ∧ KeepsPath t c ∧
      (∀ n e, e ∈ (coreAt t n).tlb ↔ e ∈ (coreAt s n).tlb ∧ ¬ (near n ∧ hit e.asid ∧ page e.bits e.vbase)) ∧
      (∀ n e, e ∈ (coreAt t n).upper ↔ e ∈ (coreAt s n).upper ∧ ¬ (near n ∧ hit e.asid ∧ page (levelBits e.lvl) e.vbase)) ∧
      (∀ n j u ln e, near n → trainAt t n j = some u → ln ∈ u.lanes → ln.page = some e → ¬ (hit e.asid ∧ page e.bits e.vbase)) ∧
      (left = [] → t.shoots = s.shoots ∧ ∀ r u p w b, near r.core → r ≠ c.r → trainAt s r.core r.slot = some u → hit u.asid →
        pathAt s r = some p → p.wake = some (.pageFault w b) →
        ∃ q, pathAt t r = some q ∧ q.wake = some (.pageFault w true)) ∧
      (left ≠ [] → t.shoots = ⟨some c.r, asid, va, coresIn s (inScope c.r.core c.sc), left⟩ :: s.shoots)) ∧
  ∀ s die dt x, die < 4 → s.boot ≠ .off → x ∈ s.shoots → (∀ n ∈ x.left, n ∉ accessesOf s x.cores x.asid) →
    ∃ t, exec (.clusterCycle die dt) s = .next t ∧ t.mem = s.mem ∧ x ∉ t.shoots ∧
      ∀ r u p w b, r.core ∈ x.cores → trainAt s r.core r.slot = some u → (∀ n, x.asid = some n → u.asid = n) →
        pathAt s r = some p → p.wake = some (.pageFault w b) → ∃ q, pathAt t r = some q ∧ q.wake = some (.pageFault w true)

/-- R243, R252, R253: PREF changes no memory and no register, and with `.LLC` posts a hint of each line that finds an entry;
CACHEOP.WB leaves no masked byte of its lines in the core's L1, CACHEOP.EVICT no part of them, and neither changes a value;
CACHEOP.ZERO stores zeros over each lane's line alone, and clears its poison, in the core's own copies too. -/
def Obligations.CacheResults : Prop :=
  (∀ f s c, Ready (.pref f) s c → s.latent = [] → ∃ t, exec (.pref f) s = .next t ∧ t.mem = s.mem ∧ KeepsPath t c ∧
    (subOf c.f / 8 % 4 = 1 → ∀ line ∈ (prefLines s c).take (entriesFree s c.r), homeDie (256 * line) < s.dies.length →
      (line, s.time) ∈ (dieAt t (homeDie (256 * line))).hints)) ∧
  (∀ (i : Instr) f s c, (i = .cacheopWb f ∨ i = .cacheopEvict f) → Ready i s c → s.latent = [] →
    ∃ t, exec i s = .next t ∧ t.mem = s.mem ∧ KeepsPath t c ∧ ∀ x ∈ memLanes s c .read 1 (c.ea 4), ∀ k, x.out = .ok k →
      ∀ m ∈ t.l1, m.core = c.r.core → m.granule / 4 = k / 256 → i = .cacheopWb f ∧ m.mask = 0) ∧
  ∀ f s c, Ready (.cacheopZero f) s c → Memory.wf s.mem → NoAcquire s c → Released s c →
    let l := memLanes s c .write 1 (c.ea 4)
    let zeroed (a : Nat) : Prop := ∃ x ∈ l, ∃ k, x.out = .ok k ∧ a / 256 = k / 256
    s.latent = [] → (∀ x ∈ l, ∃ k, x.out = .ok k) →
    (c.r.handler = true → ∀ x ∈ l, slotHeld s c (x.ea &&& ~~~(255 : DWord)) 256 = false) →
    needOf true l ≤ entriesFree s c.r → (∀ x ∈ l, ∀ y ∈ l, ∀ k j, x.out = .ok k → y.out = .ok j →
      (x.ea.toNat / 256 = y.ea.toNat / 256 ↔ k / 256 = j / 256)) →
    ∃ t, exec (.cacheopZero f) s = .next t ∧ KeepsPath t c ∧
      (∀ a, zeroed a → memRead t.mem a = 0) ∧ (∀ a, ¬ zeroed a → memRead t.mem a = memRead s.mem a) ∧
      (∀ g, g ∈ t.poison → ¬ ∃ x ∈ l, ∃ k, x.out = .ok k ∧ g / 4 = k / 256) ∧
      ∀ y ∈ t.l1, y.core = c.r.core → (∃ x ∈ l, ∃ k, x.out = .ok k ∧ y.granule / 4 = k / 256) → y.poison = false

/-- R290, R293: SMAP maps its pages' chunks at its offsets, none filled or masked; SUNMAP of one chunk unmaps it and leaves in
the scratchpad the global bytes that it had filled or masked. -/
def Obligations.StashResults : Prop :=
  (∀ f s c keys, Ready (.smap f) s c → NoAcquire s c → s.latent = [] → c.r.core / 6 < s.clusters.length →
    let cl := c.r.core / 6
    1 ≤ c.stashN → c.stashN ≤ 256 → c.stashOff % 4096 = 0 → c.stashVa.toNat % 4096 = 0 →
    (∀ i < c.stashN, c.stashOff + 4096 * i + 4096 ≤ (allocOf s cl c.t.crew).2 ∧
      chunkAt s cl c.t.crew (c.stashOff + 4096 * i) = none) →
    (clusterAt s cl).stash.length + c.stashN ≤ 256 → SmapPages s c keys → keys.Nodup →
    (∀ k ∈ keys, chunkOfKey s k = none) →
    ∃ t, exec (.smap f) s = .next t ∧ t.mem = s.mem ∧ KeepsPath t c ∧
      (clusterAt t cl).stash = (clusterAt s cl).stash ++ keys.mapIdx fun i k =>
        ⟨c.t.crew, c.stashOff + 4096 * i, c.stashVa + BitVec.ofNat 64 (4096 * i), k, 0, []⟩) ∧
  ∀ f s c ch, Ready (.sunmap f) s c → NoAcquire s c → c.r.core / 6 < s.clusters.length →
    let cl : Nat := c.r.core / 6
    let base := (allocOf s cl c.t.crew).1 + c.stashOff
    c.stashN = 1 → c.stashOff % 4096 = 0 → chunkAt s cl c.t.crew c.stashOff = some ch → ch.off = c.stashOff →
    s.latent = [] →
    ∃ t, exec (.sunmap f) s = .next t ∧ t.mem = s.mem ∧ KeepsPath t c ∧
      (∀ x ∈ (clusterAt t cl).stash, ¬ (x.crew = c.t.crew ∧ x.off = c.stashOff)) ∧
      ∀ i < 4096, ch.filled.getLsbD (i / 256) = true ∨ i ∈ ch.masked →
        scrByte t cl c.t.crew (base + i) = memRead s.mem (ch.key + i)

/-- R311, R312: a barrier arrival is queued at the owner of its word and the path waits for its token; a wait on a phase that
has moved on goes on, else it parks; on a partial mask every barrier traps before issue, with no charge. -/
def Obligations.BarrierResults : Prop :=
  ∀ (i : Instr) f s c roster, Ready i s c → s.latent = [] →
    (∀ dst wait, (i = .bararv f ∧ roster = false ∧ dst = some c.f.d.toNat ∧ wait = false ∨
        i = .rbarArv f ∧ roster = true ∧ dst = some c.f.d.toNat ∧ wait = false ∨
        i = .barsync f ∧ roster = false ∧ dst = none ∧ wait = true ∨
        i = .rbarSync f ∧ roster = true ∧ dst = none ∧ wait = true) →
      ∀ ea k, MayArrive s c → BarWordAt s c roster ea k → (barHome roster s c k).1 < s.clusters.length →
      let home := barHome roster s c k
      ∃ t, exec i s = .next t ∧ t.mem = s.mem ∧ ParkedAt t c 0x08 (.arrive home.2.1 ea dst wait home.2.2 roster) ∧
        (clusterAt t home.1).svc = (clusterAt s home.1).svc ++ [.arrive home.2.1 home.2.2 c.r]) ∧
    ((i = .barwt f ∧ roster = false ∨ i = .rbarWt f ∧ roster = true) →
      ∀ ea k, MayArrive s c → BarWordAt s c roster ea k →
      let home := barHome roster s c k
      let token := c.s c.f.b false % 2 ^ 16
      ∃ t, exec i s = .next t ∧ t.mem = s.mem ∧
        (barWord s home.1 c.t.crew home.2.2 home.2.1 / 2 ^ 32 % 2 ^ 16 ≠ token → ∃ p, WentOn t c p) ∧
        (barWord s home.1 c.t.crew home.2.2 home.2.1 / 2 ^ 32 % 2 ^ 16 = token →
          ParkedAt t c 0x08 (.barrier home.2.1 ea token home.2.2 roster))) ∧
    ((i = .bararv f ∨ i = .barwt f ∨ i = .barsync f) →
      1 < (livePaths c.t.paths).length ∨ c.t.deferred ≠ [] ∨ c.t.refills ≠ [] →
      exec i s = .next (takeTrap { s with sel := none } c.r ⟨0x04, c.p.mask, c.p.pc, BitVec.ofNat 64 c.barOperand⟩)) ∧
    (∀ ea, (i = .rbarSync f ∨ i = .rbarArv f ∨ i = .rbarWt f) → rosterWord s c = some ea →
      1 < (livePaths c.t.paths).length ∨ c.t.deferred ≠ [] ∨ c.t.refills ≠ [] →
      exec i s = .next (takeTrap { s with sel := none } c.r ⟨0x04, c.p.mask, c.p.pc, ea⟩))

/-- R311: an arrival counts; the last of a phase resets COUNT, advances PHASE and wakes every path that waits on the word; the
arriving path takes the phase as its token, or waits with it. -/
def Obligations.BarrierArrival : Prop :=
  ∀ s cl i key scr r p u addr dst wait ros, FirstOfLine s cl i (.arrive key scr r) → cl < s.clusters.length →
    Memory.wf s.mem → OwnedClean s cl scr key 8 → pathAt s r = some p → trainAt s r.core r.slot = some u →
    p.wake = some (.arrive key addr dst wait scr ros) → (∀ d, dst = some d → d < 61) →
    let w := ownedWord s cl scr key 8
    let count := w % 2 ^ 16
    let expect := w / 2 ^ 16 % 2 ^ 16
    let phase := w / 2 ^ 32 % 2 ^ 16
    expect ≠ 0 → count < expect → w / 2 ^ 48 = 0 →
    let last : Prop := count + 1 = expect
    ∃ t q, exec (.barrierArrive cl i) s = .next t ∧ pathAt t r = some q ∧
      (last → ownedWord t cl scr key 8 = expect * 2 ^ 16 + (phase + 1) % 2 ^ 16 * 2 ^ 32) ∧
      (¬ last → ownedWord t cl scr key 8 = w + 1) ∧
      (if scr then t.mem = s.mem else SameMemBut s.mem t.mem key 8) ∧
      (wait = true → ¬ last → q.pstate = p.pstate ∧ q.wake = some (.barrier key addr phase scr ros)) ∧
      (wait = false ∨ last → Woken p q) ∧
      (∀ d, dst = some d → u.scalars.length = 64 → ScalarReads t r d false phase) ∧
      (last → ∀ r' p' a tok ros', r' ≠ r → r'.core ∈ waiterCores cl scr → pathAt s r' = some p' →
        p'.wake = some (.barrier key a tok scr ros') → ∃ q', pathAt t r' = some q' ∧ Woken p' q')

/-- R271, R272: the update of a completion object adds to DONE, counts errors without overflow, and names the first failure;
no other byte of memory changes where no path waits on the object. A waiting CWAIT whose object, translated again, is then
satisfied returns. -/
def Obligations.CompletionUpdates : Prop :=
  ∀ s cl i key add errs cause addr asid know, FirstOfLine s cl i (.complete key add errs cause addr asid know) →
    cl < s.clusters.length → Memory.wf s.mem → Clean s key 32 →
    let done := (memLe s.mem key 8 + add) % 2 ^ 64
    let old := memLe s.mem (key + 16) 4
    (findPaths s (List.range 288) (waitsOn key) = [] →
      ∃ t, exec (.completionObjectUpdate cl i) s = .next t ∧ SameMemBut s.mem t.mem key 32 ∧
        memLe t.mem key 8 = done ∧ memLe t.mem (key + 8) 8 = memLe s.mem (key + 8) 8 ∧
        memLe t.mem (key + 16) 4 = (if errs = 0 then old else min (old + errs) (2 ^ 32 - 1)) ∧
        memLe t.mem (key + 20) 1 = (if errs ≠ 0 ∧ old = 0 then cause % 2 ^ 8 else memLe s.mem (key + 20) 1) ∧
        memLe t.mem (key + 24) 8 = (if errs ≠ 0 ∧ old = 0 then addr.toNat else memLe s.mem (key + 24) 8)) ∧
    ∀ r p u act va, findPaths s (List.range 288) (waitsOn key) = [r] → pathAt s r = some p →
      trainAt s r.core r.slot = some u → p.wake = some (.cwait key act va) → u.engFail = none →
      ∃ m, exec (.completionObjectUpdate cl i) s = .next (recheckObj m r) ∧ memLe m.mem key 8 = done ∧ m.latent = [] ∧
        (keyNow m r u.asid va key = key → ∃ q, pathAt (recheckObj m r) r = some q ∧
          (memLe s.mem (key + 8) 8 ≤ done → Woken p q) ∧
          (done < memLe s.mem (key + 8) 8 → q.pstate = p.pstate ∧ q.wake = p.wake))

/-! ## Engines, near-memory commands, lists and launches -/

namespace Sys2Proof.Machine

/-- A completion object that passes its check, with its key; or none named (R271). -/
def ObjPasses (s : State) (c : Ctx) (o : Option DWord) (key : Option Nat) : Prop :=
  (o = none ∧ key = none) ∨ ∃ ea k, o = some ea ∧ key = some k ∧ canonical ea = true ∧ ea.toNat % 32 = 0 ∧
    leafCheck s c.priv .write 32 ea (xlate s c.r.core c.t.asid ea) = .ok k

/-- Rows of `n` bytes at a base and a stride lie in the offsets 0 to `size`. -/
def RowsInside (base : Nat) (stride : Int) (rows n size : Nat) : Prop :=
  n = 0 ∨ ∀ i < rows, 0 ≤ base + stride * i ∧ base + stride * i + n ≤ size

/-- A descriptor that the table of R259 accepts: offsets and pitches of what is used, zero words elsewhere. -/
def DescOk (c : Ctx) (a b sa sb q : Bool) (len : Nat) : Prop :=
  let g (n : Nat) : Nat := (nth 0 c.desc8 n).toNat
  (if a then g 0 % 16 = 0 ∧ g 1 % 16 = 0 ∧ len ≤ g 1 else g 0 = 0 ∧ g 1 = 0) ∧
  (if b then g 2 % 16 = 0 ∧ g 3 % 16 = 0 ∧ len ≤ g 3 else g 2 = 0 ∧ g 3 = 0) ∧
  (if sa then g 4 % 8 = 0 else g 4 = 0) ∧ (if sb then g 5 % 8 = 0 else g 5 = 0) ∧
  (if q then g 6 < 8 else g 6 = 0) ∧ g 7 = 0

/-- The operands of an MMA or MMAG lie where they must: the rows of A and their scales, the 128 columns of B and theirs
(R260, R279). -/
def OperandsInside (s : State) (c : Ctx) (a sa sb q : Bool) (len : Nat) : Prop :=
  let g (n : Nat) : Nat := (nth 0 c.desc8 n).toNat
  let size := (allocOf s (c.r.core / 6) c.t.crew).2
  (a = true → ∀ l ∈ c.act.toList, g 0 + l * g 1 + len ≤ size ∧ (sa = true → g 4 + 8 * l + 8 ≤ size)) ∧
  (sb = true → g 5 + 1024 ≤ size) ∧
  (q = false → g 2 + 127 * g 3 + len ≤ size) ∧
  (q = true → ∃ b, nth none (clusterAt s (c.r.core / 6)).bufs (g 6 % 8) = some b ∧ b.crew = c.t.crew ∧ b.tix = c.t.tix ∧
    g 2 + 127 * g 3 + len ≤ b.size)

/-- The rows that an ACCRD writes or an ACCWR reads: offset and pitch in a scalar pair (R270). -/
def AccRowsOk (s : State) (c : Ctx) (code len : Nat) : Prop :=
  let off := (rdS c.t c.p code).toNat
  let pitch := (rdS c.t c.p (code + 1)).toNat
  off % 16 = 0 ∧ pitch % 16 = 0 ∧ len ≤ pitch ∧
    ∀ l ∈ c.act.toList, off + l * pitch + len ≤ (allocOf s (c.r.core / 6) c.t.crew).2

/-- The offset and pitch of a scalar pair. -/
def rowWords (c : Ctx) (code : Nat) : List Word := [rdS c.t c.p code, rdS c.t c.p (code + 1)]

/-- What a matrix-queue instruction asks for: its kind, accumulator, descriptor words and object, and what its own checks
need (R257-R261, R270). -/
def matrixRule (i : Instr) (s : State) (c : Ctx) : Option (MatKind × Nat × List Word × Option DWord × Prop) :=
  let x := c.f.x.toNat
  let bit (n : Nat) : Bool := (subOf c.f).testBit n
  let obj : Option DWord := if bit 3 then some (BitVec.ofNat 64 (c.s c.f.a true)) else none
  let d := c.f.d.toNat
  let lenOf (x : Nat) : Nat := if x = 7 then 64 else 128
  match i with
  | .mma _ => some (.mma x (bit 0) (bit 1) (bit 2), d, c.desc8, obj,
      (x = 7 → d % 2 = 0) ∧ DescOk c (!bit 1) true (x == 6 && !bit 1) (x == 6) (bit 2) (lenOf x) ∧
        OperandsInside s c (!bit 1) (x == 6) (x == 6) (bit 2) (lenOf x))
  | .mmag _ => some (.mmag x (bit 0) (bit 2), d, c.desc8, obj,
      (x = 7 → d % 2 = 0) ∧ DescOk c true true (x == 6) (x == 6) (bit 2) (lenOf x) ∧
        OperandsInside s c false false (x == 6) (bit 2) (lenOf x))
  | .gather _ => some (.gather x, 0, c.desc8, none, DescOk c true false (x == 2) false false (if x = 1 then 64 else 128))
  | .accrd _ => some (.accrd x (if c.p.mode.toNat / 2 ^ 11 % 8 = 5 then 0 else c.p.mode.toNat / 2 ^ 11 % 8) c.satOn,
      c.f.a.toNat, rowWords c d, none,
      AccRowsOk s c d (if x = 0 then 512 else if x = 1 ∨ x = 2 then 256 else if x = 3 ∨ x = 4 then 128 else 1024))
  | .accwrLoad _ => some (.accwr 0, d, rowWords c c.f.a.toNat, none, AccRowsOk s c c.f.a.toNat 512)
  | .accwrLoad64 _ => some (.accwr 1, d, rowWords c c.f.a.toNat, none, AccRowsOk s c c.f.a.toNat 1024)
  | .accwrZero _ => some (.accwr 2, d, [], none, True)
  | .accwrFree _ => some (.accwr 3, d, [], none, True)
  | _ => none

/-- The arguments of a copy: bytes of a row, rows, and the strides (R273). -/
def copyRule (i : Instr) (c : Ctx) : Option (Nat × Nat × Int × Int) :=
  let g (k : Nat) : Nat := (rdS c.t c.p (c.f.b.toNat + k)).toNat
  match i with
  | .cpy _ => some (c.s c.f.b false, 1, 0, 0)
  | .cpyx _ => if g 0 ≤ 2 ^ 24 ∧ g 1 < 65536 then some (g 0, g 1, viewNum true 32 (g 2), viewNum true 32 (g 3)) else none
  | _ => none

/-- The operations of a train in its cluster's matrix queues. -/
def ownMats (s : State) (c : Ctx) : List MatOp :=
  ((clusterAt s (c.r.core / 6)).pairs.flatMap (·.queue)).filter fun o => o.train == c.t.uid

/-- An operation as though it had not asked for its grant. -/
def unasked (o : MatOp) : MatOp := { o with waiting := false }

/-- The accumulators that an operation names: a pair for FP64 (R257, R258, R270). -/
def namesAcc (o : MatOp) (n : Nat) : Prop :=
  match o.kind with
  | .gather _ => False
  | .mma f _ _ _ | .mmag f _ _ => o.acc = n ∨ (f = 7 ∧ o.acc + 1 = n)
  | .accrd x _ _ => o.acc = n ∨ (x = 5 ∧ o.acc + 1 = n)
  | .accwr x => o.acc = n ∨ (x = 1 ∧ o.acc + 1 = n)

/-- The appends of the active lanes of a WLPUSH, in lane order: the lanes that had room, and the state (R358). -/
def pushLanes (c : Ctx) : List Nat → State → (Nat → Bool) × State
  | [], s => (fun _ => false, s)
  | l :: rest, s =>
    let one := appendItem s (c.listId l) (BitVec.ofNat 64 (c.v l (c.lane l) c.f.b true))
    let more := pushLanes c rest one.2
    (fun k => (k == l && one.1) || more.1 k, more.2)

/-- No item of an ASID is on a list, no lane holds one, and no accepted notify waits (R360). -/
def NoWork (s : State) (asid : Nat) : Prop :=
  (∀ l ∈ s.lists, l.asid = asid → l.tail = l.head) ∧
  (∀ k ∈ s.cores, ∀ t, some t ∈ k.slots → t.asid = asid → ∀ ln ∈ t.lanes, ln.hold = none) ∧
  (∀ x ∈ s.saved, x.crew.asid = asid → ∀ t ∈ x.trains, ∀ ln ∈ t.lanes, ln.hold = none) ∧
  ∀ n ∈ s.notifies, n.ok = true → n.asid ≠ asid

/-- The holds of a path's lanes have ended (R359). -/
def holdsEnded (s : State) (c : Ctx) : State :=
  modTrain s c.r.core c.r.slot fun t => { t with lanes := mapLanes t.lanes c.p.mask fun _ ln => { ln with hold := none } }

end Sys2Proof.Machine

/-- R254-R262, R270: a matrix-queue instruction of a leader core that passes its checks enters its pair's queue behind the
operations there, with its active set, accumulator, descriptor and object, not yet started; a follower's traps. -/
def Obligations.MatrixIssue : Prop :=
  ∀ (i : Instr) s c kind acc desc obj (ok : Prop), matrixRule i s c = some (kind, acc, desc, obj, ok) → Ready i s c → s.latent = [] → ok →
    let cl := c.r.core / 6
    let pr := c.r.core % 6 / 2
    (c.r.core % 2 = 0 → ∀ key, ObjPasses s c obj key → 1 ≤ entriesFree s c.r → cl < s.clusters.length →
      pr < (clusterAt s cl).pairs.length →
      ∃ t o q, exec i s = .next t ∧ t.mem = s.mem ∧ KeepsPath t c ∧
        nth [] ((clusterAt t cl).pairs.map (·.queue)) pr = q ++ [o] ∧
        q.map unasked = (nth [] ((clusterAt s cl).pairs.map (·.queue)) pr).map unasked ∧
        o.kind = kind ∧ o.acc = acc ∧ o.desc = desc ∧ o.obj = key ∧ o.act = c.act ∧ o.train = c.t.uid ∧
        o.crew = c.t.crew ∧ o.asid = c.t.asid ∧ o.started = false ∧ o.granted = false ∧
        ∃ x ∈ (coreAt t c.r.core).txns, x.id = o.txn ∧ x.kind = .engine ∧ x.entries = 1) ∧
    (c.r.core % 2 = 1 → exec i s = .next (takeTrap { s with sel := none } c.r ⟨0x07, c.p.mask, c.p.pc, decodeAddr c i 0⟩))

/-- R255, R273, R274, R278: a copy that passes its checks enters its cluster's copy queue; one of no bytes that is no push
completes at once; QBIND binds a buffer of empty slots, and QFREE marks it freed. -/
def Obligations.CopyIssue : Prop :=
  (∀ (i : Instr) s c n rows ss ds key, copyRule i c = some (n, rows, ss, ds) → Ready i s c → s.latent = [] →
    let cl := c.r.core / 6
    let size := (allocOf s cl c.t.crew).2
    let bit (k : Nat) : Bool := c.f.x.toNat.testBit k
    let obj : Option DWord := if bit 2 then some (BitVec.ofNat 64 (c.s (ext0Of c.f).c true)) else none
    (bit 1 = true → RowsInside (c.copySrc % 2 ^ 32) ss rows n size) →
    (bit 0 = true → RowsInside (c.copyDst % 2 ^ 32) ds rows n size) →
    (bit 3 = true → c.copyDst < 8 ∧ ∃ b, nth none (clusterAt s cl).bufs c.copyDst = some b ∧ b.freed = false ∧
      b.crew = c.t.crew ∧ rows * n ≤ b.size ∧ RowsInside 0 ds rows n b.size) →
    ObjPasses s c obj key → 1 ≤ entriesFree s c.r → cl < s.clusters.length →
    (rows * n ≠ 0 ∨ bit 3 = true → ∃ t o, exec i s = .next t ∧ t.mem = s.mem ∧ KeepsPath t c ∧
      (clusterAt t cl).copies = (clusterAt s cl).copies ++ [o] ∧ o.rowBytes = n ∧ o.rows = rows ∧ o.sstride = ss ∧
      o.dstride = ds ∧ o.dScr = bit 0 ∧ o.sScr = bit 1 ∧ o.obj = key ∧ o.asid = c.t.asid ∧ o.train = c.t.uid ∧
      o.src = (if bit 1 then BitVec.ofNat 64 (c.copySrc % 2 ^ 32) else BitVec.ofNat 64 c.copySrc) ∧
      (bit 3 = false → o.queue = none ∧
        o.dst = if bit 0 then BitVec.ofNat 64 (c.copyDst % 2 ^ 32) else BitVec.ofNat 64 c.copyDst) ∧
      (bit 3 = true → o.queue = some c.copyDst ∧ o.dst = 0) ∧ o.started = false ∧ o.failed = none) ∧
    (rows * n = 0 → bit 3 = false → ∃ t, exec i s = .next t ∧ t.mem = s.mem ∧ KeepsPath t c ∧
      (clusterAt t cl).copies = (clusterAt s cl).copies ∧ ∀ k, key = some k → ownerOf s k < s.clusters.length →
        (clusterAt t (ownerOf s k)).svc = (clusterAt s (ownerOf s k)).svc ++ [.complete k 1 0 0 0 c.t.asid c.p.seen])) ∧
  (∀ f s c, Ready (.qbind f) s c → 1 ≤ entriesFree s c.r →
    let cl := c.r.core / 6
    let base := c.s c.f.a false
    let g := c.s c.f.b false
    let size := g % 256 * 256
    let slots := g / 256 % 256
    nth none (clusterAt s cl).bufs c.f.x.toNat = none → base % 256 = 0 → g < 65536 → size ≠ 0 → size ≤ 32768 → 2 ≤ slots →
    slots ≤ 64 → base + slots * size ≤ (allocOf s cl c.t.crew).2 →
    exec (.qbind f) s = .next (modCluster (charged (.qbind f) s c) cl fun k => { k with
      bufs := updAt k.bufs c.f.x.toNat fun _ =>
        some ⟨c.t.crew, c.t.tix, base, BitVec.ofNat 32 g, size, 0, 0, List.replicate slots .empty, [], false⟩ })) ∧
  ∀ f s c b, Ready (.qfree f) s c → 1 ≤ entriesFree s c.r → nth none (clusterAt s (c.r.core / 6)).bufs c.f.x.toNat = some b → b.crew = c.t.crew →
    b.tix = c.t.tix →
    exec (.qfree f) s = .next (modCluster (charged (.qfree f) s c) (c.r.core / 6) fun k => { k with
      bufs := updAt k.bufs c.f.x.toNat (Option.map fun b => { b with freed := true }) })

/-- R268, R269, R271, R276: MWAIT and CWAIT.ALL go on where none of the operations they wait for is left, and park for those
that are; CWAIT goes on where its object is satisfied, else it parks; CTEST reads 1 or 0. -/
def Obligations.EngineWaitResults : Prop :=
  (∀ (i : Instr) f s c (ops : List Nat) w, Ready i s c →
    (i = .mwait f ∧ (∀ n, n ∈ ops ↔ ∃ o ∈ ownMats s c, o.id = n ∧ namesAcc o c.f.d.toNat) ∧ w = Wake.mwait ops c.act ∨
      i = .mwaitAll f ∧ ops = (ownMats s c).map (·.id) ∧ w = .mwait ops c.act ∨
      i = .cwaitAll f ∧ ops = (((clusterAt s (c.r.core / 6)).copies.filter fun o => o.train == c.t.uid).map (·.id)) ∧
        w = .cwaitAll ops c.act) →
    (ops = [] → c.t.engFail = none → ∃ t, exec i s = .next t ∧ t.mem = s.mem ∧ KeepsPath t c) ∧
    (∀ cause addr, ops = [] → c.t.engFail = some (cause, addr) → exec i s = .next (takeTrap (modPath (modTrain
      (charged i s c) c.r.core c.r.slot fun t => { t with engFail := none }) c.r fun p =>
        { wakePath (charged i s c).point p with learn := [] }) c.r
        ⟨cause, if c.act = 0 then c.p.mask else c.act, c.p.pc, addr⟩)) ∧
    (ops ≠ [] → (∀ g, i ≠ .mwait g) → ∃ t, exec i s = .next t ∧ t.mem = s.mem ∧ ParkedAt t c 0x0A w) ∧
    (ops ≠ [] → i = .mwait f → ∃ t l, exec i s = .next t ∧ t.mem = s.mem ∧ ParkedAt t c 0x0A (.mwait l c.act) ∧
      ∀ n, n ∈ l ↔ n ∈ ops)) ∧
  (∀ f s c k, Ready (.cwait f) s c → NoAcquire s c → ObjectAt s c c.waitObj k → ∃ t, exec (.cwait f) s = .next t ∧
    t.mem = s.mem ∧ (Satisfied s k → c.t.engFail = none → KeepsPath t c) ∧
    (¬ Satisfied s k → ParkedAt t c 0x0A (.cwait k c.act c.waitObj))) ∧
  ∀ f s c k, Ready (.ctest f) s c → NoAcquire s c → ObjectAt s c c.waitObj k → ScalarFits c c.f.d.toNat false →
    ∃ t p, exec (.ctest f) s = .next t ∧ t.mem = s.mem ∧ WentOn t c p ∧
      (Satisfied s k → ScalarReads t c.r c.f.d.toNat false 1) ∧ (¬ Satisfied s k → ScalarReads t c.r c.f.d.toNat false 0)

/-- R371, R372, R375: NMC posts its command with every element left to do; NMFENCE goes on once the path's commands are
complete and all has performed. -/
def Obligations.NearMemoryIssue : Prop :=
  (∀ f s c key, Ready (.nmc f) s c → s.latent = [] →
    let w (k : Nat) : Word := rdS c.t c.p ((ext0Of c.f).c.toNat + k)
    let dst : DWord := w 1 ++ w 0
    let src : DWord := w 3 ++ w 2
    w 7 = 0 → (c.f.x = 0 → src = 0) → w 4 ≠ 0 → (w 4).toNat ≤ 2 ^ 24 → dst.toNat % 4 = 0 → src.toNat % 4 = 0 →
    ObjPasses s c (if (subOf c.f).testBit 0 then some (BitVec.ofNat 64 (c.s c.f.a true)) else none) key →
    1 ≤ entriesFree s c.r →
    ∃ t q, exec (.nmc f) s = .next t ∧ t.mem = s.mem ∧ KeepsPath t c ∧ t.nmcs = s.nmcs ++ [q] ∧ q.op = c.f.x.toNat ∧
      q.ty = c.ty.code ∧ q.dst = dst ∧ q.src = src ∧ q.count = (w 4).toNat ∧ q.alpha = w 5 ∧ q.beta = w 6 ∧ q.obj = key ∧
      q.left = List.range (w 4).toNat ∧ q.failed = none ∧ q.train = c.t.uid ∧ q.asid = c.t.asid) ∧
  ∀ f s c, Ready (.nmfence f) s c → AllPerformed s c → (∀ q ∈ s.nmcs, c.p.uid ∉ q.paths) →
    (c.act = 0 ∨ c.p.reports ++ c.t.reports = []) → c.t.engFail = none →
    ∃ t, exec (.nmfence f) s = .next t ∧ t.mem = s.mem ∧ KeepsPath t c

/-- R357-R361: WLPUSH appends lane by lane and its predicate tells which lanes had room; WLPOP gives a lane the oldest item of
its list; WLPOP.DONE and QUIESCE end the lanes' holds, and QUIESCE reads whether the ASID has any work left. R358: an
append to a list with room puts the item at TAIL and moves TAIL on; a full list is unchanged. -/
def Obligations.WorkListResults : Prop :=
  ((∀ f s c, Ready (.wlpush f) s c → AllPerformed s c →
     (∀ l ∈ c.act.toList, ∃ x, listAt s (c.listId l) = some x ∧ x.asid = c.t.asid) →
     let done := pushLanes c c.act.toList (charged (.wlpush f) s c)
     exec (.wlpush f) s = .next (c.writeP done.2 fun l _ => done.1 l)) ∧
   (∀ f s c l x, Ready (.wlpop f) s c → c.act.toList = [l] → listAt s (c.listId l) = some x → x.asid = c.t.asid →
     ∀ ln, c.t.lanes[l]? = some ln → x.head ≠ x.tail →
       ∃ t p u ln', exec (.wlpop f) s = .next t ∧ t.mem = s.mem ∧ WentOn t c p ∧
         listAt t (c.listId l) = some { x with head := x.head + 1 } ∧ trainAt t c.r.core c.r.slot = some u ∧
         u.lanes[l]? = some ln' ∧ ln'.hold = some (c.listId l) ∧
         (subOf c.f < 64 → predOf ln' (subOf c.f) = true) ∧
         let item := memLe s.mem (x.ring + 8 * (x.head % 2 ^ x.k)) 8
         (ln.v.length = 16 → ln.ring.length = 104 →
           (∀ r, regOfCode c.depth c.f.d.toNat = some r → laneReg ln' r = BitVec.ofNat 32 item) ∧
           ∀ r, c.f.d.toNat < 48 → regOfCode c.depth (c.f.d.toNat + 1) = some r →
             laneReg ln' r = BitVec.ofNat 32 (item / 2 ^ 32))) ∧
   (∀ f s c, Ready (.wlpop f) s c → (∀ l ∈ c.act.toList, ∃ x, listAt s (c.listId l) = some x ∧ x.asid = c.t.asid ∧
       x.head = x.tail) →
     ∃ t, exec (.wlpop f) s = .next t ∧ t.mem = s.mem ∧ t.lists = s.lists ∧
       (c.f.x.toNat.testBit 1 = false ∨ NoWork (holdsEnded s c) c.t.asid → ∃ p, WentOn t c p) ∧
       (c.f.x.toNat.testBit 1 = true → ¬ NoWork (holdsEnded s c) c.t.asid → ParkedAt t c 0x15
         (.wlpop (c.act.toList.map fun l => (l, c.listId l)) c.f.d.toNat (subOf c.f)))) ∧
   (∀ f s c, Ready (.wlpopDone f) s c → exec (.wlpopDone f) s = .next (holdsEnded (charged (.wlpopDone f) s c) c)) ∧
   (∀ f s c, Ready (.quiesce f) s c → ∃ t, exec (.quiesce f) s = .next t ∧ t.mem = s.mem ∧
     (NoWork (holdsEnded s c) c.t.asid → ScalarFits c c.f.d.toNat false →
       ScalarReads t c.r c.f.d.toNat false 1 ∧ ∃ p, WentOn t c p) ∧
     (¬ NoWork (holdsEnded s c) c.t.asid → ParkedAt t c 0x15 (.quiesce c.f.d.toNat))) ∧
   ∀ f s c, Ready (.quiesceTest f) s c → ScalarFits c c.f.d.toNat false →
     ∃ t p, exec (.quiesceTest f) s = .next t ∧ t.mem = s.mem ∧ WentOn t c p ∧
       (NoWork (holdsEnded s c) c.t.asid → ScalarReads t c.r c.f.d.toNat false 1) ∧
       (¬ NoWork (holdsEnded s c) c.t.asid → ScalarReads t c.r c.f.d.toNat false 0)) ∧
  ∀ s id item l, listAt s id = some l → Memory.wf s.mem →
    (l.tail - l.head < 2 ^ l.k → Clean s (l.ring + 8 * (l.tail % 2 ^ l.k)) 8 →
      (appendItem s id item).1 = true ∧
      memLe (appendItem s id item).2.mem (l.ring + 8 * (l.tail % 2 ^ l.k)) 8 = item.toNat ∧
      SameMemBut s.mem (appendItem s id item).2.mem (l.ring + 8 * (l.tail % 2 ^ l.k)) 8 ∧
      listAt (appendItem s id item).2 id = some { l with tail := l.tail + 1 } ∧
      ∀ other, other ≠ id → listAt (appendItem s id item).2 other = listAt s other) ∧
    (2 ^ l.k ≤ l.tail - l.head → appendItem s id item = (false, s))

/-- R343-R346: a LAUNCH whose packet is good enters the pending-launch table with it; without the LAUNCH right it takes cause
0x03 before issue. -/
def Obligations.LaunchResults : Prop :=
  (∀ f s c p, Ready (.launch f) s c → ctxLaunch s c.t.asid = true → AllPerformed s c → c.packet s = .ok p →
    (s.launches.filter fun l => !l.freed).length < 256 →
    ∃ t l, exec (.launch f) s = .next t ∧ t.mem = s.mem ∧ KeepsPath t c ∧ t.launches = s.launches ++ [l] ∧ l.pk = p ∧
      l.next = 0 ∧ l.ready = none ∧ l.freed = false) ∧
  ∀ f s c, Ready (.launch f) s c → ctxLaunch s c.t.asid = false →
    exec (.launch f) s = .next (takeTrap { s with sel := none } c.r
      ⟨0x03, c.p.mask, c.p.pc, decodeAddr c (.launch f) 0⟩)

/-! ## Tokens, shard versions, the fabric and groups -/

namespace Sys2Proof.Machine

/-- The reservation that is left after an instruction's own charge (R209). -/
def leftResv (s : State) (c : Ctx) : Option Reservation :=
  (coreAt s c.r.core).resv.filter fun v => !(v.slot == c.r.slot && v.entry == c.r.entry && v.handler == c.r.handler)

/-- What TOKQ and CURQ write: whether a pair, and the value (R210). -/
def tokenRule (i : Instr) (s : State) (c : Ctx) : Option (Bool × Nat) :=
  let k := coreAt s c.r.core
  let cl := clusterAt s (c.r.core / 6)
  let mine (r : PathRef) : Bool := r.core == c.r.core
  let grants := ((cl.pairs.flatMap (·.queue)).filter fun o => o.granted && mine o.who).length +
    (cl.copies.filter fun o => o.granted && mine o.who).length
  match i with
  | .tokqBal _ => some (false, k.balance - priceOf i c.ty - dueCharge (charged i s c) c.r.core)
  | .tokqRate _ => some (false, k.allot)
  | .tokqChg _ => some (true, (c.t.charged + BitVec.ofNat 64 (priceOf i c.ty)).toNat +
      (if (transferDue (charged i s c) c.r.core).any (·.who.slot == c.r.slot) then framePrice else 0))
  | .tokqRsv _ => some (false, match leftResv s c with
      | some v => v.amount % 2 ^ 21 + v.entry % 8 * 2 ^ 21 + v.slot % 16 * 2 ^ 24 + 2 ^ 31
      | none => 0)
  | .curq _ => some (false, k.band % 4 + (if k.raising then 4 else 0) + min grants 255 * 2 ^ 8 + min k.renewIn 511 * 2 ^ 16)
  | _ => none

/-- A binding of an ASID older than a version, counted modulo 2^32 (R425). -/
def OlderBinding (asid : Nat) (v : Word) (b : Nat × Word) : Prop := b.1 = asid ∧ b.2 ≠ v ∧ (v - b.2).toNat < 2 ^ 31

/-- An LDT or STT lane that was bound before a version has not performed (R425). -/
def OldLanes (s : State) (asid : Nat) (v : Word) : Prop :=
  (∃ k ∈ s.cores, ∃ x ∈ k.txns, x.perf = false ∧ ∃ b, x.shver = some b ∧ OlderBinding asid v b) ∨
  ∃ w ∈ s.outWrites, ∃ b, w.shver = some b ∧ OlderBinding asid v b

/-- A lane's bytes towards a peer, at an offset of its line that its size divides. -/
def PeerLane (n peer line : Nat) (x : LaneAcc) : Prop :=
  ∃ pa kill, x.out = .peer peer pa kill ∧ pa / 256 = line ∧ pa % n = 0

/-- Whether a lane of a notify store covers a byte of its line. -/
def CoversByte (n i : Nat) (x : LaneAcc) : Prop :=
  match x.out with
  | .peer _ pa _ => pa % 256 ≤ i ∧ i < pa % 256 + n
  | _ => False

/-- The group that a group word names for the path's ASID, inside its view (R426, R427, R440). -/
def MemberOf (s : State) (c : Ctx) (g : Group) : Prop :=
  c.groupWord < 4096 ∧ groupAt s c.groupWord = some g ∧ g.asid = c.t.asid ∧ (g.view = .stable ∨ g.view = .changing)

/-- What VIEWQ reads (R439). -/
def viewqRule (i : Instr) (s : State) (c : Ctx) : Option Nat :=
  let w := c.groupWord
  let field (off n : Nat) : Nat := memLe s.mem (ctlBase + 0xF10000 + 64 * w + off) n
  let seen : Option Group := (groupAt s w).filter fun g => g.view == .stable || g.view == .changing
  match i with
  | .viewqTag _ => some (match seen with
      | some g => g.tag % 2 ^ 16 + (g.live.filter fun b => b).length % 2 ^ 16 * 2 ^ 16
      | none => 0)
  | .viewqState _ => some ((match groupAt s w with
      | some g => (match g.view with | .unbound => 0 | .stable => 1 | .changing => 2 | .joining => 3)
      | none => 0) + field 8 1 % 4 * 4 + field 2 2 % 2 ^ 12 * 16 + field 0 2 * 2 ^ 16)
  | .viewqLive _ => some (match seen with
      | some g => if c.s c.f.a false < 128 then bitSum 32 fun j => nth false g.live (32 * c.s c.f.a false + j) else 0
      | none => 0)
  | .viewqSeq _ => some (match groupAt s w with | some g => g.seq | none => 0)
  | _ => none

/-- The operands of a COLL pass: alignment and whole granules of 32 bits, the count, the root (R428, R429). -/
def CollArgs (c : Ctx) (m : Nat) : Prop :=
  let bits := tyBits c.ty
  let n := c.collCount * bits
  let al := max 4 (bits / 8)
  c.collKind = 4 ∨ (c.collSend % al = 0 ∧ c.collRecv % al = 0 ∧ n % 32 = 0 ∧ (c.collKind = 1 ∨ c.collKind = 2 → m * n % 32 = 0) ∧
    1 ≤ c.collCount ∧ c.collCount ≤ 2 ^ 24 ∧ if c.collKind = 3 then c.collRoot < m else c.collRoot = 0)

/-- The bytes that a member sends: none for `.BAR`, and for `.BC` none but the root's (R428). -/
def collBytes (c : Ctx) (g : Group) : Nat :=
  if c.collKind < 3 ∨ (c.collKind = 3 ∧ c.collRoot = g.rank) then
    (if c.collKind = 1 then g.m else 1) * c.collCount * tyBits c.ty / 8
  else 0

/-- Every form of an entry that the core may use for the ASID is the one that a walk from the root finds now (R238). -/
def XlateCurrent (s : State) (c : Ctx) : Prop :=
  ∀ va x, x ∈ xlatForms s c.r.core none c.t.asid va → x = walkOf s (some c.r.core) c.t.asid va

/-- No granule is poisoned or about to be, at home or in a copy (R228, R240). -/
def NoErrors (s : State) : Prop := s.poison = [] ∧ s.latent = [] ∧ ∀ x ∈ s.l1, x.poison = false

/-- A packet has left through a port, or waits last there for its die's bucket (R362). -/
def Leaves (s t : State) (port flits : Nat) (m : OutMsg) : Prop :=
  (t.outbox = s.outbox ++ [m] ∧ t.portQ = s.portQ) ∨ (t.outbox = s.outbox ∧ t.portQ = s.portQ ++ [(port, flits, m)])

/-- A packet leaves through a port that may send: its die's bucket stands above the floor and no packet waits there; else it
waits (R362). -/
def LeavesBy (s t : State) (port flits : Nat) (m : OutMsg) : Prop :=
  let may : Prop := unitPaid s (port / 4) = true ∧ ∀ x ∈ s.portQ, x.1 ≠ port
  (may → t.outbox = s.outbox ++ [m] ∧ t.portQ = s.portQ) ∧
  (¬ may → t.outbox = s.outbox ∧ t.portQ = s.portQ ++ [(port, flits, m)])

/-- What a group's message does at the port of its depot group: it leaves there; nothing leaves a port that has failed (R362, R397,
R426, R434). -/
def GroupLeaves (s t : State) (g : Group) (flits : Nat) (m : OutMsg) : Prop :=
  let port := groupPort s g.dgrp
  ((nth ⟨false, 0, false⟩ s.ports port).failed = false → LeavesBy s t port flits m) ∧
  ((nth ⟨false, 0, false⟩ s.ports port).failed = true → t.outbox = s.outbox ∧ t.portQ = s.portQ)

/-- The receive buffer of a COLL meets no fault and no page of a peer (R430). -/
def RecvMeets (s : State) (c : Ctx) (g : Group) : Prop :=
  c.collKind = 4 ∨ ∀ i < (if c.collKind = 2 then g.m else 1) * c.collCount * tyBits c.ty / 8,
    let out := checkLane s c.r.core c.t.asid false .write 1 (BitVec.ofNat 64 c.collRecv + BitVec.ofNat 64 i)
    (∀ cause, out ≠ .trap cause) ∧ ∀ id pa kill, out ≠ .peer id pa kill

/-- The bytes of a COLL's receive buffer that can be written lie at these keys (R428, R430). -/
def RecvAt (s : State) (c : Ctx) (g : Group) (a : Nat) : Prop :=
  c.collKind ≠ 4 ∧ ∃ i < (if c.collKind = 2 then g.m else 1) * c.collCount * tyBits c.ty / 8,
    checkLane s c.r.core c.t.asid false .write 1 (BitVec.ofNat 64 c.collRecv + BitVec.ofNat 64 i) = .ok a

/-- No translation of the ASID reads a byte of the receive buffer. -/
def RecvApart (s : State) (c : Ctx) (g : Group) : Prop :=
  ∀ m va, (∀ a, ¬ RecvAt s c g a → memRead m a = memRead s.mem a) →
    walkOf { s with mem := m } (some c.r.core) c.t.asid va = walkOf s (some c.r.core) c.t.asid va

/-- The keys of a send buffer's bytes, each of a readable page of this package with good data. -/
def SendKeys (s : State) (c : Ctx) (n : Nat) (keys : List Nat) : Prop :=
  keys.length = n ∧ ∀ i k, keys[i]? = some k →
    checkLane s c.r.core c.t.asid false .read 1 (BitVec.ofNat 64 c.collSend + BitVec.ofNat 64 i) = .ok k ∧ Clean s k 1

end Sys2Proof.Machine

/-- R210, R423, R425: TOKQ and CURQ write the core's and the train's counts after their own charge; SHSYNC.PUB publishes a
shard table and moves SHARDVER on; SHSYNC.WAIT goes on with it once no older binding is unperformed. R379, R380, R444,
R445: an INTENT that the governor may take is held, of more than eight the one with the earliest TS is given up; others
are dropped without effect. INTENT.G leaves for its group. -/
def Obligations.TokenAndShardResults : Prop :=
  ((∀ (i : Instr) s c x, tokenRule i s c = some x → Ready i s c →
     exec i s = .next (writeS (charged i s c) c.r c.f.d.toNat x.1 x.2)) ∧
   (∀ f s c, Ready (.shsyncPub f) s c → AllPerformed s c → Memory.wf s.mem → s.latent = [] → c.s c.f.a true % 4096 = 0 →
     c.s c.f.b false ≤ 4096 → ScalarFits c c.f.d.toNat false →
     let dir := ctlBase + 0xF01000 + 16 * c.t.asid
     ∃ t, exec (.shsyncPub f) s = .next t ∧ memLe t.mem dir 8 = c.s c.f.a true ∧
       memLe t.mem (dir + 8) 2 = c.s c.f.b false ∧ SameMemBut s.mem t.mem dir 10 ∧
       shardVerOf t c.t.asid = shardVerOf s c.t.asid + 1 ∧ (∀ a, a ≠ c.t.asid → shardVerOf t a = shardVerOf s a) ∧
       ScalarReads t c.r c.f.d.toNat false (shardVerOf s c.t.asid + 1).toNat ∧ ∃ p, WentOn t c p) ∧
   ∀ f s c, Ready (.shsyncWait f) s c → ScalarFits c c.f.d.toNat false →
     let v := shardVerOf s c.t.asid
     (∀ k ∈ s.cores, ∀ e ∈ k.wc, ∀ b ∈ e.shver, ¬ OlderBinding c.t.asid v b) →
     ∃ t, exec (.shsyncWait f) s = .next t ∧ t.mem = s.mem ∧
       (¬ OldLanes s c.t.asid v → ScalarReads t c.r c.f.d.toNat false v.toNat ∧ ∃ p, WentOn t c p) ∧
       (OldLanes s c.t.asid v → ParkedAt t c 0x05 (.shsync v c.f.d.toNat))) ∧
  (∀ f s c, Ready (.intent f) s c → c.s c.f.b false < 2 ^ 16 →
    let ts := c.s c.f.a true
    let watts := c.s c.f.b false
    let held := s.intents.filter fun x => decide ((s.time : Int) ≤ x.start + 20000)
    let takes : Prop := s.rampset.getLsbD 28 = true ∧ watts ≤ 4 * (s.rampset.toNat / 2 ^ 8 % 2 ^ 10) ∧ s.time + 1000 ≤ ts ∧
      ts ≤ s.time + 10000000
    ∃ t, exec (.intent f) s = .next t ∧ t.mem = s.mem ∧ KeepsPath t c ∧
      (¬ takes → t.intents = s.intents) ∧
      (takes → (∃ x ∈ held, x.src = s.pkgId ∧ x.ts = ts ∧ x.watts = watts) → t.intents = held) ∧
      (takes → (∀ x ∈ held, ¬ (x.src = s.pkgId ∧ x.ts = ts ∧ x.watts = watts)) → held.length < 8 →
        t.intents = held ++ [⟨s.pkgId, ts, ts, watts⟩]) ∧
      (takes → (∀ x ∈ held, ¬ (x.src = s.pkgId ∧ x.ts = ts ∧ x.watts = watts)) → held.length = 8 →
        let all : List Intent := held ++ [⟨s.pkgId, ts, ts, watts⟩]
        ∃ x ∈ all, (∀ y ∈ all, x.ts ≤ y.ts) ∧ t.intents = all.erase x)) ∧
  ∀ f s c g, Ready (.intentG f) s c → c.s c.f.b false < 2 ^ 16 → c.intentGroup < 4096 →
    groupAt s c.intentGroup = some g → g.asid = c.t.asid →
    ∃ t, exec (.intentG f) s = .next t ∧ t.mem = s.mem ∧ t.intents = s.intents ∧ KeepsPath t c ∧
      GroupLeaves s t g 1
        (.intentG c.intentGroup (BitVec.ofNat 64 (c.s c.f.a true)) (c.s c.f.b false))

/-- R412-R417: an STN whose lanes all reach peers goes on with no memory changed; of one line it sends one packet, marked
last, with the lanes' bytes, the list and the tag. An MCST with nothing to wait for sends its source line to its group. -/
def Obligations.NotifyAndMulticast : Prop :=
  (∀ f s c, Ready (.stn f) s c → NoAcquire s c → ReadsDone s c → s.latent = [] → (∀ e ∈ (coreAt s c.r.core).wc, c.p.uid ∉ e.paths) →
    let l := memLanes s c .write c.stnSize c.stnEa
    (∀ x ∈ l, ∃ id pa kill, x.out = .peer id pa kill) →
    ∃ t, exec (.stn f) s = .next t ∧ t.mem = s.mem ∧ KeepsPath t c ∧
      ∀ peer line, l ≠ [] → (∀ x ∈ l, PeerLane c.stnSize peer line x) → routeLost s peer = false →
        ∃ id mask data, Leaves s t (routePort s peer) (1 + sectorsOf mask)
            (.notify peer (routePort s peer) id id line mask data (c.stnLit % 4096) (c.stnLit / 2 ^ 16) true) ∧
          (∀ i < 256, mask.getLsbD i = true ↔ ∃ x ∈ l, CoversByte c.stnSize i x) ∧
          ∀ pre x post pa kill, l = pre ++ x :: post → x.out = .peer peer pa kill → ∀ j < c.stnSize,
            (∀ y ∈ post, ¬ CoversByte c.stnSize (pa % 256 + j) y) →
            nth 0 data (pa % 256 + j) = nth 0 (c.dBytes c.stnSize x.lane) j) ∧
  ∀ f s c k key w, Ready (.mcst f) s c → NoAcquire s c →
    let g := c.s c.f.b false
    c.block.toNat % 64 = 0 → ObjPasses s c (some c.block) key →
    checkLane s c.r.core c.t.asid c.priv .read 256 c.mcSrc = .ok k → Clean s k 256 → (s.groupRoutes.find? fun x => x.1 == g) = some (g, w) →
    g < 4096 → w.getLsbD 8 = true → (nth ⟨false, 0, false⟩ s.ports (w.toNat % 16)).failed = false →
    c.priv = false → pendingAccesses s c = [] → XlateCurrent s c →
    ∃ t id l o, exec (.mcst f) s = .next t ∧ t.mem = s.mem ∧ KeepsPath t c ∧
      Leaves s t (w.toNat % 16) 5 (.multicast g (w.toNat % 16) id (c.s (ext0Of c.f).c false) (memBytes s.mem k 256)) ∧
      t.mcsts = l ++ [o] ∧ o.id = id ∧ o.sent = true ∧ o.block = c.block ∧ o.obj = key ∧ o.group = g

/-- R426-R430, R441, R438-R440: a COLL that passes its checks is started in a Stable group and sends its bytes, and waits in a
Changing one; of memory only its receive bytes may change. An FBAR parks in its phase, and the last arrival sends the package's;
one that would start a phase while a JOIN waits is counted after it. VIEWQ reads the group's view; VJOIN asks to join a view that
the package is outside of. That FBAR checks its mask before its group, that VJOIN checks no ASID and VIEWQ an entry that is not
valid, and the flits that views and arrivals draw, are the model's choices (log entries 28 and 64). -/
def Obligations.GroupResults : Prop :=
  (∀ (i : Instr) f s c g key, i ∈ [.collAr f, .collRs f, .collAg f, .collBc f, .collBar f] → Ready i s c →
    MemberOf s c g → CollArgs c g.m → c.block.toNat % 64 = 0 → ObjPasses s c (some c.block) key → g.colls.length < 16 →
    1 ≤ entriesFree s c.r → Memory.wf s.mem → NoErrors s → XlateCurrent s c →
    (g.view = .changing → (∀ x ∈ g.colls, x.result = none) → ∃ t o g', exec i s = .next t ∧
      (∀ a, ¬ RecvAt s c g a → memRead t.mem a = memRead s.mem a) ∧ KeepsPath t c ∧ t.outbox = s.outbox ∧ groupAt t c.groupWord = some g' ∧ g'.colls = g.colls ++ [o] ∧ o.started = false ∧ o.obj = key ∧
      o.kind = c.collKind ∧ g'.seq = g.seq) ∧
    (g.view = .stable → g.joiner = none → g.colls = [] → pendingAccesses s c = [] → RecvApart s c g →
      RecvMeets s c g → ∀ keys, SendKeys s c (collBytes c g) keys → (∀ k ∈ keys, ¬ RecvAt s c g k) → ∃ t o g', exec i s = .next t ∧
        (∀ a, ¬ RecvAt s c g a → memRead t.mem a = memRead s.mem a) ∧ KeepsPath t c ∧ groupAt t c.groupWord = some g' ∧ g'.colls = [o] ∧ g'.seq = (g.seq + 1) % 2 ^ 32 ∧ o.started = true ∧
        o.sent = true ∧ o.seq = g.seq ∧ o.tag = g.tag ∧ o.obj = key ∧ o.block = c.block ∧ o.failed = none ∧
        ((nth ⟨false, 0, false⟩ s.ports (groupPort s g.dgrp)).failed = false →
         Leaves s t (groupPort s g.dgrp) (1 + (keys.length + 63) / 64) (.contribution g.id g.seq g.tag ⟨g.m, c.collKind,
          c.collRed, if c.collKind = 4 then 0 else c.ty.code, if c.collKind = 4 then 0 else c.collCount,
          if c.collKind = 3 then c.collRoot else 0, keys.map (memRead s.mem), false⟩)))) ∧
  (∀ f s c g, Ready (.fbar f) s c → MemberOf s c g → EarlierDone s c → (livePaths c.t.paths).length ≤ 1 →
    c.t.deferred = [] → c.t.refills = [] →
    ∃ t g', exec (.fbar f) s = .next t ∧ t.mem = s.mem ∧ ParkedAt t c 0x08 (.fbar c.groupWord g.arrPhase) ∧
      groupAt t c.groupWord = some g' ∧
      (g.joiner ≠ none → g.arrivals = 0 → g'.arrivals = 0 ∧ g'.held = g.held + 1 ∧ g'.arrPhase = g.arrPhase ∧
        t.outbox = s.outbox ∧ t.portQ = s.portQ) ∧
      (g.joiner = none ∨ g.arrivals ≠ 0 → g'.held = g.held ∧
        (g.arrivals + 1 < g.fbexp → g'.arrivals = g.arrivals + 1 ∧ g'.arrPhase = g.arrPhase ∧ t.outbox = s.outbox) ∧
        (g.fbexp ≤ g.arrivals + 1 → g'.arrivals = 0 ∧ g'.arrPhase = (g.arrPhase + 1) % 2 ^ 16 ∧
          (g.view = .stable → GroupLeaves s t g 0 (.fbarArrival c.groupWord g.tag)) ∧
          (g.view ≠ .stable → t.outbox = s.outbox ∧ t.portQ = s.portQ)))) ∧
  (∀ f s c, Ready (.fbar f) s c → 1 < (livePaths c.t.paths).length ∨ c.t.deferred ≠ [] ∨ c.t.refills ≠ [] →
    exec (.fbar f) s = .next (takeTrap { s with sel := none } c.r
      ⟨0x04, c.p.mask, c.p.pc, BitVec.ofNat 64 (c.groupWord % 4096)⟩)) ∧
  (∀ (i : Instr) s c v, viewqRule i s c = some v → Ready i s c → c.groupWord < 4096 →
    memLe s.mem (ctlBase + 0xF10000 + 64 * c.groupWord + 4) 2 = c.t.asid →
    ∃ t p q, exec i s = .next t ∧ t.mem = s.mem ∧ WentOn t c p ∧ p.pending = aged c ++ [q] ∧
      q.win = windowOf c.f.x.toNat ∧ q.dests = [.scalar c.f.d.toNat] ∧ q.awaiting = [] ∧ q.errs = [] ∧
      q.writes = [⟨.scalar c.f.d.toNat, 0, BitVec.ofNat 32 v⟩]) ∧
  ∀ f s c, Ready (.vjoin f) s c → c.groupWord < 4096 →
    (∀ g, groupAt s c.groupWord = some g → g.view = .joining → ∃ t, exec (.vjoin f) s = .next t ∧ t.mem = s.mem ∧
      GroupLeaves s t g 1 (.join g.id g.rank) ∧ ParkedAt t c 0x08 (.vjoin g.id c.f.d.toNat s.time)) ∧
    ((∀ g, groupAt s c.groupWord = some g → g.view ≠ .joining) → ScalarFits c c.f.d.toNat false →
      ∃ t p, exec (.vjoin f) s = .next t ∧ t.mem = s.mem ∧ WentOn t c p ∧
        ScalarReads t c.r c.f.d.toNat false 0x80000000)

/-! ## The package's own steps -/

namespace Sys2Proof.Machine

/-- Whether a verdict is that its path may issue or trap now (R196). -/
def CanGo (x : Cand) : Prop := ∃ b, x.v = .ready b

/-- The candidates of a core's cycle once its reservations are made (R195, R209). -/
def rivals (s : State) (core : Nat) : List Cand :=
  candsOf (setTxResv (setResv s core (candsOf s core)) core (candsOf s core)) core

/-- No trap of a train waits to be delivered. -/
def Untrapped (t : Train) : Prop := ∀ p, some p ∈ t.paths → p.trapDue = none

/-- A path that may issue (R40). -/
def MayIssue (p : Path) : Prop :=
  p.pstate = .active ∧ p.frozen = .none ∧ p.trapDue = none ∧ (p.stop = .running ∨ p.stop = .awaitingRegion)

/-- A core issues: it and its cluster have power, as a core 5 always has, and start-up is complete (R365, R392). -/
def CoreOn (s : State) (core : Nat) : Prop :=
  core < 288 ∧ s.boot = .running ∧
    (core % 6 = 5 ∨ (coreAt s core).gated = false ∧ (clusterAt s (core / 6)).gate = .on)

/-- What a result's write of a register leaves: the new value, or where a later instruction has written the register inside the
window, that or the value as it stands (R142). -/
def LandsAs {α : Type} (p : Path) (q : Pending) (g : Reg) (old new x : α) : Prop :=
  x = new ∨ ((q.id, g) ∈ p.raced ∧ x = old)

/-- The path that a halt names: the entry of HSEL, or for 8 the lowest Active path (R191). -/
def HaltNames (t : Train) (e : Nat) : Prop :=
  let h := t.dbgctl.toNat / 2 ^ 4 % 2 ^ 4
  (h < 8 ∧ e = h) ∨ (8 ≤ h ∧ (∃ p, nth none t.paths e = some p ∧ p.pstate = .active ∧ p.frozen = .none) ∧
    ∀ i < e, ∀ p, nth none t.paths i = some p → ¬ (p.pstate = .active ∧ p.frozen = .none))

end Sys2Proof.Machine

/-- R195-R198, R320: a running core's cycle makes a choice, or none while its clock relocks. The path chosen is ready, and no
ready candidate comes before it: first those that have waited 128 cycles, the longest first, then by priority, stamp, TIX,
slot and turn. On core 5 of a cluster whose service train or conductor has work that path of rank 8 may take the cycle, when it is
ready being the model's choice (log entry 94); but not before a path that has waited 128 cycles, unless it has itself waited so
long and no less. -/
def Obligations.IssueCycle : Prop :=
  (∀ s core, CoreOn s core → s.sel = none →
    exec (.issueCycle core) s = .next (if (coreAt (startCycle s core) core).relock = true
      then countCycle (startCycle s core) core false ((candsOf (startCycle s core) core).map fun _ => 0x13)
      else choose (startCycle s core) core)) ∧
  ∀ s core, s.sel = none →
    ((∀ x ∈ rivals s core, ¬ CanGo x) → (choose s core).sel = none) ∧
    ((∃ x ∈ rivals s core, CanGo x) → ∃ b ∈ rivals s core, CanGo b ∧
      ((choose s core).sel = some b.r ∨ serviceBusy s core = true ∧ (choose s core).sel = none ∧
        (128 ≤ b.waitc → 128 ≤ (coreAt s core).svcWait ∧ b.waitc ≤ (coreAt s core).svcWait)) ∧
      ∀ x ∈ rivals s core, CanGo x →
        (128 ≤ x.waitc → 128 ≤ b.waitc ∧ x.waitc ≤ b.waitc) ∧
        ((128 ≤ x.waitc ∧ x.waitc = b.waitc ∨ x.waitc < 128 ∧ b.waitc < 128) → x.prio ≤ b.prio ∧
          (x.prio = b.prio → b.stamp ≤ x.stamp ∧ (x.stamp = b.stamp → b.tix ≤ x.tix ∧
            (x.tix = b.tix → b.r.slot ≤ x.r.slot ∧ (x.r.slot = b.r.slot → b.turn ≤ x.turn))))))

/-- R33, R68, R130, R181, R192, R228, R229, R234, R235, R246: what the steps of a core beside issue do: a fetch, the end of a
redirect delay, the landing of a result, the acknowledgement of a store, a walk, a fault record, a replay, the watchdog, which
leaves an agent alone whose every path waits in WAITADDR (so of a divided one: log entry 103), a halt. A TLB set keeps 16
translations; which set one goes to is the model's choice (log entry 90). -/
def Obligations.CoreSteps : Prop :=
  (∀ s r t p k, trainAt s r.core r.slot = some t → pathAt s r = some p → MayIssue p → p.fetched = none →
    (clusterAt s (r.core / 6)).gate = .on → checkLane s r.core t.asid r.handler .fetch 4 p.pc = .ok k →
    k % 4 = 0 → Clean s k 4 → RouteFresh s r.core .instr →
    let w : Word := BitVec.ofNat 32 (memLe s.mem k 4)
    w.toNat % 4 = 0 ∨ w.toNat % 4 = 3 →
    ∃ u, exec (.instructionFetch r) s = .next u ∧ u.mem = s.mem ∧
      pathAt u r = some { p with fetched := some (w, 0, 0), cold := false }) ∧
  (∀ s r p, pathAt s r = some p → p.delay = 1 → ∃ t, exec (.redirectDelayEnd r) s = .next t ∧ t.mem = s.mem ∧
    pathAt t r = some { p with delay := 0 }) ∧
  (∀ s r u p q, trainAt s r.core r.slot = some u → pathAt s r = some p → Untrapped u → p.trapDue = none →
    workPaid s (dieOf r.core) = true → (p.pending.find? fun x => x.id == q.id) = some q → q.awaiting = [] → (∀ w ∈ q.writes, ∀ n, w.reg = .scalar n → n < 61) →
    (∀ b, q.flip = some (.bank b) → (coreAt s r.core).actCur ≤ 1 → (coreAt s r.core).actBanks.length = 2 →
      ∃ t, exec (.longLatencyResultWrite r q.id) s = .next t ∧ t.mem = s.mem ∧ (coreAt t r.core).tabld = none ∧
        (coreAt t r.core).actCur = 1 - (coreAt s r.core).actCur ∧
        nth ActBank.reset (coreAt t r.core).actBanks (coreAt t r.core).actCur = b) ∧
    (q.flip = none → q.errs = [] → ∃ t, exec (.longLatencyResultWrite r q.id) s = .next t ∧ t.mem = s.mem ∧
      pathAt t r = some { p with
        pending := p.pending.filter fun x => x.id != q.id,
        raced := p.raced.filter fun x => x.1 != q.id } ∧
      (coreAt t r.core).txns = (coreAt s r.core).txns.filter fun x => x.id != q.id) ∧
    (q.flip = none → q.errs = [] → ∀ n v, q.writes = [⟨.scalar n, 0, v⟩] → n < u.scalars.length →
      ∃ t u', exec (.longLatencyResultWrite r q.id) s = .next t ∧ trainAt t r.core r.slot = some u' ∧
        LandsAs p q (.scalar n) (nth 0 u.scalars n) v (nth 0 u'.scalars n)) ∧
    (q.flip = none → q.errs = [] → ∀ g l v ln, q.writes = [⟨g, l, v⟩] → (∀ n, g ≠ .scalar n) → u.retired.has l = false →
      u.lanes[l]? = some ln → ∃ t u', exec (.longLatencyResultWrite r q.id) s = .next t ∧
        trainAt t r.core r.slot = some u' ∧ ∃ ln', u'.lanes[l]? = some ln' ∧ LandsAs p q g ln (setLaneReg ln g v) ln') ∧
    (p.pending.head? = some q → ∃ t, exec (.longLatencyResultWrite r q.id) s = .next t)) ∧
  (∀ s core id x, x ∈ (coreAt s core).txns → x.id = id → x.kind = .store → ∃ t, exec (.storeAck core id) s = .next t ∧
    t.mem = s.mem ∧ (coreAt t core).txns = (coreAt s core).txns.filter fun y => y.id != id) ∧
  (∀ s core slot t va w bits, trainAt s core slot = some t → canonical va = true →
    (∀ x ∈ s.l1, x.mask = 0) → (∀ e ∈ (coreAt s core).tlb, ¬ (e.asid = t.asid ∧ va.toNat / 2 ^ e.bits = e.vbase)) →
    xlatForms s core none t.asid va = [.leaf w bits] → ∃ u, exec (.tlbWalkComplete core t.asid va) s = .next u ∧
      u.mem = s.mem ∧
      let old := (coreAt s core).tlb
      let new := (coreAt u core).tlb
      let e : TlbEntry := ⟨t.asid, va.toNat / 2 ^ bits, bits, BitVec.ofNat 64 w⟩
      e ∈ new ∧ (∀ x ∈ new, x = e ∨ x ∈ old) ∧ (∀ x ∈ old, x.set ≠ e.set → x ∈ new) ∧
      ((old.filter fun x => x.set == e.set).length < 16 → ∀ x ∈ old, x ∈ new)) ∧
  (∀ s asid f, (s.faults.find? fun x => x.asid == asid) = some f → Memory.wf s.mem → s.latent = [] → f.data.length = 32 →
    let q := ctxFaultq s asid
    let size := ctxFqsize s asid
    let head := memLe s.mem q 4
    size ≠ 0 → (head + 2 ^ 32 - memLe s.mem (q + 4) 4) % 2 ^ 32 < size →
    ∃ t, exec (.faultRecordWrite asid) s = .next t ∧ memLe t.mem q 4 = (head + 1) % 2 ^ 32 ∧
      memBytes t.mem (q + 64 + 32 * (head % size)) 32 = f.data ∧ t.faults = s.faults.erase f) ∧
  (∀ s r t p u, trainAt s r.core r.slot = some t → pathAt s r = some p → p.wake = some (.pageFault u true) →
    p.pstate = .parked → p.frozen = .none → p.stop = .running → (∀ x ∈ t.refills, x.entry ≠ r.entry) →
    ∃ v, exec (.faultReplay r) s = .next v ∧ v.mem = s.mem ∧ pathAt v r = some { p with
      wake := none, woken := false, waitc := 0, got := [], floor := max p.floor s.point, pstate := .active, unf := if u = 0 then none else some u, stall := 0 }) ∧
  (∀ s core slot t h, trainAt s core slot = some t → t.handler = some h → h.started + 1000000 ≤ s.time →
    (h.agent = true → (∀ p, some p ∉ h.paths) ∨ ∃ p, some p ∈ h.paths ∧
      ∀ va pa c wd e d x a g l, p.wake ≠ some (.waitAddr va pa c wd e d x a g l)) →
    exec (.watchdogExpiry core slot) s = .next (killTrain s core slot 0x17 (handlerPc h) h.hmask)) ∧
  ∀ s core slot t, trainAt s core slot = some t → t.pendHalt = true → t.handler = none → t.ended = none →
    (coreAt s core).relock = false → (∀ e, t.dbgctl.toNat / 2 ^ 4 % 2 ^ 4 = e → e < 8 → nth none t.paths e = none → (∀ x ∈ t.refills, x.entry ≠ e) →
      exec (.haltEntry core slot) s = .next (modTrain s core slot clearHalt)) ∧
    ∀ e p, HaltNames t e → nth none t.paths e = some p → p.pstate = .active ∨ p.pstate = .parked → p.frozen = .none →
      Untrapped t → p.stop = .running ∨ p.stop = .awaitingRegion →
      exec (.haltEntry core slot) s = .next (takeTrap s ⟨core, slot, e, false⟩ ⟨0x0F, p.mask, p.pc, 1⟩)

namespace Sys2Proof.Machine

/-- Whatever the bytes at some keys hold, every form of an entry that a core may use for an ASID is the one that a walk from the
root finds as memory stands (R238). -/
def Steady (s : State) (core asid : Nat) (written : Nat → Prop) : Prop :=
  ∀ m va x, (∀ a, ¬ written a → memRead m a = memRead s.mem a) → x ∈ xlatForms { s with mem := m } core none asid va →
    x = walkOf s (some core) asid va

/-- Each register of a frame's transfer has its place, at a key of its own, by a translation that the core holds; the frame's
bytes are no table's, and no data is bad (R155, R157). -/
def FramePlaces (s : State) (core : Nat) (u : Train) (frame : Nat) (lanes : LaneSet) (key : Nat → Nat → Nat) : Prop :=
  NoErrors s ∧ Steady s core u.asid (fun a => ∃ k < 24, ∃ l ∈ lanes.toList, key k l ≤ a ∧ a < key k l + 4) ∧
  ∀ k < 24, ∀ l ∈ lanes.toList, tenderPlace s core u.asid (slotRegVa u frame k l) 4 = .key (key k l) ∧
    (coreAt s core).tlb.any (·.covers u.asid (slotRegVa u frame k l)) = true ∧
    ∀ k' < 24, ∀ l' ∈ lanes.toList, (k, l) ≠ (k', l') → key k l + 4 ≤ key k' l' ∨ key k' l' + 4 ≤ key k l

/-- A dependence object that is satisfied without an error (R347). -/
def DepMet (s : State) (asid : Nat) (va : DWord) : Prop :=
  va = 0 ∨ ∃ k, canonical va = true ∧ leafCheck s true .read 32 va (walkAsid s asid va) = .ok k ∧ Clean s k 32 ∧
    memLe s.mem (k + 8) 8 ≤ memLe s.mem k 8 ∧ memLe s.mem (k + 16) 4 = 0

/-- The bytes of an area of `n` bytes from `va` on have places of their own, on pages that a save may write, whatever the area
holds (R157, R190, R355). -/
def AreaAt (s : State) (asid : Nat) (va : DWord) (n : Nat) (key : Nat → Nat) : Prop :=
  va.toNat + n ≤ 2 ^ 64 ∧ (∀ i < n, ∀ j < n, key i = key j → i = j) ∧
  (∀ off m, 1 ≤ m → off + m ≤ n → (va.toNat + off) % 256 + m ≤ 256 →
    wsKey s asid (va + BitVec.ofNat 64 off) m = some (key off) ∧ ∀ j < m, key (off + j) = key off + j) ∧
  ∀ m v, (∀ a, (∀ i < n, a ≠ key i) → memRead m a = memRead s.mem a) → walkAsid { s with mem := m } asid v = walkAsid s asid v

/-- A little-endian number of an area. -/
def areaLe (m : List Host.Cell) (key : Nat → Nat) (off n : Nat) : Nat :=
  leNat ((List.range n).map fun i => memRead m (key (off + i)))

/-- The lane is a live path's, which holds the table's entry `e`, and no other's. -/
def OwnedBy (u : Train) (e l : Nat) : Prop :=
  ∀ i p, nth none u.paths i = some p → p.mask.has l = true → i = e

/-- A train's save area at an offset of its crew's holds the train (R189, R190). -/
def SavedAt (m : List Host.Cell) (key : Nat → Nat) (a : Nat) (u : Train) : Prop :=
  let full (p : Path) : Prop := p.stop ≠ .atRegion
  let sv : Prop := ∃ p, some p ∈ u.paths ∧ (full p ∨ p.region.keeps = true)
  (sv → areaLe m key (a + 396) 4 % 2 = 1 ∧ ∀ i < 61, areaLe m key (a + 4 * i) 4 = (nth 0 u.scalars i).toNat) ∧
  (¬ sv → areaLe m key (a + 396) 4 % 2 = 0) ∧
  (∀ j < 16, areaLe m key (a + 256 + 8 * j) 8 = (nth 0 u.jtab j).toNat) ∧ areaLe m key (a + 384) 12 = u.retired.toNat ∧
  ∀ e < 8, let at_ := a + 448 + 64 * e
    (nth none u.paths e = none → areaLe m key at_ 64 = 0) ∧
    ∀ p, nth none u.paths e = some p →
      areaLe m key (at_ + 8) 12 = p.mask.toNat ∧ areaLe m key (at_ + 20) 4 = p.mode.toNat ∧
      areaLe m key (at_ + 24) 4 = depthOf p ∧ areaLe m key (at_ + 28) 2 = p.jids.toNat ∧
      areaLe m key (at_ + 32) 2 = p.region.livev.toNat ∧ areaLe m key (at_ + 34) 4 = p.region.livew.toNat ∧
      (p.stop = .atRegion → areaLe m key at_ 8 = p.region.entry.toNat ∧ areaLe m key (at_ + 30) 1 = 1) ∧
      (full p → areaLe m key at_ 8 = p.pc.toNat ∧
        areaLe m key (at_ + 30) 1 = if p.pstate = .halted then 4 else if p.pstate = .parked then 3 else 2) ∧
      ∀ l ln, u.lanes[l]? = some ln → p.mask.has l = true → OwnedBy u e l →
        let b := a + 1024 + 208 * l
        areaLe m key (b + 8) 8 = (ln.preds ||| 1).toNat ∧ (full p → areaLe m key b 8 = ln.dic.toNat) ∧
        (∀ k < 16, full p ∨ p.region.livev.getLsbD k = true → areaLe m key (b + 16 + 4 * k) 4 = (nth 0 ln.v k).toNat) ∧
        ∀ k < 32, full p ∨ p.region.livew.getLsbD k = true →
          areaLe m key (b + 80 + 4 * k) 4 = (nth 0 ln.ring (ringIx (depthOf p) k)).toNat

/-- A train that a save area at an offset of its crew's gives back, its region and Active paths (R189, R190); where SVALID is
clear its scalars are those that it held. -/
def RestoredAs (m : List Host.Cell) (key : Nat → Nat) (a : Nat) (u v : Train) : Prop :=
  v.tix = u.tix ∧ v.crew = u.crew ∧ v.retired.toNat = areaLe m key (a + 384) 12 ∧
  (∀ j < 16, (nth 0 v.jtab j).toNat = areaLe m key (a + 256 + 8 * j) 8) ∧
  (∀ i < 61, nth 0 v.scalars i = if areaLe m key (a + 396) 4 % 2 = 1 then BitVec.ofNat 32 (areaLe m key (a + 4 * i) 4)
    else nth 0 u.scalars i) ∧
  ∀ e < 8, let at_ := a + 448 + 64 * e
    let st := areaLe m key (at_ + 30) 1
    (st = 0 → nth none v.paths e = none) ∧
    (st = 1 ∨ st = 2 → ∃ p, nth none v.paths e = some p ∧ p.pstate = .active ∧ p.pc.toNat = areaLe m key at_ 8 ∧
      p.mask.toNat = areaLe m key (at_ + 8) 12 ∧ p.mode.toNat = areaLe m key (at_ + 20) 4 ∧
      depthOf p = areaLe m key (at_ + 24) 2 ∧ resOf p = 0 ∧ p.jids.toNat = areaLe m key (at_ + 28) 2 ∧
      ∀ l ln, v.lanes[l]? = some ln → p.mask.has l = true → OwnedBy v e l →
        let b := a + 1024 + 208 * l
        ln.dic.toNat = areaLe m key b 8 ∧ ln.preds.toNat = areaLe m key (b + 8) 8 ∧
        (∀ k < 16, st = 2 ∨ (areaLe m key (at_ + 32) 2).testBit k = true →
          (nth 0 ln.v k).toNat = areaLe m key (b + 16 + 4 * k) 4) ∧
        ∀ k < 32, st = 2 ∨ (areaLe m key (at_ + 34) 4).testBit k = true →
          (nth 0 ln.ring (ringIx (depthOf p) k)).toNat = areaLe m key (b + 80 + 4 * k) 4)

/-- A train is of the size that the specification gives it, and no region of it has broken its obligations (R12, R187). -/
def PlainTrain (u : Train) : Prop :=
  u.paths.length = 8 ∧ u.lanes.length = 96 ∧ u.scalars.length = 64 ∧ u.jtab.length = 16 ∧ (∀ ln ∈ u.lanes, ln.v.length = 16) ∧
  ∀ p, some p ∈ u.paths → p.region.breach = false ∧ p.region.hit = []

/-- A page that holds a window stack's byte (R157, R350). -/
def StackByte (s : State) (asid : Nat) (va : DWord) : Prop :=
  canonical va = true ∧ ∃ w bits, walkAsid s asid va = .leaf w bits ∧ w.testBit 5 = true ∧ w.testBit 10 = false

end Sys2Proof.Machine

/-- R20-R22, R129, R158, R159, R161, R163, R166, R206: what the Tender does: it starts the transfer at the head of its queue
and charges a frame's, writes a frame to its slot, reads one back, writes a deferred record, and refills one. That the slot is
the one that WINSTACK gives at the transfer's completion is the model's choice (log entry 87). -/
def Obligations.TenderSteps : Prop :=
  (∀ s core j rest, (coreAt s core).relock = false → (coreAt s core).tender = j :: rest → j.started = false →
    (j.kind.isFrame = false ∨ 6000 ≤ tokensFor s j.who → ∃ t, exec (.tenderTransferStart core) s = .next t ∧ t.mem = s.mem ∧
      (coreAt t core).tender = { j with started := true } :: rest ∧
      (coreAt t core).balance = (coreAt s core).balance - (if j.kind.isFrame then 6000 else 0)) ∧
    (j.kind.isFrame = true → tokensFor s j.who < 6000 → ∀ p, pathAt s j.who = some p →
      ∃ t, exec (.tenderTransferStart core) s = .next t ∧ (coreAt t core).tender = (coreAt s core).tender ∧
        pathAt t j.who = some { p with stall := 0x03 })) ∧
  (∀ s core slot e h frame lanes rest u p key, let r : PathRef := ⟨core, slot, e, h⟩
    (coreAt s core).relock = false → (coreAt s core).tender = ⟨r, .spill frame lanes, true⟩ :: rest → trainAt s core slot = some u → pathAt s r = some p →
    Memory.wf s.mem → FramePlaces s core u frame lanes key →
    ∃ t, exec (.spillComplete core) s = .next t ∧ (coreAt t core).tender = rest ∧
      (∃ q, pathAt t r = some q ∧ q.xfers = p.xfers ++ [.spill frame lanes] ∧ q.pstate = p.pstate) ∧
      (∀ k < 24, ∀ l ∈ lanes.toList, ∀ ln, u.lanes[l]? = some ln →
        memLe t.mem (key k l) 4 = (nth 0 ln.ring (ringIx frame k)).toNat) ∧
      ∀ a, (∀ k < 24, ∀ l ∈ lanes.toList, a < key k l ∨ key k l + 4 ≤ a) → memRead t.mem a = memRead s.mem a) ∧
  (∀ s core slot e h frame lanes rest u p key, let r : PathRef := ⟨core, slot, e, h⟩
    (coreAt s core).relock = false → (coreAt s core).tender = ⟨r, .fill frame lanes, true⟩ :: rest → trainAt s core slot = some u → pathAt s r = some p →
    FramePlaces s core u frame lanes key →
    ∃ t v, exec (.fillComplete core) s = .next t ∧ t.mem = s.mem ∧ (coreAt t core).tender = rest ∧
      pathAt t r = some { p with xfers := p.xfers ++ [.fill frame lanes] } ∧ trainAt t core slot = some v ∧
      ∀ l ln, u.lanes[l]? = some ln → ln.ring.length = 104 → ∃ ln', v.lanes[l]? = some ln' ∧ ln'.v = ln.v ∧
        ln'.preds = ln.preds ∧ (lanes.has l = true → ∀ k < 24, ln.lostAt frame k = false →
          (nth 0 ln'.ring (ringIx frame k)).toNat = memLe s.mem (key k l) 4) ∧ (lanes.has l = false → ln' = ln)) ∧
  (∀ s core slot e h lanes pc wbase idx rest u p a, let r : PathRef := ⟨core, slot, e, h⟩
    (coreAt s core).relock = false → (coreAt s core).tender = ⟨r, .record lanes pc wbase idx, true⟩ :: rest → trainAt s core slot = some u →
    pathAt s r = some p → Memory.wf s.mem → tenderPlace s core u.asid (recordVa u idx) 64 = .key a →
    s.latent = [] → ∃ t, exec (.deferredRecordWritten core) s = .next t ∧ (coreAt t core).tender = rest ∧
      SameMemBut s.mem t.mem a 64 ∧ memLe t.mem a 8 = pc.toNat ∧ memLe t.mem (a + 8) 12 = lanes.toNat ∧
      memLe t.mem (a + 20) 4 = p.mode.toNat ∧ memLe t.mem (a + 24) 4 = wbase.toNat ∧
      memLe t.mem (a + 28) 2 = p.jids.toNat ∧ memLe t.mem (a + 30) 34 = 0 ∧
      ∃ q, pathAt t r = some q ∧ q.xfers = p.xfers ++ [.record lanes pc wbase idx]) ∧
  ∀ s core slot e rest u x a, let r : PathRef := ⟨core, slot, e, false⟩
    (coreAt s core).relock = false → (coreAt s core).tender = ⟨r, .refill, true⟩ :: rest → trainAt s core slot = some u → u.handler = none → Untrapped u →
    (u.refills.find? fun y => y.entry == e) = some x → e < u.paths.length →
    tenderPlace s core u.asid (recordVa u x.what.idx) 64 = .key a → Clean s a 64 →
    memLe s.mem (a + 8) 12 = x.what.mask.toNat → memLe s.mem (a + 28) 2 = x.what.jids.toNat →
    memLe s.mem (a + 24) 4 < 2 ^ 18 → memLe s.mem (a + 24) 4 / 2 ^ 16 ≤ memLe s.mem (a + 24) 2 → memLe s.mem (a + 20) 4 < 2 ^ 21 →
    RmodeLegal (memLe s.mem (a + 20) 4) → memLe s.mem (a + 30) 34 = 0 →
    ∃ t q, exec (.deferredRefillDone core) s = .next t ∧ t.mem = s.mem ∧ (coreAt t core).tender = rest ∧
      pathAt t r = some q ∧ q.pc.toNat = memLe s.mem a 8 ∧ q.mask = x.what.mask ∧ q.jids = x.what.jids ∧
      q.mode.toNat = memLe s.mem (a + 20) 4 ∧ q.wbase.toNat = memLe s.mem (a + 24) 4 ∧ q.pstate = .active ∧ q.uid = x.what.uid

/-- R149, R150, R188-R190, R282, R346-R350, R353-R355, R360, R361: the steps by which trains and crews come and go: the end
of a drain, a crew's completion record, an update of DONEOBJ, dependences, placement, pre-emption with its save or its
abandonment, the restore, quiescence. That the scalars of a train whose SVALID is clear are those that it held is the model's
reading (log entry 106). -/
def Obligations.CrewSteps : Prop :=
  (∀ s core slot u, trainAt s core slot = some u → u.ended.isSome = true → drained s core slot u = true →
    ∃ t, exec (.trainDrainComplete core slot) s = .next t ∧ trainAt t core slot = none ∧
      ∀ c, (s.crews.find? fun x => x.ref == u.crew) = some c → 2 ≤ c.left → t.mem = s.mem ∧
        ∃ c' ∈ t.crews, c'.ref = c.ref ∧ c'.left = c.left - 1 ∧ c'.lanes = c.lanes + u.lanes.length) ∧
  (∀ s core slot u c l k, trainAt s core slot = some u → u.ended.isSome = true → drained s core slot u = true →
    (s.crews.find? fun x => x.ref == u.crew) = some c → c.left = 1 → (c.lanes = 0 → c.maxst = 0) → u.lanes.length = 96 →
    launchAt s c.ref.launch = some l → launchKey s l.pk.asid (crecVa l.pk c.ref.crew) 32 = some k → s.latent = [] →
    Memory.wf s.mem → (∀ x ∈ (clusterAt s c.cluster).stash, x.crew ≠ c.ref) →
    let st := u.lanes.map fun ln => ln.status.toNat
    let top := st.foldl max c.maxst
    let ix := 96 * u.tix + st.idxOf top
    ∃ t, exec (.trainDrainComplete core slot) s = .next t ∧ SameMemBut s.mem t.mem k 32 ∧ (∀ x ∈ t.crews, x.ref ≠ c.ref) ∧
      memLe t.mem k 2 = top % 2 ^ 16 ∧
      memLe t.mem (k + 2) 2 = (c.flags ||| ((if u.killed = true then 1 else 0) + (if u.idleOut = true then 2 else 0) +
        (if u.drainErr = true then 4 else 0))) % 2 ^ 16 ∧
      memLe t.mem (k + 4) 4 = (c.nzcount + (st.filter (· ≠ 0)).length) % 2 ^ 32 ∧
      memLe t.mem (k + 8) 4 = (if c.maxst < top ∨ c.lanes = 0 then ix else if top ∈ st then min c.maxlane ix else c.maxlane) % 2 ^ 32 ∧
      memLe t.mem (k + 12) 4 = (c.lanes + 96) % 2 ^ 32 ∧ memLe t.mem (k + 16) 8 = s.time % 2 ^ 64 ∧
      memLe t.mem (k + 24) 4 = c.ref.crew % 2 ^ 32 ∧ memLe t.mem (k + 28) 4 = 0) ∧
  (∀ s core ix x, nth none (coreAt s core).trackers ix = some x → drained s core 12 x.train = true →
    ∃ t, exec (.trackerDrainComplete core ix) s = .next t ∧ nth none (coreAt t core).trackers ix = none) ∧
  (∀ s id l n cause addr rest k, launchAt s id = some l → l.updates = (n, cause, addr) :: rest →
    leafCheck s true .write 32 l.pk.doneObj (walkAsid s l.pk.asid l.pk.doneObj) = .ok k →
    ownerOf s k < s.clusters.length →
    ∃ t, exec (.doneobjUpdate id) s = .next t ∧ t.mem = s.mem ∧
      (clusterAt t (ownerOf s k)).svc = (clusterAt s (ownerOf s k)).svc ++
        [.complete k n (if cause < 256 then 0 else n) (cause % 256) addr l.pk.asid []] ∧
      ∀ l', launchAt t id = some l' → l'.updates = rest) ∧
  (∀ s id l, launchAt s id = some l → l.ready = none → l.freed = false → (∀ va ∈ l.pk.deps, DepMet s l.pk.asid va) →
    ∃ t, exec (.launchReady id) s = .next t ∧ t.mem = s.mem ∧ launchAt t id = some { l with ready := some s.time }) ∧
  (∀ s id l crew, launchAt s id = some l → nextCrew l = some crew → firstInLine s l = true → l.waitPage = false →
    s.latent = [] → (chooseCluster s l crew = none → l.waitFrom = none → ∃ t, exec (.placeCrew id) s = .next t ∧ t.mem = s.mem ∧
      launchAt t id = some { l with waitFrom := some s.time }) ∧
    ∀ cl ps base, chooseCluster s l crew = some (cl, ps, base) → s.cores.length = 288 →
      (∀ x ∈ ps, StackByte s l.pk.asid (stackVa l.pk crew x.1) ∧
        StackByte s l.pk.asid (stackVa l.pk crew x.1 + BitVec.ofNat 64 (stackBytes l.pk - 1))) →
      (∀ x ∈ s.saved, x.crew.ref ≠ ⟨l.id, crew⟩) →
      ∃ t, exec (.placeCrew id) s = .next t ∧ t.mem = s.mem ∧ (∃ c ∈ t.crews, c.ref = ⟨l.id, crew⟩ ∧ c.cluster = cl) ∧
        ∀ x ∈ ps, ∃ u p, trainAt t x.2.1 x.2.2 = some u ∧ u.tix = x.1 ∧ u.crew = ⟨l.id, crew⟩ ∧ u.asid = l.pk.asid ∧
          u.scalars = l.pk.args ++ List.replicate 48 0 ∧ u.retired = 0 ∧ livePaths u.paths = [(0, p)] ∧
          p.pc = l.pk.entry ∧ p.mask = BitVec.allOnes 96 ∧ p.mode = 0 ∧ p.wbase = 0 ∧ p.jids = 0) ∧
  (∀ s id l crew cl ps base x key, launchAt s id = some l → nextCrew l = some crew → firstInLine s l = true →
    l.waitPage = false → chooseCluster s l crew = some (cl, ps, base) → s.cores.length = 288 → s.clusters.length = 48 →
    (∀ x ∈ ps, StackByte s l.pk.asid (stackVa l.pk crew x.1) ∧
      StackByte s l.pk.asid (stackVa l.pk crew x.1 + BitVec.ofNat 64 (stackBytes l.pk - 1))) →
    (s.saved.find? fun x => x.crew.ref == ⟨l.id, crew⟩) = some x → NoErrors s → (∀ g ∈ s.groups, g.gone = []) →
    AreaAt s l.pk.asid (crewSaveVa l.pk crew) (crewSaveSize l.pk) key →
    headerOk ((List.range 4096).map fun i => memRead s.mem (key (20992 * l.pk.trains + i))) = true →
    (∀ u ∈ x.trains, u.crew = ⟨l.id, crew⟩ ∧ u.asid = l.pk.asid ∧ u.tix < l.pk.trains ∧ PlainTrain u ∧ allDeferred u = [] ∧
      let b := (List.range 20992).map fun i => memRead s.mem (key (20992 * u.tix + i))
      areaOk b = true ∧ ∀ e < 8, wakeOk ((b.drop (448 + 64 * e)).take 64) ((nth none u.paths e).bind (·.wake)) = true) →
    ∃ t, exec (.placeCrew id) s = .next t ∧ (∀ y ∈ t.saved, y.crew.ref ≠ ⟨l.id, crew⟩) ∧
      (∃ c ∈ t.crews, c.ref = ⟨l.id, crew⟩ ∧ c.cluster = cl) ∧
      ∀ y ∈ ps, ∀ u, (x.trains.find? fun z => z.tix == y.1) = some u →
        ∃ v, trainAt t y.2.1 y.2.2 = some v ∧ RestoredAs s.mem key (20992 * u.tix) u v) ∧
  (∀ s id l crew since c, launchAt s id = some l → nextCrew l = some crew → l.waitFrom = some since →
    since + 50000 ≤ s.time → victimFor s l crew = some c → asks s l = false →
    ∃ t, exec (.preemptRequest id) s = .next t ∧ t.mem = s.mem ∧ launchAt t id = some { l with asking := some c.ref } ∧
      ∀ core slot u, trainAt s core slot = some u → u.crew = c.ref → u.ended = none →
        ∃ v, trainAt t core slot = some v ∧ v.preempt = some s.time) ∧
  (∀ s core slot e u p since, trainAt s core slot = some u → pathAt s ⟨core, slot, e, false⟩ = some p →
    u.preempt = some since → since + 100000 ≤ s.time → p.stop = .awaitingRegion →
    ∃ t, exec (.regionStopTimeout ⟨core, slot, e, false⟩) s = .next t ∧ t.mem = s.mem ∧
      ∃ q, pathAt t ⟨core, slot, e, false⟩ = some q ∧ q.stop = .inFull ∧ q.pc = p.pc ∧ q.mask = p.mask ∧ q.mode = p.mode ∧
        q.pstate = p.pstate ∧ q.wake = p.wake ∧ q.pending = p.pending ∧ depthOf q = depthOf p) ∧
  (∀ s crew c l, (s.crews.find? fun x => x.ref == crew) = some c → launchAt s crew.launch = some l →
    trainsOf s crew ≠ [] → crewEngines s c = false →
    (∀ x ∈ trainsOf s crew, ∃ u, trainAt s x.1 x.2 = some u ∧ trainSettled s x.1 x.2 u = true) →
    (∀ k ∈ s.cores, ∀ x, some x ∈ k.trackers → x.train.crew ≠ crew) →
    ∃ t, exec (.preemptSave crew) s = .next t ∧ (∀ x ∈ t.crews, x.ref ≠ crew) ∧ (∃ x ∈ t.saved, x.crew = c) ∧
      (∀ x ∈ trainsOf s crew, trainAt t x.1 x.2 = none) ∧ (∀ l', launchAt t l.id = some l' → crew.crew ∈ l'.savedCrews) ∧
      ∀ key, NoErrors s → Memory.wf s.mem → AreaAt s c.asid (crewSaveVa l.pk crew.crew) (crewSaveSize l.pk) key →
        (allocOf s c.cluster crew).2 = l.pk.scratch → (engineImage (clusterAt s c.cluster)).length = 409600 →
        (∀ x ∈ (clusterAt s c.cluster).stash, x.crew ≠ crew) →
        (∀ x ∈ trainsOf s crew, ∀ u, trainAt s x.1 x.2 = some u → u.asid = c.asid ∧ u.tix < l.pk.trains ∧ PlainTrain u ∧
          ∀ y ∈ trainsOf s crew, ∀ v, trainAt s y.1 y.2 = some v → v.tix = u.tix → y = x) →
        (∀ x ∈ trainsOf s crew, ∀ u, trainAt s x.1 x.2 = some u → SavedAt t.mem key (20992 * u.tix) u) ∧
        (∀ i < l.pk.scratch, memRead t.mem (key (20992 * l.pk.trains + 4096 + i)) =
          scrByte s c.cluster crew ((allocOf s c.cluster crew).1 + i)) ∧
        ∀ a, (∀ i < crewSaveSize l.pk, a ≠ key i) → memRead t.mem a = memRead s.mem a) ∧
  (∀ s crew c since, (s.crews.find? fun x => x.ref == crew) = some c →
    (∃ x ∈ trainsOf s crew, ∃ u, trainAt s x.1 x.2 = some u ∧ u.ended = none) →
    (∀ x ∈ trainsOf s crew, ∀ u, trainAt s x.1 x.2 = some u → (u.ended = none → ∃ n, u.allStopped = some n ∧ n ≤ since) ∧
      ∀ p, some p ∈ u.paths → p.region.hit = []) →
    crewUnstarted s c = true → since + 100000 ≤ s.time →
    ∃ t, exec (.preemptAbandon crew) s = .next t ∧ t.mem = s.mem ∧ (∃ x ∈ t.crews, x = { c with holdoff := some s.time }) ∧
      (∀ x ∈ t.launches, x.asking ≠ some crew) ∧
      ∀ x ∈ trainsOf s crew, ∃ u, trainAt t x.1 x.2 = some u ∧ u.preempt = none ∧ ∀ p, some p ∈ u.paths → p.stop = .running) ∧
  (∀ s crew c since, (s.crews.find? fun x => x.ref == crew) = some c → c.holdoff = some since → since + 1000000 ≤ s.time →
    ∃ t, exec (.victimHoldoffEnd crew) s = .next t ∧ t.mem = s.mem ∧ { c with holdoff := none } ∈ t.crews) ∧
  ∀ s asid r u p d, NoWork s asid → quiesceWaiters s asid = [r] → trainAt s r.core r.slot = some u → pathAt s r = some p → p.pstate = .parked →
    p.frozen = .none → p.wake = some (.quiesce d) → d < 61 → u.scalars.length = 64 →
    ∃ t q, exec (.quiescenceDetect asid) s = .next t ∧ t.mem = s.mem ∧ pathAt t r = some q ∧ Woken p q ∧
      ScalarReads t r d false 1

namespace Sys2Proof.Machine

/-- Nothing waits for an engine operation by its number (R268, R276). -/
def NoWaiter (s : State) (id : Nat) : Prop := ∀ r p, pathAt s r = some p → opWait id p.wake = none

/-- A request comes before another at a signal box: the older one, then the lower core, then a matrix operation before a copy
and a copy before a raise (R316). -/
def AsksFirst (a b : SbReq) : Prop :=
  a.time < b.time ∨ (a.time = b.time ∧ (a.core < b.core ∨ (a.core = b.core ∧ a.kind.rank < b.kind.rank)))

/-- The units that a kind of request takes (R315). -/
def unitsOf (k : SbKind) : Nat := match k with | .matrix _ _ => 6 | .copy _ => 1 | .band _ => 1

/-- What a copy moves: for each of its bytes a clean place of memory and a place in memory of its own, no destination being a
source (R274). -/
def CopyPlaces (s : State) (cl : Nat) (o : CopyOp) (places : List (Nat × Nat)) : Prop :=
  (copySides s cl o).map (fun x => (x.src, x.dst)) = places.map (fun x => (Side.key x.1, Side.key x.2)) ∧
  (places.map (·.2)).Nodup ∧ (∀ x ∈ places, ∀ y ∈ places, x.1 ≠ y.2) ∧
  ∀ x ∈ places, Clean s x.1 1

/-- The index register of an operation still holds what it held at issue (R264). -/
def IndexHeld (s : State) (o : MatOp) : Prop :=
  ∀ g t, o.vb = some g → anyTrain s o.train = some t → ∀ l ln, t.lanes[l]? = some ln → laneReg ln g = nth 0 o.ixs l

/-- Bytes of the crew's scratchpad allocation from an offset on. -/
def scrBytes (s : State) (cl : Nat) (o : MatOp) (off n : Nat) : List Byte :=
  (List.range n).map fun i => scrByte s cl o.crew ((allocOf s cl o.crew).1 + off + i)

/-- The element that ACCRD writes: the accumulator's own, or converted from FP32, its exceptions ignored (R270). -/
def accOut (ty rm : Nat) (sat : Bool) (x : Nat) : Nat :=
  let cv (t : ETy) : Nat := (convert .fp32 t ⟨rm, false, 0, 0, 0⟩ 0 0 sat x).1
  match ty with
  | 1 => cv .bf16 | 2 => cv .fp16 | 3 => cv .e4m3 | 4 => cv .e5m2 | _ => x

/-- A core holds the translation of an address for an ASID (R238). -/
def HeldAt (s : State) (core asid : Nat) (va : DWord) : Prop := (coreAt s core).tlb.any (·.covers asid va) = true

end Sys2Proof.Machine

/-- R201, R257, R258, R262, R264-R266, R274, R278, R279, R315, R316, R371-R374, R467: what the engines do: a granted operation
starts with its operands and its accumulators claimed, a product is added into its accumulator, a GATHER fills the latch, ACCRD
and ACCWR move rows between the accumulator and the scratchpad, copies take their slots
and move their bytes, a freed buffer is given up, the signal box grants its oldest request, a near-memory engine processes
its elements and completes. -/
def Obligations.EngineSteps : Prop :=
  (∀ s pair id p o, matOpAt s pair id = some (p, o) → o.granted = true → o.started = false →
    matReady (clusterAt s (pair / 3)) p o = true →
    (∃ t, exec (.matrixOpStart pair id) s = .next t) ∧
    (∀ fmt za, o.kind = .mma fmt za false false → (clusterAt s (pair / 3)).stash = [] → accTaken p o = false →
      ∃ t q o', exec (.matrixOpStart pair id) s = .next t ∧ t.mem = s.mem ∧ matOpAt t pair id = some (q, o') ∧
        o'.started = true ∧ o'.rows.map (·.ix) = o.act.toList ∧ o'.cols.map (·.ix) = List.range 128 ∧
        (∀ n ∈ o.accs, n < p.accs.length → (nth Acc.reset q.accs n).owner = some o.crew) ∧
        (o.maybe = [] → (∀ r ∈ o'.rows, r.data = scrBytes s (pair / 3) o (o.w 0 + r.ix * o.w 1) (if fmt = 7 then 64 else 128)) ∧
          ∀ r ∈ o'.cols, r.data = scrBytes s (pair / 3) o (o.w 2 + r.ix * o.w 3) (if fmt = 7 then 64 else 128))) ∧
    (∀ x, o.kind = .gather x → (clusterAt s (pair / 3)).stash = [] → o.maybe = [] → IndexHeld s o →
      let len := if x = 1 then 64 else 128
      (∀ l ∈ o.act.toList, o.w 0 + (nth 0 o.ixs l).toNat * o.w 1 + len ≤ (allocOf s (pair / 3) o.crew).2 ∧
        (x = 2 → o.w 4 + 8 * (nth 0 o.ixs l).toNat + 8 ≤ (allocOf s (pair / 3) o.crew).2)) →
      ∃ t q o', exec (.matrixOpStart pair id) s = .next t ∧ t.mem = s.mem ∧ matOpAt t pair id = some (q, o') ∧
        o'.started = true ∧ o'.rows.map (·.ix) = o.act.toList ∧ ∀ r ∈ o'.rows,
          r.data = scrBytes s (pair / 3) o (o.w 0 + (nth 0 o.ixs r.ix).toNat * o.w 1) len ∧
          (x = 2 → r.scale = scrBytes s (pair / 3) o (o.w 4 + 8 * (nth 0 o.ixs r.ix).toNat) 8))) ∧
  (∀ s pair id p o, matOpAt s pair id = some (p, o) → o.started = true →
    (∃ t, exec (.matrixOpComplete pair id) s = .next t ∧ matOpAt t pair id = none) ∧
    ∀ fmt za lat bq, o.kind = .mma fmt za lat bq → fmt < 7 → o.dirty = [] → o.ahead = [] →
      (∀ x ∈ p.queue, x.started = true → x.train ≠ o.train → ∀ a ∈ x.accs, a ∉ o.accs) → ownsAccs p o = true → (o.rows.map (·.ix)).Nodup →
      o.acc < p.accs.length → ∃ t, exec (.matrixOpComplete pair id) s = .next t ∧
        ∀ x ∈ o.rows, x.ix < (nth Acc.reset p.accs o.acc).rows.length →
          nth [] (nth Acc.reset (nth Pair.reset (clusterAt t (pair / 3)).pairs (pair % 3)).accs o.acc).rows x.ix =
            o.cols.mapIdx fun j y => BitVec.ofNat 32 (matElem fmt (rowElems (fmtTypes fmt).1 x.data)
              (rowElems (fmtTypes fmt).2.1 y.data) x.scale y.scale (if za then 0 else accElem p o.acc false x.ix j))) ∧
  (∀ s pair id p o x, matOpAt s pair id = some (p, o) → o.started = true → o.kind = .gather x → o.dirty = [] →
    pair / 3 < s.clusters.length → pair % 3 < (clusterAt s (pair / 3)).pairs.length →
    (o.rows.map (·.ix)).Nodup → (∀ r ∈ o.rows, r.ix < 96) → p.latch.rows.length = 96 → p.latch.scales.length = 96 →
    ∃ t, exec (.matrixOpComplete pair id) s = .next t ∧
      let la := (nth Pair.reset (clusterAt t (pair / 3)).pairs (pair % 3)).latch
      la.valid = true ∧ la.crew = o.crew ∧ la.asid = o.asid ∧
      (∀ l < 96, la.present.has l = true ↔ l ∈ o.rows.map (·.ix)) ∧ ∀ r ∈ o.rows,
        nth [] la.rows r.ix = r.data ++ List.replicate (if x = 1 then 64 else 0) 0 ∧
        (x = 2 → nth [] la.scales r.ix = r.scale)) ∧
  (∀ s pair id p o, matOpAt s pair id = some (p, o) → o.started = true → o.ahead = [] → (clusterAt s (pair / 3)).stash = [] →
    (∀ x ∈ p.queue, x.started = true → x.train ≠ o.train → ∀ a ∈ x.accs, a ∉ o.accs) → pair / 3 < s.clusters.length →
    (∀ ty rm sat, o.kind = .accrd ty rm sat → ty < 6 →
      let n := if ty = 0 then 4 else if ty = 1 ∨ ty = 2 then 2 else if ty = 3 ∨ ty = 4 then 1 else 8
      128 * n ≤ o.w 1 → ∃ t, exec (.matrixOpComplete pair id) s = .next t ∧ t.mem = s.mem ∧
        ∀ l ∈ o.act.toList, ∀ j < 128, leNat (scrBytes t (pair / 3) o (o.w 0 + l * o.w 1 + n * j) n) =
          accOut ty rm sat (accElem p o.acc (ty = 5) l j)) ∧
    (∀ op, o.kind = .accwr op → op < 4 → ownsAccs p o = true → o.dirty = [] → o.maybe = [] → o.acc < p.accs.length →
      (op = 1 → o.acc + 1 < p.accs.length) →
      (∀ a ∈ p.accs, a.rows.length = 96) →
      ∃ t, exec (.matrixOpComplete pair id) s = .next t ∧ t.mem = s.mem ∧
        let accs := (nth Pair.reset (clusterAt t (pair / 3)).pairs (pair % 3)).accs
        let row (n l : Nat) : List Word := nth [] (nth Acc.reset accs n).rows l
        let word (n l j : Nat) : Word :=
          BitVec.ofNat 32 (leNat (scrBytes s (pair / 3) o (o.w 0 + l * o.w 1 + n * j) 4))
        (op = 0 → ∀ l ∈ o.act.toList, row o.acc l = (List.range 128).map fun j => word 4 l j) ∧
        (op = 1 → ∀ l ∈ o.act.toList, ∀ j < 128, nth 0 (row o.acc l) j = word 8 l j ∧
          nth 0 (row (o.acc + 1) l) j =
            BitVec.ofNat 32 (leNat (scrBytes s (pair / 3) o (o.w 0 + l * o.w 1 + 8 * j + 4) 4))) ∧
        (op = 2 → ∀ l ∈ o.act.toList, row o.acc l = List.replicate 128 0) ∧
        (op = 3 → (nth Acc.reset accs o.acc).owner = none) ∧
        (op < 3 → ∀ l < 96, l ∉ o.act.toList → row o.acc l = nth [] (nth Acc.reset p.accs o.acc).rows l))) ∧
  (∀ s cl id o, copyAt s cl id = some o → o.arrived = false →
    (∀ x ∈ (clusterAt s cl).copies.takeWhile fun y => y.id != id, x.arrived = true) →
    ∃ t o', exec (.copyQueueArrival cl id) s = .next t ∧ t.mem = s.mem ∧ copyAt t cl id = some o' ∧ o'.arrived = true ∧
      ∀ q b, o.queue = some q → bufAt (clusterAt s cl) q = some b → o'.qslot = b.tail ∧ ∃ b', bufAt (clusterAt t cl) q = some b' ∧
        b'.tail = (b.tail + 1) % b.slots.length ∧
        ∀ i, b'.slots[i]? = (b.slots[i]?).map fun x => if i = b.tail ∧ x = .empty then .reserved else x) ∧
  (∀ s cl id o, copyAt s cl id = some o → o.granted = true → o.started = false → slotFree (clusterAt s cl) o = true →
    ∃ t, exec (.copyStart cl id) s = .next t ∧ t.mem = s.mem ∧ copyAt t cl id = some { o with started := true }) ∧
  (∀ s cl id o places, copyAt s cl id = some o → o.started = true → o.atPage = false → o.failed = none → o.moved = false →
    copyAfterDone s o = true → copyAnswered s o = true → -(2 ^ 26 : Int) < (dieAt s (cl / 12)).bucket →
    CopyPlaces s cl o places → (∀ x ∈ places, Unmoved s x.1 1) → NoWaiter s id → Memory.wf s.mem →
    ∃ t, exec (.copyComplete cl id) s = .next t ∧ copyAt t cl id = none ∧
      (∀ x ∈ places, memRead t.mem x.2 = memRead s.mem x.1) ∧
      ∀ a, (∀ x ∈ places, a ≠ x.2) → memRead t.mem a = memRead s.mem a) ∧
  (∀ s cl q b, bufAt (clusterAt s cl) q = some b → b.freed = true → (∀ o ∈ (clusterAt s cl).copies, o.queue ≠ some q) →
    SlotState.reading ∉ b.slots → ∃ t, exec (.bufferFreed cl q) s = .next t ∧ t.mem = s.mem ∧ bufAt (clusterAt t cl) q = none) ∧
  (∀ s cl q, q ∈ (clusterAt s cl).sbq → (∀ x ∈ (clusterAt s cl).sbq, x ≠ q → AsksFirst q x) →
    unitsHeld s cl + unitsOf q.kind ≤ (clusterAt s cl).curbud →
    ∃ t, exec (.signalBoxGrant cl) s = .next t ∧ t.mem = s.mem ∧ (clusterAt t cl).sbq = (clusterAt s cl).sbq.erase q ∧
      (∀ core, q.kind = .band core → core < s.cores.length →
        (coreAt t core).band = (coreAt s core).band + 1 ∧ (coreAt t core).raising = false) ∧
      (∀ n o, q.kind = .copy n → copyAt s cl n = some o → copyAt t cl n = some { o with granted := true, waiting := false }) ∧
      ∀ n i p o, q.kind = .matrix (3 * cl + i) n → i < 3 → matOpAt s (3 * cl + i) n = some (p, o) →
        ∃ p', matOpAt t (3 * cl + i) n = some (p', { o with granted := true, waiting := false })) ∧
  (∀ s id stack q i k, nmcAt s id = some q → stack < 12 → -(2 ^ 26 : Int) < (dieAt s (stack / 3)).bucket → i ∈ q.left →
    nmPlace s q q.need (q.d i) = .key k → k / 256 % 12 = stack → (∀ j ∈ q.left, j ≠ i → homeStack s q j ≠ stack) →
    q.left.Nodup → Clean s k 4 → k % 4 = 0 → HeldAt s q.who.core q.asid (q.d i) →
    q.op = 0 ∨ (HeldAt s q.who.core q.asid (q.s i) ∧ ∃ k', nmPlace s q .read (q.s i) = .key k' ∧ k' % 4 = 0 ∧ Clean s k' 4) →
    nmOverlap q i = false → Memory.wf s.mem →
    ∃ t, exec (.nmcShareStart id stack) s = .next t ∧ SameMemBut s.mem t.mem k 4 ∧
      (q.op = 0 → memLe t.mem k 4 = q.alpha.toNat) ∧
      (∀ k', q.op ≠ 0 → nmPlace s q .read (q.s i) = .key k' →
        let x := decF .fp32 (memLe s.mem k 4)
        let y := decF .fp32 (memLe s.mem k' 4)
        let al := decF .fp32 q.alpha.toNat
        let be := decF .fp32 q.beta.toNat
        let top : ℚ := numOf (decF .fp32 (maxMag .fp32))
        (1 < q.op → q.ty ≠ ETy.fp32.code → memLe t.mem k 4 = (memLe s.mem k 4 + memLe s.mem k' 4) % 2 ^ 32) ∧
        (1 < q.op → q.ty = ETy.fp32.code → IsFin x → IsFin y → |numOf x + numOf y| ≤ top →
          RoundsTo .fp32 0 ((numOf x + numOf y : ℚ) : ℝ) (memLe t.mem k 4)) ∧
        (q.op = 1 → IsFin x → IsFin y → IsFin al → IsFin be → |numOf al * numOf x + numOf be * numOf y| ≤ top →
          RoundsTo .fp32 0 ((numOf al * numOf x + numOf be * numOf y : ℚ) : ℝ) (memLe t.mem k 4))) ∧
      nmcAt t id = some { q with
        left := q.left.filter fun j => j != i
        paid := if k / 64 ∈ q.paid then q.paid else k / 64 :: q.paid }) ∧
  ∀ s id q, nmcAt s id = some q → q.left = [] →
    (∃ t, exec (.nmcComplete id) s = .next t ∧ nmcAt t id = none) ∧
    (q.failed = none → NoWaiter s q.id → ∀ k, q.obj = some k → ownerOf s k < s.clusters.length →
      ∃ t, exec (.nmcComplete id) s = .next t ∧ t.mem = s.mem ∧
        (clusterAt t (ownerOf s k)).svc = (clusterAt s (ownerOf s k)).svc ++ [.complete k 1 0 0 0 q.asid [(q.id, s.point)]])

namespace Sys2Proof.Machine

/-- A sample record at a key (R214). -/
def RecordIs (m : List Host.Cell) (k time core slot : Nat) (pc : DWord) (mask : LaneSet) (reason : Nat) (handler : Bool)
    (path : Nat) : Prop :=
  memLe m k 8 = time % 2 ^ 64 ∧ memLe m (k + 8) 8 = pc.toNat ∧ memLe m (k + 16) 12 = mask.toNat ∧
  memLe m (k + 28) 1 = (reason + (if reason = 0 then 32 else 0) + if handler = true then 64 else 0) % 256 ∧
  memLe m (k + 29) 1 = (slot + 16 * (path % 8)) % 256 ∧ memLe m (k + 30) 2 = (core % 6 + core / 6 * 8) % 2 ^ 16

/-- A path of a train that a sample may report: of a handler, or Active (R213). -/
def MayReport (u : Train) (e : Nat) (h : Bool) (p : Path) : Prop :=
  if h = true then ∃ x, u.handler = some x ∧ nth none x.paths e = some p
  else nth none u.paths e = some p ∧ p.pstate = .active ∧ p.frozen = .none

/-- The path that a sample reports where none has issued: the highest waiting count, the lower entry on a tie (R213). -/
def Reported (u : Train) (e : Nat) (h : Bool) (p : Path) : Prop :=
  MayReport u e h p ∧ ∀ e' h' q, MayReport u e' h' q → (e', h') ≠ (e, h) → q.waitc < p.waitc ∨ (q.waitc = p.waitc ∧ e < e')

/-- The stall reason of a path that has not issued, by the rows of R211 and R217 in their order. -/
def reasonRow (relock stopping : Bool) (p : Path) : Nat :=
  if p.cold = true then 0x0B
  else if stopping = true ∨ p.stop ≠ .running then 0x17
  else if p.pstate = .halted ∨ p.frozen = .halt then 0x12
  else if p.frozen ≠ .none ∨ p.trapDue ≠ none ∨ p.pstate = .trapped then 0x11
  else if relock = true then 0x13
  else if p.pstate = .parked ∨ p.stall = 0x02 then p.stall.toNat
  else if p.fetched = none then 0x0B
  else if 0 < p.delay then 0x0C
  else if p.stall = 0 then 0x0E
  else p.stall.toNat

/-- A slot that is not the conductor's (R387). -/
def UserSlot (s : State) (core slot : Nat) : Prop := ¬ (core = 5 ∧ slot = 10 ∧ s.boot = .running)

end Sys2Proof.Machine

/-- R13, R201-R203, R212-R218, R317-R320, R362-R366, R376-R385, R392, R394: what clocks, power and the governor do: a band's
renewal, a cluster cycle, a sample, a sensitivity window's end, a relock's end, gating and its end, the governor's step
with P moving by at most SLEW, scrubs, self-tests, expiring hints, pins that end, power-on and reset. The model's choices, or its
readings, in this: that a ratio outside its range moves into it in one change, and how the governor keeps P (log entry 46); what
power-on and reset keep, and the boot reply (log entries 70 and 121); that memory at power-on reads as 0 (log entry 1). -/
def Obligations.PowerSteps : Prop :=
  (∀ s core, core < s.cores.length → core < 288 → (coreAt s core).renewIn = 0 →
    ∃ t, exec (.bandRenewal core) s = .next t ∧ t.mem = s.mem ∧
      (coreAt t core).band = min (coreAt s core).band (coreAt s core).bandMax ∧ (coreAt t core).renewIn = 512) ∧
  (∀ s die dt, die < 4 → s.boot ≠ .off → ∃ t, exec (.clusterCycle die dt) s = .next t ∧ t.mem = s.mem ∧
    t.time = s.time + dt ∧ (∀ cl < s.clusters.length, (clusterAt t cl).cycle =
      if cl / 12 = die then (clusterAt s cl).cycle + 1 else (clusterAt s cl).cycle) ∧
    (∀ core < s.cores.length, (coreAt s core).balance ≤ (coreAt t core).balance ∧
      (coreAt t core).balance ≤ max (coreAt s core).balance (min (2 ^ 20) ((coreAt s core).balance + (coreAt s core).allot)))) ∧
  (∀ s die, die < 4 → ∃ t, exec (.clockStretch die) s = .next t ∧ t.mem = s.mem ∧ t.cores = s.cores ∧
    t.clusters = s.clusters ∧ t.time = s.time) ∧
  (∀ s core base size, core < 288 → core < s.cores.length → (coreAt s core).sampctl.getLsbD 0 = true →
    (coreAt s core).sampIn = 0 → (coreAt s core).ring = some (base, size) → size ≠ 0 →
    (memLe s.mem base 4 + 2 ^ 32 - memLe s.mem (base + 4) 4) % 2 ^ 32 < size → Memory.wf s.mem →
    trainAt s core (coreAt s core).sampSlot = none → nth none (coreAt s core).lastEnd (coreAt s core).sampSlot = none →
    UserSlot s core (coreAt s core).sampSlot → (∀ x, (coreAt s core).issued = some x → x.1.slot ≠ (coreAt s core).sampSlot) →
    let head := memLe s.mem base 4
    let rec_ := base + 64 + 32 * (head % size)
    (∀ g, g = base / 64 ∨ g = (base + 3) / 64 ∨ g = rec_ / 64 ∨ g = (rec_ + 31) / 64 → g ∉ s.latent) →
    ∃ t, exec (.sample core) s = .next t ∧ memLe t.mem base 4 = (head + 1) % 2 ^ 32 ∧
      memLe t.mem rec_ 8 = s.time % 2 ^ 64 ∧ memLe t.mem (rec_ + 8) 20 = 0 ∧ memLe t.mem (rec_ + 28) 1 = 0x1E ∧
      memLe t.mem (rec_ + 29) 1 = (coreAt s core).sampSlot % 256 ∧
      memLe t.mem (rec_ + 30) 2 = (core % 6 + core / 6 * 8) % 2 ^ 16 ∧
      (coreAt t core).sampSlot = ((coreAt s core).sampSlot + 1) % 12 ∧
      (coreAt t core).sampIn = 2 ^ ((coreAt s core).sampctl.toNat / 2 % 2 ^ 5)) ∧
  (∀ s core base size, core < 288 → core < s.cores.length → (coreAt s core).sampctl.getLsbD 0 = true →
    (coreAt s core).sampIn = 0 → (coreAt s core).ring = some (base, size) → size ≠ 0 →
    (memLe s.mem base 4 + 2 ^ 32 - memLe s.mem (base + 4) 4) % 2 ^ 32 < size → Memory.wf s.mem →
    let k := coreAt s core
    let slot := k.sampSlot
    let rec_ := base + 64 + 32 * (memLe s.mem base 4 % size)
    UserSlot s core slot →
    (∀ g, g = base / 64 ∨ g = (base + 3) / 64 ∨ g = rec_ / 64 ∨ g = (rec_ + 31) / 64 → g ∉ s.latent) →
    ∃ t, exec (.sample core) s = .next t ∧ memLe t.mem base 4 = (memLe s.mem base 4 + 1) % 2 ^ 32 ∧
      (∀ r pc mask, k.issued = some (r, pc, mask) → r.slot = slot →
        RecordIs t.mem rec_ s.time core slot pc mask 0 r.handler r.entry) ∧
      ((∀ x, k.issued = some x → x.1.slot ≠ slot) →
        (∀ e, trainAt s core slot = none → nth none k.lastEnd slot = some e →
          RecordIs t.mem rec_ s.time core slot e.pc e.mask 0x1F false e.entry) ∧
        ∀ u, trainAt s core slot = some u →
          (∀ how e, u.ended = some how → u.endReport = some e →
            RecordIs t.mem rec_ s.time core slot e.pc e.mask (if how = .byTail then 0x18 else 0x1F) false e.entry) ∧
          ∀ e h p, u.ended = none → Reported u e h p →
            RecordIs t.mem rec_ s.time core slot p.pc p.mask
              (reasonRow k.relock (u.preempt.isSome && (!h || handlerQuiet u)) p) h e)) ∧
  (∀ s core, core < 288 → core < s.cores.length → core / 6 < s.clusters.length → core % 6 ≠ 5 →
    (coreAt s core).winEnd ≤ s.time →
    let k := coreAt s core
    let policy := (clusterAt s (core / 6)).policy.toNat
    let lo := policy / 2 ^ 16 % 2 ^ 4
    let hi := policy / 2 ^ 20 % 2 ^ 4
    let n := (clusterAt s (core / 6)).ratio.toNat / 2 ^ (4 * (core % 6)) % 2 ^ 4
    let all := k.iss + k.isl + k.mem
    let sens := if all = 0 then 0 else min 255 (256 * (k.iss + k.isl) / all)
    let want := if policy.testBit 24 = false then hi else if n < lo then lo else if hi < n then hi
      else if sens < policy % 2 ^ 8 ∧ lo < n then n - 1 else if policy / 2 ^ 8 % 2 ^ 8 ≤ sens ∧ n < hi then n + 1 else n
    ∃ t, exec (.sensitivityWindowEnd core) s = .next t ∧ t.mem = s.mem ∧
      (clusterAt t (core / 6)).ratio.toNat / 2 ^ (4 * (core % 6)) % 2 ^ 4 = want ∧
      (coreAt t core).relock = (if want = n then k.relock else true) ∧ (coreAt t core).iss = 0 ∧ (coreAt t core).isl = 0 ∧
      (coreAt t core).mem = 0 ∧ (coreAt t core).winEnd = k.winEnd + 100000) ∧
  (∀ s core, core < s.cores.length → (coreAt s core).relock = true → ∃ t, exec (.ratioRelockDone core) s = .next t ∧
    (coreAt t core).relock = false ∧ ((∀ slot u, trainAt s core slot = some u → Untrapped u ∧
      ∀ h p, u.handler = some h → some p ∈ h.paths → p.trapDue = none) → t.mem = s.mem)) ∧
  (∀ s cl since, cl < 48 → cl < s.clusters.length → (clusterAt s cl).gate = .on → (clusterAt s cl).idleFrom = some since →
    let power := (dieAt s (cl / 12)).power.toNat
    power.testBit 24 = true → since + 1000 * (power / 2 ^ 8 % 2 ^ 16) ≤ s.time → (∀ c ∈ s.crews, c.cluster ≠ cl) →
    (∀ x ∈ s.l1, x.core / 6 = cl → x.granule ∉ s.latent) →
    ∃ t, exec (.gateStart cl) s = .next t ∧ t.mem = s.mem ∧ (clusterAt t cl).gate = .gating ∧
      (∀ x ∈ t.l1, x.core / 6 = cl → x.core % 6 = 5) ∧
      ∀ core < s.cores.length, (coreAt t core).gated = if core / 6 = cl ∧ core % 6 ≠ 5 then true else (coreAt s core).gated) ∧
  (∀ s cl, (clusterAt s cl).gate = .gating → ∃ t, exec (.gateComplete cl) s = .next t ∧ t.mem = s.mem ∧
    (clusterAt t cl).gate = .gated ∧ ∀ core < s.cores.length, core / 6 = cl → core % 6 ≠ 5 → (coreAt t core).tlb = [] ∧
      (coreAt t core).upper = [] ∧ (coreAt t core).icache = [] ∧ (coreAt t core).constants = [] ∧ (coreAt t core).tiles = [] ∧ (coreAt t core).balance = 0) ∧
  (∀ s cl, (clusterAt s cl).gate = .ungating → ∃ t, exec (.ungateComplete cl) s = .next t ∧ t.mem = s.mem ∧
    (clusterAt t cl).gate = .on ∧ (∀ c ∈ t.crews, c.cluster = cl → c.awaitGate = false) ∧
    ∀ core < s.cores.length, core / 6 = cl → core % 6 ≠ 5 → (coreAt t core).gated = false ∧ (coreAt t core).balance = 0) ∧
  (∀ s trip, s.govAt ≤ s.time → s.boot ≠ .off →
    let slew := 10 ^ 6 * (s.rampset.toNat % 2 ^ 8)
    ∃ t, exec (.governorStep trip) s = .next t ∧ t.mem = s.mem ∧ t.govAt = s.govAt + 1000 ∧
      t.rate ≤ s.rate + slew ∧ s.rate ≤ t.rate + slew ∧ (trip = true → s.govAt ≠ 0 → t.gov = .falling) ∧
      (s.bank ≤ 1200 * 10 ^ 9 → t.bank ≤ 1200 * 10 ^ 9) ∧
      (∀ k ∈ t.clusters, 6 ≤ k.curbud ∧ k.curbud ≤ 63) ∧
      ∀ x, x ∈ t.intents ↔ x ∈ s.intents ∧ (s.govAt : Int) ≤ x.start + 20000) ∧
  (∀ s die, die < 4 → die < s.dies.length → let g := nextScrub (dieAt s die) die
    ∃ t, exec (.scrubPass die g) s = .next t ∧ g ∉ t.correct ∧
      (dieAt t die).scrubAt = g + 1 ∧ (g ∈ s.latent → g ∈ t.logged) ∧ (g ∉ s.latent → t.mem = s.mem) ∧
      ((∀ base size, s.control.errLog = some (base, size) → base / 64 ∉ s.latent ∧
        ∀ i < 32 * size, (base + 64 + i) / 64 ∉ s.latent) → t.latent = s.latent ∧ t.poison = s.poison)) ∧
  (∀ s die h, die < 4 → h ∈ (dieAt s die).hints → h.2 + 100000 < s.time → ∃ t, exec (.prefetchHintExpiry die) s = .next t ∧
    t.mem = s.mem ∧ ∀ x, x ∈ (dieAt t die).hints ↔ x ∈ (dieAt s die).hints ∧ s.time ≤ x.2 + 100000) ∧
  (∀ s core lane failed, core < 288 → lane < 96 → (clusterAt s (core / 6)).gate = .on →
    ∃ t, exec (.selfTestPattern core lane failed) s = .next t ∧ (failed = false → t = s) ∧
      (failed = true → t.badLanes = (core, lane) :: s.badLanes ∧ t.remapped = s.remapped)) ∧
  (∀ s asid va x n k w bits, (s.thrash.find? fun y => y.asid == asid && y.page == va.toNat && y.pinned.isSome) = some x →
    x.pinned = some n → n + 1000000 * (s.migCtl.toNat / 2 ^ 16) ≤ s.time → leafOf s asid va = some (k, w, bits) →
    w.testBit 8 = true → Clean s k 8 → Memory.wf s.mem →
    ∃ t, exec (.thrashUnpin asid va) s = .next t ∧ SameMemBut s.mem t.mem k 8 ∧ memLe t.mem k 8 = w - 256) ∧
  (∀ s die v, die < 4 → die < s.dies.length → ∃ t, exec (.ageindUpdate die v) s = .next t ∧ t.mem = s.mem ∧
    (dieAt t die).ageind = v) ∧
  (∀ s, ∃ t, exec .powerOn s = .next t ∧ t.mem = [] ∧ t.bank = 0 ∧ t.boot = .held ∧ t.cores = State.reset.cores ∧
    t.badLanes = s.badLanes ∧ t.remapped = s.badLanes) ∧
  ∀ s info, s.boot ≠ .off → bootOk info = true → ∃ t, exec (.packageReset info) s = .next t ∧ t.bank = s.bank ∧
    t.cores = State.reset.cores ∧ t.clusters = State.reset.clusters ∧ t.time = 0 ∧ t.remapped = s.badLanes ∧
    (info.slotA = true ∨ info.slotB = true → t.boot = .running ∧ t.pkgId = info.pkgId ∧ t.routes = info.routes ∧
      t.tier = info.tier) ∧
    (info.slotA = false → info.slotB = false → t.boot = .recovery ∧ t.mem = [])

namespace Sys2Proof.Machine

/-- A port takes packets: its link is up, and its die's bucket stands above the floor (R362, R396). -/
def PortOpen (s : State) (port : Nat) : Prop :=
  (nth ⟨false, 0, false⟩ s.ports port).up = true ∧ -(2 ^ 26 : Int) < (dieAt s (port / 4)).bucket

/-- Packets of a peer reach this package: it has a route that is not lost, through a port that takes them (R396, R405). -/
def Reaches (s : State) (peer : Nat) : Prop :=
  routeValid s peer = true ∧ routeLost s peer = false ∧ PortOpen s (routePort s peer)

/-- An answer can come: the package makes it itself, the peer being lost, or its port's die can pay for it (R362, R409). -/
def AnswerComes (s : State) (peer port : Nat) (o : RemoteOutcome) : Prop :=
  (o = .lost ∧ routeLost s peer = true) ∨ -(2 ^ 26 : Int) < (dieAt s (port / 4)).bucket

/-- No granule of a line has an error that a read or a merge would find. -/
def LineClean (s : State) (line : Nat) : Prop := ∀ i < 4, 4 * line + i ∉ s.poison ∧ 4 * line + i ∉ s.latent

/-- No port has failed. -/
def PortsWork (s : State) : Prop := ∀ p, (portAt s p).failed = false

/-- What a depot's notice does to the route tables: the entries it chooses take the choice's PORT, ALTPORT, VALID and ALTV, and a
group's entry too; every other entry stays, and LOST of every index but the notice's (R397). -/
def RoutesFollow (s t : State) (peer : Nat) (routes groups : List (Nat × BitVec 10)) : Prop :=
  (∀ i w, (i, w) ∈ s.routes → ∃ w', (i, w') ∈ t.routes ∧
    (i ≠ peer → w'.getLsbD 10 = w.getLsbD 10) ∧ w'.toNat / 2 ^ 11 = w.toNat / 2 ^ 11 ∧
    match routes.find? fun c => c.1 == i with
    | some c => w'.toNat % 2 ^ 10 = c.2.toNat
    | none => w'.toNat % 2 ^ 10 = w.toNat % 2 ^ 10) ∧
  ∀ i w, (i, w) ∈ s.groupRoutes → ∃ w', (i, w') ∈ t.groupRoutes ∧
    match groups.find? fun c => c.1 == i with
    | some c => w'.toNat % 2 ^ 10 = c.2.toNat
    | none => w' = w

/-- What the depots' choice that comes with a notice does, where it may be taken; the choice is a free value (log entry 120). -/
def NoticeFollowed (s t : State) (peer : Nat) : Prop :=
  let x := Config.depotChoice s.free
  (choiceOk s x.1 x.2 = true → RoutesFollow s t peer x.1 x.2) ∧ (choiceOk s x.1 x.2 = false → RoutesFollow s t peer [] [])

/-- Two memories agree but for a line's masked bytes, which hold the data. -/
def LineWritten (m m' : List Host.Cell) (line : Nat) (mask : BitVec 256) (data : List Byte) : Prop :=
  ∀ a, memRead m' a = if a / 256 = line ∧ mask.getLsbD (a % 256) = true then nth 0 data (a % 256) else memRead m a

end Sys2Proof.Machine

/-- R396-R418: what the fabric's steps do. A home answers what it refuses with the outcome and no effect, and what it accepts with
the line's bytes or after writing them; an STN is answered once, when its item is appended or it is refused; the answers to the
package's own requests end them, reporting a store's failure; links and peers are lost and return, and the depots' notices
choose ports anew, by a free choice (log entry 120). The answers' flits, what a failover does to ALTV, and which answer an STN
takes whose packets fared differently are the model's choices (log entries 61, 62 and 122). -/
def Obligations.FabricSteps : Prop :=
  (∀ s src tag line sectors, Reaches s src → line < 2 ^ 44 → sectors ≠ 0 →
    (∀ o, homeRefuses s line 2 = some o → ∃ t, exec (.remoteReadRequest src tag line sectors) s = .next t ∧ t.mem = s.mem ∧
      Leaves s t (routePort s src) 1 (.readResp src tag o [])) ∧
    (homeRefuses s line 2 = none → LineClean s line → ∃ t, exec (.remoteReadRequest src tag line sectors) s = .next t ∧
      t.mem = s.mem ∧ let secs := (List.range 4).filter fun i => sectors.getLsbD i
        Leaves s t (routePort s src) (1 + secs.length) (.readResp src tag .performed
          (secs.flatMap fun i => memBytes s.mem (line * 256 + 64 * i) 64)))) ∧
  (∀ s src tag line mask data, Reaches s src → line < 2 ^ 44 → mask ≠ 0 → data.length = 256 →
    (∀ o, homeRefuses s line 4 = some o → ∃ t, exec (.remoteWritePacket src tag line mask data) s = .next t ∧ t.mem = s.mem ∧
      Leaves s t (routePort s src) 1 (.writeAck src tag o)) ∧
    (homeRefuses s line 4 = none → LineClean s line → Memory.wf s.mem →
      ∃ t, exec (.remoteWritePacket src tag line mask data) s = .next t ∧ LineWritten s.mem t.mem line mask data ∧
        Leaves s t (routePort s src) 1 (.writeAck src tag .performed))) ∧
  (∀ s src tag stn line mask data list item last, Reaches s src → line < 2 ^ 44 → mask ≠ 0 → data.length = 256 → list < 4096 →
    (∀ n ∈ s.notifies, n.src = src → n.stn ≠ stn) →
    (∃ t, exec (.notifyWriteReceive src tag stn line mask data list item last) s = .next t) ∧
    (∀ i x, exportFor s line = some (i, x) → x.perm.testBit 3 = true → listOk s x.asid list = true →
      homeRefuses s line 12 = none → LineClean s line → Memory.wf s.mem →
      ∃ t n, exec (.notifyWriteReceive src tag stn line mask data list item last) s = .next t ∧
        LineWritten s.mem t.mem line mask data ∧ t.outbox = s.outbox ∧ t.portQ = s.portQ ∧ t.notifies = s.notifies ++ [n] ∧ n.src = src ∧
        n.stn = stn ∧ n.asid = x.asid ∧ n.list = list ∧ n.ok = true ∧ n.last = last ∧ n.tag = tag ∧ n.line = line ∧ n.answer = .performed ∧
        n.item.toNat = src % 2 ^ 12 + i * 2 ^ 12 + item % 2 ^ 16 * 2 ^ 20 + (line * 256 - x.base) / 256 * 2 ^ 36) ∧
    (exportFor s line = none → last = true → ∃ t, exec (.notifyWriteReceive src tag stn line mask data list item last) s = .next t ∧
      t.mem = s.mem ∧ t.notifies = s.notifies ∧ Leaves s t (routePort s src) 1 (.writeAck src tag .refused)) ∧
    ∀ i x, exportFor s line = some (i, x) → listAt s list = none ∨ listOk s x.asid list = false ∨ x.perm.testBit 3 = false →
      last = false → ∃ t n, exec (.notifyWriteReceive src tag stn line mask data list item last) s = .next t ∧ t.mem = s.mem ∧
        t.outbox = s.outbox ∧ t.portQ = s.portQ ∧ t.notifies = s.notifies ++ [n] ∧ n.ok = false ∧ n.all = false ∧
        n.answer = .refused) ∧
  (∀ s src stn n line mask data item last, Reaches s src → line < 2 ^ 44 → mask ≠ 0 → data.length = 256 → n.list < 4096 →
    (s.notifies.find? fun x => x.src == src && x.stn == stn) = some n → n.last = false → n.line < line →
    let i : Instr := .notifyWriteReceive src n.tag stn line mask data n.list item last
    (last = true → n.ok = false → n.all = false → ∃ t, exec i s = .next t ∧ t.mem = s.mem ∧
      (∀ x ∈ t.notifies, ¬ (x.src = src ∧ x.stn = stn)) ∧ Leaves s t (routePort s src) 1 (.writeAck n.src n.tag n.answer)) ∧
    (n.ok = true → n.all = true → homeRefuses s line 12 = none → LineClean s line → Memory.wf s.mem →
      ∃ t, exec i s = .next t ∧ LineWritten s.mem t.mem line mask data ∧ t.outbox = s.outbox ∧ t.portQ = s.portQ ∧
        { n with last := last, line := line } ∈ t.notifies)) ∧
  (∀ s cl a, Reaches s a.src → a.addr < tierBase → cl = ownerOf s a.addr → a.op ≤ 13 → a.bytes = 4 ∨ a.bytes = 8 →
    a.addr % a.bytes = 0 → (∀ q ∈ (clusterAt s cl).svc, reqLine q ≠ (false, a.addr / 256)) →
    (∀ o, homeRefuses s (a.addr / 256) 4 = some o → ∃ t, exec (.atomicRequest cl 0 (some a)) s = .next t ∧ t.mem = s.mem ∧
      Leaves s t (routePort s a.src) 1 (.atomicResp a.src a.tag o 0)) ∧
    (homeRefuses s (a.addr / 256) 4 = none → a.op = 12 → Clean s a.addr a.bytes → Memory.wf s.mem →
      let old := memLe s.mem a.addr a.bytes
      ∃ t, exec (.atomicRequest cl 0 (some a)) s = .next t ∧ SameMemBut s.mem t.mem a.addr a.bytes ∧
        memLe t.mem a.addr a.bytes = (if old = a.b.toNat % 2 ^ (8 * a.bytes) then a.c.toNat % 2 ^ (8 * a.bytes) else old) ∧
        Leaves s t (routePort s a.src) 1 (.atomicResp a.src a.tag .performed (BitVec.ofNat 64 old)))) ∧
  (∀ s src stn n l, (s.notifies.find? fun x => x.src == src && x.stn == stn) = some n → n.ok = true → n.last = true →
    listAt s n.list = some l → l.tail - l.head < 2 ^ l.k → Clean s (l.ring + 8 * (l.tail % 2 ^ l.k)) 8 → Memory.wf s.mem →
    routeLost s src = false →
    ∃ t, exec (.notifyItemAppend src stn) s = .next t ∧
      memLe t.mem (l.ring + 8 * (l.tail % 2 ^ l.k)) 8 = n.item.toNat ∧
      SameMemBut s.mem t.mem (l.ring + 8 * (l.tail % 2 ^ l.k)) 8 ∧ listAt t n.list = some { l with tail := l.tail + 1 } ∧
      Leaves s t (routePort s src) 1 (.writeAck src n.tag n.answer) ∧
      ∀ x ∈ t.notifies, ¬ (x.src = src ∧ x.stn = stn)) ∧
  (∀ s port tag ix off data, PortOpen s port → ix < 256 → data.length = 256 →
    (exportAt s ix = none → ∃ t, exec (.multicastReceive port tag ix off data) s = .next t ∧ t.mem = s.mem ∧
      Leaves s t port 1 (.memberAck tag 1)) ∧
    ∀ x, exportAt s ix = some x → x.base % 256 = 0 → 256 * off + 256 ≤ x.size →
      homeRefuses s (x.base / 256 + off) 4 = none → (∀ i < 4, x.base / 64 + 4 * off + i ∉ s.latent) → Memory.wf s.mem →
      ∃ t, exec (.multicastReceive port tag ix off data) s = .next t ∧
        LineWritten s.mem t.mem (x.base / 256 + off) (BitVec.allOnes 256) data ∧ Leaves s t port 1 (.memberAck tag 0)) ∧
  (∀ s id codes o, (s.mcsts.find? fun x => x.id == id) = some o → o.sent = true → -(2 ^ 26 : Int) < (dieAt s (o.port / 4)).bucket → 1 ≤ codes.length → codes.length ≤ 4096 →
    ∃ t, exec (.multicastAckReceive id codes) s = .next t ∧ ∀ x ∈ t.mcsts, x.id ≠ id) ∧
  (∀ s id o data q, (s.remotes.find? fun x => x.id == id) = some q →
    AnswerComes s q.peer q.port o →
    let read : Prop := o = .performed ∧ q.isAtomic = false
    (read → data.length = 64 * ((List.range 4).filter fun i => q.sectors.getLsbD i).length) → (¬ read → data.length ≤ 8) →
    (∃ t, exec (.remoteResponse id o data) s = .next t) ∧
    ∀ r pend lane off va kill dests size sx p, q.use = .load r pend [⟨lane, va, off, kill⟩] dests size sx → o = .performed →
      (∀ k ∈ s.clusters, k.svc = []) → (∀ x ∈ s.remotes, x.id ≠ id → ¬ (x.core = q.core ∧ x.txn = q.txn)) →
      pathAt s r = some p → 0 < size → off / 64 < 4 → q.sectors.getLsbD (off / 64) = true → off % 64 + size ≤ 64 →
      let place := ((List.range (off / 64)).filter fun i => q.sectors.getLsbD i).length
      ∃ t p', exec (.remoteResponse id o data) s = .next t ∧ t.mem = s.mem ∧ (∀ x ∈ t.remotes, x.id ≠ id) ∧
        pathAt t r = some p' ∧ p'.pending = p.pending.map fun x => if x.id = pend then { x with
          writes := x.writes ++ regWrites dests lane (datumRule sx size (leNat ((data.drop (64 * place + off % 64)).take size))),
          awaiting := x.awaiting.filter (· != id) } else x) ∧
  (∀ s core id e, (((coreAt s core).wc.take 64).find? fun x => x.id == id) = some e → e.draining = false →
    e.created + 250 * (s.fabCtl.toNat % 2 ^ 6) ≤ s.time →
    ∃ t e', exec (.wcAgeDrain core id) s = .next t ∧ t.mem = s.mem ∧ e' ∈ (coreAt t core).wc ∧ e'.id = id ∧ e'.draining = true) ∧
  (∀ s core id e o, ((coreAt s core).wc.find? fun x => x.id == id) = some e → e.sent = true →
    AnswerComes s e.peer (routePort s e.peer) o →
    ∃ t, exec (.wcAck core id o) s = .next t ∧ t.mem = s.mem ∧ (∀ x ∈ (coreAt t core).wc, x.id ≠ id) ∧
      ∀ r u p reason, trainAt s r.core r.slot = some u → pathAt s r = some p → p.uid ∈ e.holders → failReason o = some reason →
        ∃ p', pathAt t r = some p' ∧ p'.reports = p.reports ++ [⟨e.peer, e.line, reason, 1⟩]) ∧
  (∀ s id w o, (s.outWrites.find? fun x => x.id == id) = some w → AnswerComes s w.peer w.port o →
    ∃ t, exec (.writeAcknowledgement id o) s = .next t ∧ t.mem = s.mem ∧ (∀ x ∈ t.outWrites, x.id ≠ id) ∧
      ∀ r p reason, pathAt s r = some p → p.uid ∈ w.holders → failReason o = some reason → w.kind = 0 ∨ w.kind = 1 →
        ∃ p', pathAt t r = some p' ∧ p'.reports = p.reports ++ [⟨w.peer, w.line, reason, if w.kind = 0 then 3 else 1⟩]) ∧
  (∀ s port, port < s.ports.length → (portAt s port).up = true → ∃ t, exec (.fabricLinkLoss port) s = .next t ∧ t.mem = s.mem ∧
    (portAt t port).up = false ∧ (portAt t port).downAt = s.time) ∧
  (∀ s port, port < 16 → port < s.ports.length → (portAt s port).up = false → ∃ t, exec (.fabricLinkReturn port) s = .next t ∧
    t.mem = s.mem ∧ (portAt t port).up = true ∧ (portAt t port).failed = false) ∧
  (∀ s port, PortOpen s port → ∃ t, exec (.damagedFlit port) s = .next t ∧ t.mem = s.mem ∧ t.cores = s.cores ∧
    t.outbox = s.outbox) ∧
  (∀ s port, port < 16 → port < s.ports.length → (portAt s port).up = false → (portAt s port).failed = false →
    (portAt s port).downAt + 10000 ≤ s.time → ∃ t, exec (.portLinkDown port) s = .next t ∧ (portAt t port).failed = true ∧
      (∀ q ∈ t.remotes, q.port ≠ port ∨ q ∉ s.remotes) ∧
      ((∀ q ∈ s.remotes, q.port ≠ port) → (∀ k ∈ s.cores, k.wc = []) → (∀ w ∈ s.outWrites, w.port ≠ port) → s.mcsts = [] →
        (∀ g ∈ s.groups, g.inside = false) → t.portQ = s.portQ.filter fun x => x.1 != port) ∧
      ∀ i w, (i, w) ∈ s.routes → w.getLsbD 8 = true → w.toNat % 2 ^ 4 = port →
        let alt := w.toNat / 2 ^ 4 % 2 ^ 4
        let works : Prop := w.getLsbD 9 = true ∧ alt ≠ port ∧ (portAt s alt).failed = false
        (works → ∃ w', (i, w') ∈ t.routes ∧ w'.toNat % 2 ^ 4 = alt ∧ w'.getLsbD 9 = false) ∧
        (¬ works → ∃ w', (i, w') ∈ t.routes ∧ w'.getLsbD 10 = true)) ∧
  (∀ s peer, Reaches s peer → ∃ t, exec (.lossNotice peer) s = .next t ∧ routeLost t peer = true ∧
    (∀ x ∈ t.portQ, x.2.2.towards ≠ some peer) ∧ (PortsWork s → t.mem = s.mem ∧ NoticeFollowed s t peer)) ∧
  ∀ s peer, routeValid s peer = true → routeLost s peer = true → PortOpen s (routePort s peer) →
    ∃ t, exec (.admissionNotice peer) s = .next t ∧ routeLost t peer = false ∧
      (PortsWork s → t.mem = s.mem ∧ NoticeFollowed s t peer)

namespace Sys2Proof.Machine

/-- A ring's record that the conductor is at (R387, R389): it is awake, no TLBI of its own is under way, the inbound ring
holds a message, the reply ring has room; the bytes are the message's 64, or the old form of a message written again where
that one is handled. -/
def RecordAt (s : State) (b : List Byte) : Prop :=
  let r (off : Nat) : Nat := memLe s.mem (ctlBase + off) 4
  s.boot = .running ∧ s.control.awake = true ∧ (∀ x ∈ s.shoots, x.who ≠ none) ∧ r 0 ≠ r 4 ∧
    (r 0x100000 + 2 ^ 32 - r 0x100004) % 2 ^ 32 < r 0x100008 ∧
    b = match s.control.forms.find? fun x => x.1 == r 4 % r 8 with
      | some x => x.2
      | none => memBytes s.mem (ctlBase + 64 + 64 * (r 4 % r 8)) 64

/-- A message that the conductor has not begun. -/
def MessageAt (s : State) (b : List Byte) : Prop := RecordAt s b ∧ s.control.owed = none

/-- A message of a TYPE whose reserved bytes 5 to 7 are zero (R387). -/
def MessageOf (s : State) (ty : Nat) (b : List Byte) : Prop :=
  MessageAt s b ∧ leAt b 4 1 = ty ∧ leAt b 5 3 = 0

/-- Message `k`, the inbound ring's TAIL, is answered (R387, R389): its SEQ, STATUS, CAUSE and RESULT stand in reply `k`, the reply
ring's HEAD and the inbound TAIL have moved past it. -/
def Answered (s t : State) (b : List Byte) (status cause : Nat) (result : List Byte) : Prop :=
  let r (m : List Host.Cell) (off : Nat) : Nat := memLe m (ctlBase + off) 4
  let slot := 0x100000 + 64 + 32 * (r s.mem 4 % r s.mem 0x100008)
  memLe t.mem (ctlBase + slot) 4 = leAt b 0 4 ∧ memLe t.mem (ctlBase + slot + 4) 4 = status ∧
  memLe t.mem (ctlBase + slot + 8) 4 = cause ∧
  memBytes t.mem (ctlBase + slot + 12) 20 = (result ++ List.replicate 20 0).take 20 ∧
  r t.mem 0x100000 = (r s.mem 4 + 1) % 2 ^ 32 ∧ r t.mem 4 = (r s.mem 4 + 1) % 2 ^ 32

/-- The reply ring has its place in the control window, beside the inbound ring (R389). -/
def RingsFit (s : State) : Prop :=
  Memory.wf s.mem ∧ memLe s.mem (ctlBase + 0x100008) 4 ≤ 8192

/-- The port towards a group's root depot, that of its depot group, takes messages: its die's bucket stands above the floor (R207,
R362, R397, R426). -/
def GroupOpen (s : State) (g : Group) : Prop := -(2 ^ 26 : Int) < (dieAt s (groupPort s g.dgrp / 4)).bucket

/-- A message of a group leaves through the port of its depot group, or waits there; nothing leaves a port that has failed (R362,
R397, R434). -/
def GroupSends (s t : State) (g : Group) (flits : Nat) (m : OutMsg) : Prop :=
  let port := groupPort s g.dgrp
  ((nth ⟨false, 0, false⟩ s.ports port).failed = false → Leaves s t port flits m) ∧
  ((nth ⟨false, 0, false⟩ s.ports port).failed = true → t.outbox = s.outbox ∧ t.portQ = s.portQ)

/-- What R431's fixed tree over `n` ranks from `b` on gives: a rank that is not live has no operand, and a node with one operand
gives that one. -/
inductive TreeGives (node : Nat → Nat → Nat) (leaf : Nat → Option Nat) : Nat → Nat → Option Nat → Prop
  | one (b : Nat) : TreeGives node leaf b 1 (leaf b)
  | more (b n k : Nat) (x y : Option Nat) : 2 ^ k < n → n ≤ 2 * 2 ^ k → TreeGives node leaf b (2 ^ k) x →
      TreeGives node leaf (b + 2 ^ k) (n - 2 ^ k) y →
      TreeGives node leaf b n (match x, y with
        | some x, some y => some (node x y)
        | some x, none => some x
        | none, y => y)

/-- The type of a tree's nodes: FP16 and BF16 sum in FP32 (R431). -/
def combTy (red : Nat) (t : ETy) : ETy := if (red = 0 ∨ red = 3) ∧ (t = .fp16 ∨ t = .bf16) then .fp32 else t

/-- A node of the tree: RED 1 is MIN, RED 2 MAX, SUM and AVG add (R431). -/
def combRule (red : Nat) (t : ETy) (x y : Nat) : Nat :=
  let w := tyBits t
  let sg := tySigned t
  if t = .fp64 ∨ t = .fp32 ∨ t = .fp16 ∨ t = .bf16 then
    if red = 1 ∨ red = 2 then (fMinMax (red == 2) t FEnv.nearest x y).1
    else (fAddSub false (combTy red t) FEnv.nearest 0 x y).1
  else if red = 1 then (if viewNum sg w y < viewNum sg w x then y else x)
  else if red = 2 then (if viewNum sg w x < viewNum sg w y then y else x)
  else (x + y) % 2 ^ w

/-- What an element `v` of a result is, where the tree gives `x`: that, or rounded once to the type: AVG is divided by the live ranks,
and a floating SUM under REWEIGHT is scaled to all members (R431). -/
def CombOut (g : Group) (red : Nat) (t : ETy) (x v : Nat) : Prop :=
  let scaled : Prop := red = 0 ∧ t ∈ [ETy.fp64, .fp32, .fp16, .bf16] ∧ g.policy = 1 ∧ g.nlive < g.m
  (red ≠ 3 → ¬ scaled → combTy red t = t → v = x) ∧
  (red = 3 ∨ scaled ∨ combTy red t ≠ t → IsFin (decF (combTy red t) x) →
    ∀ q : ℚ, (scaled → q = numOf (decF (combTy red t) x) * g.m / g.nlive) →
      (red = 3 → q = numOf (decF (combTy red t) x) / g.nlive) →
      (red ≠ 3 → ¬ scaled → q = numOf (decF (combTy red t) x)) →
      |q| ≤ numOf (decF t (maxMag t)) → RoundsTo t 0 (q : ℝ) v)

/-- What this member's receive bytes hold, for the contributions of the live ranks (R428, R431, R436). -/
def RecvHolds (g : Group) (o : CollOp) (con : Nat → Option CollSend) (rd : Nat → Byte) : Prop :=
  let t := ETy.ofCode o.ty
  let e := tyBits t / 8
  let n := o.count * tyBits t / 8
  (o.kind = 2 → ∀ r < g.m, ∀ i < n, match con r with
    | some x => rd (r * n + i) = nth 0 x.data i
    | none => ∀ b, nth none o.was (r * n + i) = some b → rd (r * n + i) = b) ∧
  (o.kind = 3 → ∀ x, con o.root = some x → ∀ i < n, rd i = nth 0 x.data i) ∧
  (o.kind < 2 → 1 ≤ e → o.red < 4 → (o.red = 3 → t ∈ [ETy.fp64, .fp32, .fp16, .bf16]) → ∀ i < o.count, ∃ x,
    TreeGives (combRule o.red t) (fun r => (con r).map fun y =>
        let z := leNat ((y.data.drop (((if o.kind = 1 then g.rank * o.count else 0) + i) * e)).take e)
        if combTy o.red t = t then z else (convert t .fp32 FEnv.nearest 0 0 false z).1) 0 g.m (some x) ∧
      CombOut g o.red t x (leNat ((List.range e).map fun j => rd (i * e + j))))

/-- The receive bytes of a COLL, and bytes 32 to 63 of its result block, have places of their own, whatever those places hold. -/
def RecvPlaces (s : State) (o : CollOp) (n : Nat) (key : Nat → Nat) (kb : Nat) : Prop :=
  NoErrors s ∧ Steady s o.who.core o.asid (fun a => (∃ i < n, a = key i) ∨ (kb ≤ a ∧ a < kb + 32)) ∧
  (∀ i < n, checkLane s o.who.core o.asid false .write 1 (o.recv + BitVec.ofNat 64 i) = .ok (key i)) ∧
  (∀ i < n, ∀ j < n, key i = key j → i = j) ∧ (∀ i < n, key i < kb ∨ kb + 32 ≤ key i) ∧
  checkLane s o.who.core o.asid false .write 32 (o.block + 32) = .ok kb

/-- The stagger of a rank in ns (R445): its low twelve bits reversed, times SPREAD, times 1,000, over 4,096. -/
def staggerOf (rank spread : Nat) : Nat :=
  ((List.range 12).map fun i => if rank.testBit i then 2 ^ (11 - i) else 0).sum * spread * 1000 / 4096

end Sys2Proof.Machine

/-- R426-R445: what the steps of collective groups do: an entry takes effect, a result is combined and written with its block, views are
proposed, acknowledged and installed, members are lost and join, FBAR phases are released, waits run out, intents arrive. What the bytes of a
slot whose rank is not live hold is the model's choice (log entry 89). -/
def Obligations.GroupSteps : Prop :=
  (∀ s id off bs, (s.applying.find? fun x => x.1 == id) = some (id, off, bs) → s.latent = [] →
    (∀ g, groupAt s id = some g → g.colls = [] ∧ g.arrivals = 0 ∧ g.arrPhase = g.phase ∧ g.held = 0 ∧ g.view ≠ .changing ∧
      g.ackedAt = none ∧ g.joiner = none) →
    ∃ t, exec (.groupEntryApply id) s = .next t ∧ t.mem = memPut s.mem (ctlBase + 0xF10000 + 64 * id + off) bs ∧
      t.applying = s.applying.erase (id, off, bs) ∧ (entryValid t id = false → groupAt t id = none) ∧
      (entryValid t id = true → ∃ g, groupAt t id = some g ∧ g.m = memLe t.mem (ctlBase + 0xF10000 + 64 * id) 2 ∧
        g.rank = memLe t.mem (ctlBase + 0xF10000 + 64 * id + 2) 2 ∧
        g.asid = memLe t.mem (ctlBase + 0xF10000 + 64 * id + 4) 2 ∧
        (groupAt s id = none → g.colls = [] ∧ g.view =
          if (memLe t.mem (ctlBase + 0xF10000 + 64 * id + 9) 1).testBit 1 then .joining else .stable))) ∧
  (∀ s id seq tag size sends g o, groupAt s id = some g → GroupOpen s g → tag = g.tag →
    (g.colls.find? fun x => x.started && x.sent && x.seq == seq && x.tag == tag && x.result.isNone) = some o →
    (depotRefuses size (viewSends g o sends)).isSome = true ∨
      (∀ r < g.m, g.alive r = true → (nth none (viewSends g o sends) r).isSome = true) →
    ∃ t, exec (.collResultReceive id seq tag size sends) s = .next t) ∧
  (∀ s id size sends g o key kb k, groupAt s id = some g → GroupOpen s g → g.colls = [o] → g.joiner = none →
    o.started = true → o.sent = true → o.tag = g.tag → o.result = none → o.atPage = false → o.failed = none →
    let con (r : Nat) : Option CollSend := if g.alive r then (if r = g.rank then o.mine else nth none sends r) else none
    (∀ r < g.m, g.alive r = true → ∃ x, con r = some x ∧ x.poisoned = false ∧ x.m = size ∧ x.kind = o.kind ∧ x.red = o.red ∧
      x.ty = o.ty ∧ x.count = o.count ∧ x.root = o.root) → (∃ r < g.m, g.alive r = true) →
    (∀ i < sendLen g o, sendChanged s o i = false) → (∀ x ∈ s.meddled, x.1 ≠ o.id) →
    rangesMeet o.send (sendLen g o) o.recv (recvLen g o) = false → RecvPlaces s o (recvLen g o) key kb →
    o.obj = some k → ownerOf s k < s.clusters.length → NoWaiter s o.id → Memory.wf s.mem →
    ∃ t, exec (.collResultReceive id o.seq g.tag size sends) s = .next t ∧
      (∀ g', groupAt t id = some g' → g'.colls = []) ∧ RecvHolds g o con (fun i => memRead t.mem (key i)) ∧
      memBytes t.mem kb 32 = leBytes 2 g.tag ++ leBytes 2 g.nlive ++ leBytes 4 o.seq ++ List.replicate 24 0 ∧
      (∀ a, (∀ i < recvLen g o, a ≠ key i) → a < kb ∨ kb + 32 ≤ a → memRead t.mem a = memRead s.mem a) ∧
      (clusterAt t (ownerOf s k)).svc = (clusterAt s (ownerOf s k)).svc ++ [.complete k 1 0 0 0 o.asid [(o.id, s.point)]]) ∧
  (∀ s id rank g, groupAt s id = some g → GroupOpen s g → g.inside = true → rank < g.m → rank ≠ g.rank →
    ∃ t g', exec (.membershipNotice id rank) s = .next t ∧ t.mem = s.mem ∧ groupAt t id = some g' ∧ rank ∈ g'.lost ∧
      g'.view = .changing) ∧
  (∀ s id tag mask leader g, groupAt s id = some g → GroupOpen s g → mask.length = g.m → nth false mask g.rank = true →
    nth false mask leader = true → leader ≠ g.rank → tag < 2 ^ 16 →
    ∃ t g', exec (.viewProposeReceive id tag mask leader) s = .next t ∧ t.mem = s.mem ∧ groupAt t id = some g' ∧
      (g.view = .stable → g'.view = .changing) ∧
      ((∀ r ∈ g.lost, nth false mask r = false) → GroupSends s t g 1 (.ack id tag leader) ∧ g'.propMask = mask ∧
        g'.leader = leader ∧ g'.ackedAt = some s.time) ∧
      (∀ r ∈ g.lost, nth false mask r = true →
        GroupSends s t g 1 (.nack id tag leader (g.lost.filter fun x => nth false mask x)))) ∧
  (∀ s id tag rank g, groupAt s id = some g → GroupOpen s g → g.view = .changing → g.leader = g.rank → g.proposed = tag →
    nth false g.propMask rank = true → rank ∉ g.acks →
    ∃ t g', exec (.viewAckReceive id tag rank) s = .next t ∧ t.mem = s.mem ∧ groupAt t id = some g' ∧ g'.acks = rank :: g.acks ∧
      ((∀ r, nth false g.propMask r = true → r ∈ rank :: g.acks) →
        GroupSends s t g 1 (.commit id tag g.propMask g.seq)) ∧
      ((∃ r, nth false g.propMask r = true ∧ r ∉ rank :: g.acks) → t.outbox = s.outbox ∧ t.portQ = s.portQ)) ∧
  (∀ s id tag lost g, groupAt s id = some g → GroupOpen s g → g.view = .changing → g.leader = g.rank → g.proposed = tag → lost ≠ [] →
    (∀ r ∈ lost, r < g.m ∧ r ≠ g.rank) → ∃ t g', exec (.viewNackReceive id tag lost) s = .next t ∧ t.mem = s.mem ∧
      groupAt t id = some g' ∧ ∀ r ∈ lost, r ∈ g'.lost) ∧
  (∀ s id tag mask next g, groupAt s id = some g → GroupOpen s g → g.view = .changing ∨ g.view = .joining → g.ackedAt.isSome = true →
    g.proposed = tag → g.propMask = mask → nth false mask g.rank = true → g.leader ≠ g.rank → next < 2 ^ 32 →
    (∃ t, exec (.viewCommit id tag mask [] next) s = .next t) ∧
    (g.colls = [] → g.joiner = none → g.held = 0 → g.view = .changing → (∀ r p, pathAt s r = some p → ∀ k, p.wake ≠ some (.fbar id k)) →
      ∃ t g', exec (.viewCommit id tag mask [] next) s = .next t ∧ t.mem = s.mem ∧ groupAt t id = some g' ∧ g'.tag = tag ∧
        g'.live = mask ∧ g'.view = .stable ∧ g'.seq = g.seq ∧ g'.arrivals = 0 ∧ g'.arrPhase = g'.phase)) ∧
  (∀ s id rank g, groupAt s id = some g → GroupOpen s g → g.inside = true → leads g = true → rank < g.m → g.alive rank = false →
    g.joiner = none → ∃ t g', exec (.joinReceive id rank) s = .next t ∧ t.mem = s.mem ∧ groupAt t id = some g' ∧
      ∃ b, g'.joiner = some (rank, b)) ∧
  (∀ s id tag g, groupAt s id = some g → g.inside = true → tag = g.tag → g.arrPhase ≠ g.phase →
    ∃ t g', exec (.fbarRelease id tag) s = .next t ∧ t.mem = s.mem ∧ groupAt t id = some g' ∧ g'.phase = (g.phase + 1) % 2 ^ 16 ∧
      ∀ r p, r.core < 288 → pathAt s r = some p → p.wake = some (.fbar id g.phase) → ∃ q, pathAt t r = some q ∧ Woken p q) ∧
  (∀ s id src ts watts g, groupAt s id = some g → GroupOpen s g → g.inside = true → watts < 2 ^ 16 →
    ∃ t, exec (.intentGDelivery id src ts watts) s = .next t ∧ t.mem = s.mem ∧
      let now := s.time
      let takes : Prop := s.rampset.getLsbD 28 = true ∧ watts ≤ 4 * (s.rampset.toNat / 2 ^ 8 % 2 ^ 10) ∧ now + 1000 ≤ ts.toNat ∧
        ts.toNat ≤ now + 10000000
      let held := s.intents.filter fun x => decide ((now : Int) ≤ x.start + 20000)
      (¬ takes → t.intents = s.intents) ∧
      (takes → (∀ x ∈ held, ¬ (x.src = src ∧ x.ts = ts.toNat ∧ x.watts = watts)) → held.length < 8 →
        t.intents = held ++ [⟨src, (ts.toNat : Int) - staggerOf g.rank g.spread, ts.toNat, watts⟩]) ∧
      (takes → (∃ x ∈ held, x.src = src ∧ x.ts = ts.toNat ∧ x.watts = watts) → t.intents = held)) ∧
  (∀ s id g since, groupAt s id = some g → g.view = .changing → g.ackedAt = some since → g.leader ≠ g.rank →
    since + 1000000 ≤ s.time → ∃ t g', exec (.commitTimeout id) s = .next t ∧ t.mem = s.mem ∧ groupAt t id = some g' ∧
      g.leader ∈ g'.lost) ∧
  ∀ s id r u p d since, pathAt s r = some p → trainAt s r.core r.slot = some u → r.core < 288 →
    p.wake = some (.vjoin id d since) → since + 10000000 ≤ s.time → ∃ t, exec (.vjoinTimeout id) s = .next t ∧ t.mem = s.mem ∧
      (d < 61 → u.scalars.length = 64 → (∀ r' p', pathAt s r' = some p' → r' ≠ r → ∀ x y, p'.wake ≠ some (.vjoin id x y)) →
        ∃ q, pathAt t r = some q ∧ Woken p q ∧ ScalarReads t r d false 0x80000000)

namespace Sys2Proof.Machine

/-- A message of a TYPE stands at the conductor, with both rings in place (R387, R389). -/
def Asks (s : State) (ty : Nat) (b : List Byte) : Prop := MessageOf s ty b ∧ RingsFit s

/-- A CONFIG of a word and a value stands at the conductor, its reserved bytes zero (R388, R389). -/
def Configures (s : State) (word v : Nat) (b : List Byte) : Prop :=
  Asks s 4 b ∧ leAt b 8 2 = word ∧ leAt b 10 2 = 0 ∧ leAt b 12 4 = v ∧ leAt b 16 48 = 0

/-- No core holds a translation of a test's ASID and page, in its TLB or in a last-page register (R239). -/
def Dropped (t : State) (mine : TlbEntry → Prop) : Prop :=
  ∀ k ∈ t.cores, (∀ e ∈ k.tlb, ¬ mine e) ∧ ∀ u, some u ∈ k.slots → ∀ ln ∈ u.lanes, ∀ e, ln.page = some e → ¬ mine e

/-- No access is under way that may have used a translation (R239). -/
def Quiet (s : State) : Prop :=
  (∀ k ∈ s.cores, k.wc = [] ∧ ∀ x ∈ k.txns, x.perf = true) ∧ s.outWrites = [] ∧
  ∀ c ∈ s.clusters, ∀ o ∈ c.copies, o.asked = true → o.moved = true

/-- A message that needs a TLBI is answered at once where no access is under way; else its answer is owed until those that
are have performed (R239, R389). -/
def AnsweredOnce (s t : State) (b : List Byte) (result : List Byte) : Prop :=
  (Quiet s → Answered s t b 0 0 result) ∧
  (Answered s t b 0 0 result ∨ (t.control.owed = some (0, 0, result) ∧ ∃ x ∈ t.shoots, x.who = none))

/-- A MIGRATE to a frame of this package stands at the conductor, its reserved bytes zero, and no migration is running. -/
def Moves (s : State) (asid : Nat) (va frame : Nat) (b : List Byte) : Prop :=
  Asks s 6 b ∧ s.migration = none ∧ migrateBusy s = false ∧ (∀ x ∈ s.l1, x.mask = 0) ∧ leAt b 8 2 = asid ∧ asid < 1024 ∧ leAt b 10 6 = 0 ∧
  leAt b 16 8 = va ∧ leAt b 24 8 = frame ∧ leAt b 32 32 = 0

end Sys2Proof.Machine

/-- R239, R346, R364, R376, R377, R380, R385-R391, R393: what frames of the control port and the conductor's messages do: frames
land in order of SEQ, an acknowledged frame is forgotten and a refused one sent again, and each message type has its
effect and is answered, a TLBI's once the accesses under way have performed; a quote's bytes are left open, as
a function of the images, the nonce and the signature's number (log entry 73). Which messages are rejected for their form, what a TLBI waits for and
when a written record is handled in which form are the model's choices (log entries 69, 71, 72 and 97). -/
def Obligations.HostSteps : Prop :=
  (∀ s lane seq off data, s.boot = .running → lane < 2 → s.control.expect.length = 2 → data.length ≤ 256 →
    nth 0 s.control.expect lane = seq → Memory.wf s.mem →
    (∃ t, exec (.controlWriteFrame lane seq off data false) s = .next t ∧ t.mem = s.mem ∧ t.control.expect = s.control.expect ∧
      t.outbox = s.outbox ++ [.frameNak lane seq]) ∧
    (∃ t, exec (.controlWriteFrame lane seq off data true) s = .next t ∧ t.outbox = s.outbox ++ [.frameAck lane seq] ∧
      nth 0 t.control.expect lane = (seq + 1) % 2 ^ 32 ∧
      (off + data.length > 2 ^ 24 → t.mem = s.mem ∧ t.control.errors = s.control.errors + 1) ∧
      (off + data.length ≤ 2 ^ 24 → t.control.errors = s.control.errors ∧
        (∀ x ∈ t.control.forms, x ∈ s.control.forms ∨ x.2 = memBytes s.mem (ctlBase + 64 + 64 * x.1) 64 ∧
          off < 64 + 64 * x.1 + 64 ∧ 64 + 64 * x.1 < off + data.length) ∧
        (∀ i < data.length, fixedOff (off + i) = false → inGroups (off + i) = false →
          memRead t.mem (ctlBase + (off + i)) = nth 0 data i) ∧
        (∀ a, (∀ i < data.length, a ≠ ctlBase + (off + i)) → memRead t.mem a = memRead s.mem a) ∧
        ((∃ i < data.length, 16 ≤ off + i ∧ off + i < 24) → t.control.awake = true)))) ∧
  (∀ s lane seq off data, s.control.unacked.find? (fun x => x.1 == lane && x.2.1 == seq) = some (lane, seq, off, data) →
    (∃ t, exec (.controlAckReceive lane seq) s = .next t ∧ t.mem = s.mem ∧
      ∀ x, x ∈ t.control.unacked ↔ x ∈ s.control.unacked ∧ ¬ (x.1 = lane ∧ x.2.1 = seq)) ∧
    ∃ t, exec (.controlNakReceive lane seq) s = .next t ∧ t.mem = s.mem ∧ t.outbox = s.outbox ++ [.push lane seq off data]) ∧
  (∀ s b asid, Asks s 1 b → leAt b 8 2 = asid → asid < 1024 → leAt b 10 6 = 0 → leAt b 24 40 = 0 → s.control.waits = false →
    ∀ got, got = readPacket s ⟨none, walkAsid s asid, asid, true, s.control.got⟩
      (fun a => ⟨none, walkAsid s a, a, true, s.control.got⟩) none
      (BitVec.ofNat 64 (leAt b 16 8)) →
    (∀ p, got = .ok p → pendingLaunches s < 256 → ∃ t l, exec .hostLaunch s = .next t ∧ Answered s t b 0 0 [] ∧
      t.launches = s.launches ++ [l] ∧ l.pk = p ∧ l.ready = none ∧ t.control.got = []) ∧
    (∀ peer gran, got = .ask peer gran → asked s.control.got peer gran = false → ∃ t, exec .hostLaunch s = .next t ∧
      t.mem = s.mem ∧ t.launches = s.launches ∧ t.control.got = s.control.got ++ [⟨peer, gran, none⟩]) ∧
    (∀ cause va, got = .trap cause va none → cause < 256 → ∃ t, exec .hostLaunch s = .next t ∧ Answered s t b 2 cause [] ∧
      t.launches = s.launches) ∧
    ∀ va lvl kind, got = .park va lvl kind → ∃ t, exec .hostLaunch s = .next t ∧ t.control.waits = true ∧
      t.launches = s.launches) ∧
  (∀ s ty b status cause result, RecordAt s b → RingsFit s → leAt b 4 1 = ty →
    s.control.owed = some (status, cause, result) → status < 2 ^ 32 → cause < 2 ^ 32 →
    (ty = 2 → ∃ t, exec .hostContext s = .next t ∧ Answered s t b status cause result ∧ t.control.owed = none) ∧
    (ty = 3 → ∃ t, exec .hostTlbi s = .next t ∧ Answered s t b status cause result ∧ t.control.owed = none) ∧
    (ty = 6 → migrateBusy s = false →
      ∃ t, exec .hostMigrate s = .next t ∧ Answered s t b status cause result ∧ t.control.owed = none)) ∧
  (∀ s b asid off len new, Asks s 2 b → leAt b 8 2 = asid → leAt b 10 1 = off → leAt b 11 1 = len → leAt b 12 4 = 0 →
    asid < 1024 → off % 8 = 0 → len % 8 = 0 → 8 ≤ len → len ≤ 48 → off + len ≤ 256 →
    new = mergeBytes ((ctxOf s asid ++ List.replicate 256 0).take 256) off ((b.drop 16).take len) →
    (ctxOk new = true → s.control.ctxBase + 2 ^ 18 ≤ 2 ^ 52 → Clean s (s.control.ctxBase + 256 * asid) 256 →
      ∃ t, exec .hostContext s = .next t ∧ AnsweredOnce s t b [] ∧ ctxOf t asid = new ∧
        (∀ a, a ≠ asid → ctxOf t a = ctxOf s a) ∧ memBytes t.mem (s.control.ctxBase + 256 * asid) 256 = new ∧
        Dropped t fun e => e.asid = asid) ∧
    (ctxOk new = false → ∃ t, exec .hostContext s = .next t ∧ Answered s t b 1 0 [] ∧ t.ctxs = s.ctxs)) ∧
  (∀ s b asid va, Asks s 3 b → leAt b 9 1 = 0 → leAt b 10 2 = asid → leAt b 12 4 = 0 → leAt b 16 8 = va → leAt b 24 40 = 0 →
    asid < 1024 → ∃ t, exec .hostTlbi s = .next t ∧
      (leAt b 8 1 = 0 → AnsweredOnce s t b [] ∧ Dropped t fun e => e.asid = asid ∧ va / 2 ^ e.bits = e.vbase) ∧
      (leAt b 8 1 = 1 → va = 0 → AnsweredOnce s t b [] ∧ Dropped t fun e => e.asid = asid) ∧
      (leAt b 8 1 = 2 → va = 0 → asid = 0 → AnsweredOnce s t b [] ∧ Dropped t fun _ => True) ∧
      (2 < leAt b 8 1 → Answered s t b 1 0 [] ∧ t.cores = s.cores)) ∧
  (∀ s b v, Configures s 0 v b → ∃ t, exec .configRampset s = .next t ∧
    let fits := 10 ≤ bitsOf v 7 0 ∧ bitsOf v 7 0 ≤ 200 ∧ bitsOf v 17 8 ≤ 1000 ∧ 25 ≤ bitsOf v 27 18 ∧ bitsOf v 27 18 ≤ bitsOf v 17 8
    (fits → t.rampset = BitVec.ofNat 32 (v % 2 ^ 29) ∧ Answered s t b 0 0 (leBytes 4 (v % 2 ^ 29))) ∧
    (¬ fits → t.rampset = s.rampset ∧ Answered s t b 1 0 (leBytes 4 s.rampset.toNat))) ∧
  (∀ s b v die, die < 4 → s.dies.length = 4 → Configures s (1 + die) v b → ∃ t, exec .configPowerControl s = .next t ∧
    let fits := v < 2 ^ 25 ∧ 128 ≤ bitsOf v 7 0 ∧ bitsOf v 23 8 ≠ 0
    (fits → (dieAt t die).power = BitVec.ofNat 32 v ∧ Answered s t b 0 0 (leBytes 4 v)) ∧
    (¬ fits → t.dies = s.dies ∧ Answered s t b 1 0 (leBytes 4 (dieAt s die).power.toNat))) ∧
  (∀ s b v die, die < 4 → s.dies.length = 4 → Configures s (5 + die) v b → ∃ t, exec .configDieClock s = .next t ∧
    (8 ≤ v ∧ v ≤ 24 → (dieAt t die).clock = BitVec.ofNat 32 v ∧ Answered s t b 0 0 (leBytes 4 v) ∧
      ((dieAt s die).clock.toNat ≠ v → ∀ i < s.cores.length, dieOf i = die → (coreAt t i).relock = true)) ∧
    (v < 8 ∨ 24 < v → t.dies = s.dies ∧ t.cores = s.cores ∧ Answered s t b 1 0 (leBytes 4 (dieAt s die).clock.toNat))) ∧
  (∀ s b v cl, cl < 48 → s.clusters.length = 48 → Configures s (9 + cl) v b → ∃ t, exec .configClockPolicy s = .next t ∧
    let fits := 4 ≤ bitsOf v 19 16 ∧ bitsOf v 19 16 ≤ bitsOf v 23 20 ∧ bitsOf v 23 20 ≤ 8 ∧ bitsOf v 7 0 ≤ bitsOf v 15 8 ∧
      v < 2 ^ 25
    (fits → (clusterAt t cl).policy = BitVec.ofNat 32 v ∧ ratioOf t (6 * cl + 5) = bitsOf v 23 20 ∧
      Answered s t b 0 0 (leBytes 4 v)) ∧
    (¬ fits → t.clusters = s.clusters ∧ Answered s t b 1 0 (leBytes 4 (clusterAt s cl).policy.toNat))) ∧
  (∀ s b v, Configures s 57 v b → ∃ t, exec .configMigrationControl s = .next t ∧
    let fits := bitsOf v 7 0 ≠ 0 ∧ bitsOf v 15 8 ≠ 0 ∧ bitsOf v 31 16 ≠ 0
    (fits → t.migCtl = BitVec.ofNat 32 v ∧ Answered s t b 0 0 (leBytes 4 v)) ∧
    (¬ fits → t.migCtl = s.migCtl ∧ Answered s t b 1 0 (leBytes 4 s.migCtl.toNat))) ∧
  (∀ s b v, Configures s 58 v b → ∃ t, exec .configFeatureOffer s = .next t ∧
    (bitsOf v 31 24 = bitsOf s.control.iface.toNat 31 24 → Answered s t b 0 0 (leBytes 4 t.feature0.toNat) ∧
      bitsOf t.feature0.toNat 31 24 = bitsOf v 31 24 ∧
      bitsOf t.feature0.toNat 23 16 = min (bitsOf v 23 16) (bitsOf s.control.iface.toNat 23 16) ∧
      bitsOf t.feature0.toNat 15 6 = 0 ∧
      ∀ i < 6, t.feature0.getLsbD i = (v.testBit i && Config.features.getLsbD i)) ∧
    (bitsOf v 31 24 ≠ bitsOf s.control.iface.toNat 31 24 → t.feature0 = s.feature0 ∧
      Answered s t b 1 0 (leBytes 4 s.feature0.toNat))) ∧
  (∀ s b core slot sel u, Asks s 5 b → leAt b 8 4 % 32 = leAt b 8 4 % 256 → core < 288 → slot < 12 →
    leAt b 8 4 / 256 = slot + 16 * (core % 6) + 256 * (core / 6) → leAt b 12 1 = sel → sel ≤ 8 → leAt b 13 51 = 0 →
    trainAt s core slot = some u → u.ended = none → (sel < 8 → (nth none u.paths sel).isSome = true) →
    ∃ t u', exec .hostHalt s = .next t ∧ Answered s t b 0 0 [] ∧ trainAt t core slot = some u' ∧ u'.pendHalt = true ∧
      u'.dbgctl.getLsbD 3 = true ∧ bitsOf u'.dbgctl.toNat 7 4 = sel ∧ u'.dbgctl.toNat % 8 = u.dbgctl.toNat % 8) ∧
  (∀ s b asid va frame, Moves s asid va frame b → ∀ k w bits, leafOf s asid (BitVec.ofNat 64 va) = some (k, w, bits) →
    frame % 2 ^ bits = 0 → frame + 2 ^ bits ≤ 0x9000000000 →
    (w.testBit 8 = true → ∃ t, exec .hostMigrate s = .next t ∧ Answered s t b 0 0 (leBytes 4 1 ++ leBytes 4 0) ∧
      memLe t.mem k 8 = memLe s.mem k 8) ∧
    (w.testBit 8 = false → w.testBit 9 = false → w.testBit 10 = false → ∀ src, src = bitsOf w 51 bits * 2 ^ bits →
      ((∃ c ∈ s.clusters, ∃ x ∈ c.stash, src ≤ x.key ∧ x.key < src + 2 ^ bits) →
        ∃ t, exec .hostMigrate s = .next t ∧ Answered s t b 0 0 (leBytes 4 2 ++ leBytes 4 0) ∧ memLe t.mem k 8 = memLe s.mem k 8) ∧
      ((∀ c ∈ s.clusters, ∀ x ∈ c.stash, x.key < src ∨ src + 2 ^ bits ≤ x.key) → s.l1 = [] → s.poison = [] → s.latent = [] →
        src ≠ frame → (k + 8 ≤ src ∨ src + 2 ^ bits ≤ k) → (k + 8 ≤ frame ∨ frame + 2 ^ bits ≤ k) → s.thrash = [] →
        bitsOf s.migCtl.toNat 7 0 ≠ 0 → Quiet s →
        ∃ t, exec .hostMigrate s = .next t ∧ Answered s t b 0 0 (leBytes 4 0 ++ leBytes 4 0) ∧
          memLe t.mem k 8 = w % 2 ^ 16 + frame ∧ (∀ i < 2 ^ bits, memRead t.mem (frame + i) = memRead s.mem (src + i)) ∧
          Dropped t fun e => e.asid = asid ∧ va / 2 ^ e.bits = e.vbase))) ∧
  (∀ s b asid va frame lvl, Moves s asid va frame b → leafOf s asid (BitVec.ofNat 64 va) = none →
    canonical (BitVec.ofNat 64 va) = true → walkAsid s asid (BitVec.ofNat 64 va) = .absent 0 lvl →
    ∃ t, exec .hostMigrate s = .next t ∧ Answered s t b 0 0 (leBytes 4 3 ++ leBytes 4 0)) ∧
  (∀ s b id asid k ring, Asks s 7 b → leAt b 8 2 = id → leAt b 10 2 = asid → leAt b 12 1 = k → leAt b 13 3 = 0 →
    leAt b 16 8 = ring → leAt b 24 40 = 0 → id < 4096 → asid < 1024 → ring % 256 = 0 →
    (k = 0 ∨ (5 ≤ k ∧ k ≤ 24 ∧ ring + 8 * 2 ^ k ≤ 0x9000000000)) → ∃ t, exec .hostListbind s = .next t ∧
      ((∀ l, listAt s id = some l → listIdle s l = true) → Answered s t b 0 0 [] ∧ (k = 0 → listAt t id = none) ∧
        (k ≠ 0 → listAt t id = some ⟨id, asid, ring, k, 0, 0⟩) ∧ ∀ i, i ≠ id → listAt t i = listAt s i) ∧
      (∀ l, listAt s id = some l → listIdle s l = false → Answered s t b 1 0 [] ∧ t.lists = s.lists)) ∧
  (∀ s b size base, Asks s 8 b → leAt b 12 4 = size → leAt b 16 8 = base → leAt b 24 40 = 0 →
    (∃ i, 6 ≤ i ∧ i ≤ 20 ∧ size = 2 ^ i) → base % 4096 = 0 → base + 64 + 32 * size ≤ 0x9000000000 →
    ∃ t, exec .hostRings s = .next t ∧
      (∀ core < 288, s.cores.length = 288 → leAt b 8 4 = 0x1000 + core → Answered s t b 0 0 [] ∧
        (coreAt t core).ring = some (base, size)) ∧
      (leAt b 8 4 = 0x2000 → s.control.held = [] → Clean s (base + 8) 4 → s.control.drops < 2 ^ 32 → Answered s t b 0 0 [] ∧
        t.control.errLog = some (base, size) ∧ memLe t.mem (base + 8) 4 = s.control.drops)) ∧
  ∀ s b off, Asks s 9 b → leAt b 40 4 = off → leAt b 44 20 = 0 → off % 4096 = 0 → 0x141000 ≤ off → off + 16384 ≤ 2 ^ 24 →
    let quote := (Config.quote s.image ((b.drop 8).take 32) s.signed).take 16384
    (s.signed < 2 ^ 20 → ∃ t, exec (.hostAttest quote false) s = .next t ∧ Answered s t b 0 0 (leBytes 4 quote.length) ∧
      memBytes t.mem (ctlBase + off) quote.length = quote ∧ t.signed = s.signed + 1) ∧
    (2 ^ 20 ≤ s.signed → ∀ any, ∃ t, exec (.hostAttest any true) s = .next t ∧ Answered s t b 1 0 [] ∧ t.signed = s.signed ∧
      t.mem.filter (fun c => c.1 < ctlBase) = s.mem.filter fun c => c.1 < ctlBase)

namespace Sys2Proof.Machine

/-- The registers that field D names as a vector destination, one or a pair (R31, R32). -/
def vecDest (c : Ctx) (wide : Bool) : List Reg :=
  (List.range (if wide then 2 else 1)).filterMap fun j => regOfCode (depthOf c.p) (c.f.d.toNat + j)

/-- The registers that field D names as a scalar destination of `n` registers (R31). -/
def scalarDest (c : Ctx) (n : Nat) : List Reg := (List.range n).map fun j => Reg.scalar (c.f.d.toNat + j)

/-- The destination registers of the instructions whose whole effect is a lane, predicate or scalar result. -/
def destOf (i : Instr) (c : Ctx) : Option (List Reg) :=
  ((elementRule i c).map fun _ => vecDest c (tyBits (viewOf c.ty) == 64)) <|>
  ((registerRule i c).map fun x => vecDest c x.1) <|> ((floatRule i c).map fun x => vecDest c x.1) <|>
  ((predicateRule i c).map fun _ => [Reg.pred c.f.d.toNat]) <|>
  ((scalarRule i c).map fun x => scalarDest c (if x.1 then 2 else 1)) <|>
  match i with
  | .lxch _ | .match _ | .fclass _ => some (vecDest c c.wide)
  | .fcmp _ => some [Reg.pred c.f.d.toNat]
  | .v2p _ => some ((List.range 32).map fun j => Reg.pred (c.f.d.toNat + j))
  | .vote _ => if c.f.x = 2 then some (scalarDest c 3) else none
  | _ => none

/-- A lane is idle: no path and no record other than the path's own entry owns it, and it is not retired (R17). -/
def IdleFor (u : Train) (entry l : Nat) : Prop := (takenLanes u entry).has l = false

end Sys2Proof.Machine

/-- The frame of the lane, predicate and scalar results (R98-R105, R107-R110, R120-R124): an instruction of those statements
that raises no enabled exception and writes no mask register changes, besides its destination registers in the active lanes
(or, a scalar, in the train), only its own issue's counts: memory, the scratchpads and every other piece of the package,
other cores, trains and paths, every other register, statuses and holds stay as they are. -/
def Obligations.LaneResultFrame : Prop :=
  ∀ (i : Instr) (s : State) (c : Ctx) (ds : List Reg), destOf i c = some ds → Ready i s c → partOk i c →
    (∀ x, floatRule i c = some x → NoEnabled c (fun l => (x.2 l).2)) →
    (∀ f, i = .fcmp f → NoEnabled c (fun l => (c.fcmpVal l).2)) → (∀ n ≥ 61, Reg.scalar n ∉ ds) →
    ∃ t u q, exec i s = .next t ∧ trainAt t c.r.core c.r.slot = some u ∧ pathAt t c.r = some q ∧
      t = { s with sel := none, cores := t.cores, dies := t.dies } ∧
      (∀ n, dieAt t n = { dieAt s n with spent := (dieAt t n).spent }) ∧
      (∀ n, n ≠ c.r.core → coreAt t n = coreAt s n) ∧
      (let k := coreAt t c.r.core
       k = { coreAt s c.r.core with slots := k.slots, balance := k.balance, resv := k.resv, txResv := k.txResv, pipes := k.pipes,
                                    sfu := k.sfu, heavy := k.heavy, issued := k.issued }) ∧
      (∀ slot, slot ≠ c.r.slot → trainAt t c.r.core slot = trainAt s c.r.core slot) ∧
      u = { c.t with lanes := u.lanes, scalars := u.scalars, paths := u.paths, handler := u.handler, charged := u.charged,
                     lastEntry := u.lastEntry, made := u.made } ∧
      (∀ r, r.core = c.r.core → r.slot = c.r.slot → r ≠ c.r → pathAt t r = pathAt s r) ∧
      q.pc = c.nextPc ∧ q.mask = c.p.mask ∧ q.mode = c.p.mode ∧ q.wbase = c.p.wbase ∧ q.jids = c.p.jids ∧
      (∀ n, Reg.scalar n ∉ ds → nth 0 u.scalars n = nth 0 c.t.scalars n) ∧
      ∀ l ln, c.t.lanes[l]? = some ln → ∃ ln', u.lanes[l]? = some ln' ∧ ln'.status = ln.status ∧ ln'.hold = ln.hold ∧
        (c.act.has l = false → ln'.v = ln.v ∧ ln'.ring = ln.ring ∧ ln'.preds = ln.preds) ∧
        ∀ g, g ∉ ds → laneReg ln' g = laneReg ln g

/-- R25, R29, R31, R32, R153, R177: a written register reads back, a pair as 64 bits; code 48 discards and reads zero, codes 49
and 50 read the lane and the car; p0 reads 1 and discards; wK of a path is the ring register that R153 gives, so that a
caller's w24-w31 are its callee's w0-w7; a mask write releases and claims lanes as R25 says, and in a handler is
discarded. -/
def Obligations.RegisterReadsAndWrites : Prop :=
  (∀ (u : Train) (depth l : Nat) (ln : Lane) (code x : Nat), ln.v.length = 16 → ln.ring.length = 104 →
    (code < 48 → rdV u depth l (wrV depth ln code false x) code false = x % 2 ^ 32) ∧
    (code < 48 → code % 2 = 0 → rdV u depth l (wrV depth ln code true x) code true = x % 2 ^ 64) ∧
    (∀ other wide, code < 48 → other < 48 → other ≠ code → (wide = true → other ≠ code + 1) →
      rdV u depth l (wrV depth ln code wide x) other false = rdV u depth l ln other false) ∧
    (∀ wide, wrV depth ln 48 wide x = ln ∧ rdV u depth l ln 48 wide = 0 ∧ rdV u depth l ln 49 wide = l ∧
      rdV u depth l ln 50 wide = l / 32)) ∧
  (∀ (ln : Lane) (n m : Nat) (v : Bool), n < 64 → m < 64 →
    setPred ln 0 v = ln ∧ predOf ln 0 = true ∧ (n ≠ 0 → predOf (setPred ln n v) n = v) ∧
    (m ≠ n → predOf (setPred ln n v) m = predOf ln m)) ∧
  (∀ (u : Train) (depth l : Nat) (ln : Lane) (k : Nat), k < 32 →
    rdV u depth l ln (16 + k) false = (nth 0 ln.ring (8 * ((3 * depth + k / 8) % 13) + k % 8)).toNat ∧
    (24 ≤ k → rdV u depth l ln (16 + k) false = rdV u (depth + 1) l ln (k - 8) false)) ∧
  (∀ (s : State) (r : PathRef) (u : Train) (p : Path) (n x : Nat), trainAt s r.core r.slot = some u → pathAt s r = some p →
    n < 61 → u.scalars.length = 64 → ∃ u', trainAt (writeS s r n false x) r.core r.slot = some u' ∧
      rdS u' p n = BitVec.ofNat 32 x ∧ ∀ m, m ≠ n → rdS u' p m = rdS u p m) ∧
  ∀ (s : State) (r : PathRef) (u : Train) (p : Path) (n x : Nat), trainAt s r.core r.slot = some u → pathAt s r = some p →
    61 ≤ n → n < 64 →
    (r.handler = true → writeS s r n false x = s) ∧
    (r.handler = false → (∃ l < 96, (p.mask.has l = true ∧ l / 32 ≠ n - 61) ∨ (p.mask.has l = true ∧ x.testBit (l % 32) = true)) →
      ∃ q, pathAt (writeS s r n false x) r = some q ∧ q.pc = p.pc ∧ ∀ l < 96,
        (l / 32 ≠ n - 61 → q.mask.has l = p.mask.has l) ∧
        (l / 32 = n - 61 → (q.mask.has l = true ↔ x.testBit (l % 32) = true ∧ (p.mask.has l = true ∨ IdleFor u r.entry l))))

namespace Sys2Proof.Machine

/-- An instruction waits: nothing of it has happened, and its path stays where it is. -/
def WaitsAt (i : Instr) (s : State) (c : Ctx) : Prop :=
  ∃ t p, exec i s = .next t ∧ t.mem = s.mem ∧ pathAt t c.r = some p ∧ p.pc = c.p.pc ∧ p.mask = c.p.mask ∧ p.pending = c.p.pending ∧
    p.trapDue = c.p.trapDue ∧ p.pstate = c.p.pstate

/-- A check of the word of some index fails: the trap of cause `k` names the path's mask and that word (R79, R94); it comes
once the instruction's own waits are over, at once where it has none, as every instruction of a lane, predicate or scalar
result (R196). -/
def TrapsOnce (i : Instr) (s : State) (c : Ctx) (k : Nat) (addr : DWord) : Prop :=
  let traps : Prop := exec i s = .next (takeTrap { s with sel := none } c.r ⟨k, c.p.mask, c.p.pc, addr⟩)
  (traps ∨ WaitsAt i s c) ∧ (destOf i c ≠ none → traps)

end Sys2Proof.Machine

/-- R37, R79, R80, R94, R141-R143, R179, R196: what stops an instruction before its charge: a window that has run out, or a 17th
result, holds the path with stall 0x01; else a type or a field that is not legal is cause 0x02, a privileged instruction outside
a handler cause 0x03, each on the path's mask with the failing word, once the instruction's own waits are over; a double fault
in a handler kills; the lookahead check is cause 0x11. Which word a failed type check names, which lanes the lookahead check
names where none is active, and which of several conflicting instructions, are the model's choices (log entries 50 and 102). -/
def Obligations.IssueTraps : Prop :=
  ∀ (i : Instr) (s : State) (c : Ctx) (w0 w1 w2 : Word), Chosen i s c → c.p.fetched = some (w0, w1, w2) →
    (∀ x ∈ s.shoots, x.who ≠ some c.r) → (∀ e ∈ (coreAt s c.r.core).wc.drop 64, c.p.uid ∉ e.paths) →
    let full : Prop := opensResult c = true ∧ (16 ≤ c.p.pending.length ∨ ∃ q ∈ c.p.pending, c.p.full = some q.id)
    ((∃ q ∈ c.p.pending, q.win = .count 0) ∨ full → exec i s = .next (setStall { s with sel := none } c.r 0x01)) ∧
    ((∀ q ∈ c.p.pending, q.win ≠ .count 0) → ¬ full →
    (tyAccepted c.sp c.ty = false → TrapsOnce i s c 0x02 (w0.setWidth 64)) ∧
    (tyAccepted c.sp c.ty = true →
      (∀ n, fieldCheck c.sp (some c.ty) c.f = some n → TrapsOnce i s c 0x02
        ((match n with | 0 => w0 | 1 => w1 | _ => w2).setWidth 64 + BitVec.ofNat 64 (n * 2 ^ 32))) ∧
      (fieldCheck c.sp (some c.ty) c.f = none →
        (isPrivileged i = true → c.r.handler = false → TrapsOnce i s c 0x03 (w0.setWidth 64)) ∧
        (isPrivileged i = true → c.r.handler = true ∨ isPrivileged i = false →
          (c.r.handler = true → doubleFaults i = true → ∀ h, c.t.handler = some h →
            exec i s = .next (killTrain { s with sel := none } c.r.core c.r.slot 0x10 c.p.pc h.hmask)) ∧
          (c.r.handler = false ∨ doubleFaults i = false →
            (dbgLachk c.t = true →
              ∀ q rest, c.p.pending = q :: rest → (∃ d ∈ q.dests, d ∈ (regUses c).1 ∨ d ∈ (regUses c).2) →
                exec i s = .next (takeTrap { s with sel := none } c.r
                  ⟨0x11, if c.act = 0 then c.p.mask else c.act, c.p.pc, q.pc⟩)))))))

/-- R151, R175-R177, R180, R182, R184, R185: a trap waits for its path's outstanding results, then saves cause, path and MODE,
PC, lanes and address, freezes the siblings and starts the handler at the vector; with no vector, or inside a handler, the
train is killed; one that arrives while the core's clock relocks is taken after it (R320); the return restores MODE, window and PC and thaws the siblings, but a reserved RMODE or a PC that is not
aligned or not canonical kills the train. -/
def Obligations.TrapEntryAndReturn : Prop :=
  (∀ (s : State) (r : PathRef) (rc : TrapRec) (u : Train) (p : Path), r.handler = false → trainAt s r.core r.slot = some u →
    pathAt s r = some p → u.handler = none → u.ended = none → r.entry < 8 → rc.cause < 256 →
    (∀ e q, nth none u.paths e = some q → q.trapDue = none) →
    let vec := if rc.cause = 0x0F then ctxDvec s u.asid else ctxTvec s u.asid
    let t := takeTrap s r rc
    (p.pending ≠ [] ∨ (coreAt s r.core).relock = true → ∃ u' q, trainAt t r.core r.slot = some u' ∧ u'.handler = none ∧ u'.trapCause = u.trapCause ∧
      pathAt t r = some q ∧ q.trapDue = some rc ∧ q.frozen = .pendingTrap ∧ q.pending = p.pending) ∧
    (p.pending = [] → (coreAt s r.core).relock = false → vec ≠ 0 → ∃ u' h hp q, trainAt t r.core r.slot = some u' ∧ t.mem = s.mem ∧
      u'.trapCause.toNat = rc.cause + 2 ^ 8 * r.entry + 2 ^ 11 * (p.mode.toNat % 2 ^ 21) ∧
      u'.trapPc = rc.pc ∧ u'.trapMask = rc.lanes ∧ u'.trapAddr = rc.addr ∧ u'.scalars = u.scalars ∧ u'.lanes = u.lanes ∧
      u'.jtab = u.jtab ∧ u'.handler = some h ∧ h.agent = (rc.cause == 0x0F) ∧ h.entry = r.entry ∧ h.hmask = rc.lanes ∧
      h.jtab = List.replicate 16 none ∧ h.started = s.time ∧ h.paths = [some hp, none, none, none] ∧
      hp.pc = BitVec.ofNat 64 vec ∧ hp.mask = rc.lanes ∧ hp.mode = 0 ∧ hp.wbase = p.wbase ∧ hp.jids = 0 ∧ hp.pstate = .active ∧
      nth none u'.paths r.entry = some q ∧ q.pstate = (if rc.cause = 0x0F then .halted else .trapped) ∧ q.mask = p.mask ∧
      q.mode = p.mode ∧ q.wbase = p.wbase ∧ ∀ e q0, e ≠ r.entry → nth none u.paths e = some q0 → ∃ q', nth none u'.paths e =
        some q' ∧ q'.pc = q0.pc ∧ q'.mask = q0.mask ∧ q'.pstate = q0.pstate ∧ (rc.cause ≠ 0x0F → q'.frozen ≠ .none)) ∧
    (p.pending = [] → (coreAt s r.core).relock = false → vec = 0 → ∃ u', trainAt t r.core r.slot = some u' ∧ u'.killed = true ∧ u'.ended.isSome = true ∧
      ∀ l < 96, u'.retired.has l = true)) ∧
  (∀ (s : State) (r : PathRef) (rc : TrapRec) (u : Train) (h : Handler), r.handler = true → trainAt s r.core r.slot = some u →
    u.handler = some h → ((coreAt s r.core).relock = false → takeTrap s r rc = killTrain s r.core r.slot 0x10 rc.pc h.hmask) ∧
      ∀ p, pathAt s r = some p → (coreAt s r.core).relock = true → ∃ q, pathAt (takeTrap s r rc) r = some q ∧
        q.trapDue = some rc ∧ q.frozen = .pendingTrap ∧ (takeTrap s r rc).mem = s.mem) ∧
  (∀ (s : State) (core slot kcause : Nat) (pc : DWord) (m : LaneSet) (u : Train), trainAt s core slot = some u → u.ended = none →
    ∃ u', trainAt (killTrain s core slot kcause pc m) core slot = some u' ∧ u'.killed = true ∧ u'.ended.isSome = true ∧
      (∀ l < 96, u'.retired.has l = true) ∧ ∀ l ln, u.lanes[l]? = some ln → l < 96 → ∃ ln', u'.lanes[l]? = some ln' ∧
        (u.retired.has l = false → ln'.status = 0xFFFE) ∧ (u.retired.has l = true → ln'.status = ln.status)) ∧
  ∀ (s : State) (core slot : Nat) (w : Word) (uid : Nat) (kpc : DWord) (u : Train) (h : Handler) (p : Path),
    trainAt s core slot = some u → u.handler = some h → nth none u.paths h.entry = some p → u.ended = none →
    (¬ RmodeLegal (u.trapCause.toNat / 2 ^ 11) ∨ u.trapPc.toNat % 4 ≠ 0 ∨ canonical u.trapPc = false →
      leaveHandler s core slot w uid kpc = killTrain s core slot 0x10 kpc h.hmask) ∧
    (RmodeLegal (u.trapCause.toNat / 2 ^ 11) → u.trapPc.toNat % 4 = 0 → canonical u.trapPc = true → u.pendHalt = false →
      u.stepOwed = false → (∀ e q, nth none u.paths e = some q → q.trapDue = none) →
      ∃ u' q, trainAt (leaveHandler s core slot w uid kpc) core slot = some u' ∧
        (leaveHandler s core slot w uid kpc).mem = s.mem ∧ u'.handler = none ∧ u'.scalars = u.scalars ∧ u'.lanes = u.lanes ∧
        nth none u'.paths h.entry = some q ∧ q.mode.toNat = u.trapCause.toNat / 2 ^ 11 ∧ q.wbase = w ∧
        q.mask = p.mask ∧ q.frozen = .none ∧ (h.wasParked = false ∨ u.trapPc ≠ h.haltPc → q.pc = u.trapPc) ∧
        (h.wasParked = false ∨ p.wake = none → q.pstate = .active) ∧
        (h.wasParked = true → p.wake ≠ none → q.pstate = .parked) ∧
        ∀ e q0, e ≠ h.entry → nth none u.paths e = some q0 → q0.frozen ≠ .pendingTrap → ∃ q', nth none u'.paths e = some q' ∧
          q'.frozen = .none ∧ q'.pstate = q0.pstate ∧ q'.pc = q0.pc)

/-- R112, R201, R202, R212, R258, R264, R315, R318, R364, R377, R380, R385, R393: what the specification gives the package at
reset; and the memory, which lists nothing (log entry 1), is canonical. -/
def Obligations.ResetState : Prop :=
  let s := State.reset
  (bitsOf s.rampset.toNat 7 0 = 80 ∧ bitsOf s.rampset.toNat 17 8 = 1000 ∧ bitsOf s.rampset.toNat 27 18 = 100 ∧
    bitsOf s.rampset.toNat 31 28 = 1) ∧
  (bitsOf s.migCtl.toNat 7 0 = 8 ∧ bitsOf s.migCtl.toNat 15 8 = 10 ∧ bitsOf s.migCtl.toNat 31 16 = 100) ∧
  s.feature0.toNat % 2 ^ 16 = 0 ∧ Memory.wf s.mem ∧ s.mem = [] ∧ s.cores.length = 288 ∧ s.clusters.length = 48 ∧ s.dies.length = 4 ∧
  (∀ n < 4, bitsOf (dieAt s n).power.toNat 7 0 = 224 ∧ bitsOf (dieAt s n).power.toNat 23 8 = 20 ∧
    bitsOf (dieAt s n).power.toNat 31 24 = 1 ∧ (dieAt s n).clock.toNat = 21) ∧
  (∀ n < 48, (clusterAt s n).curbud = 40 ∧ bitsOf (clusterAt s n).policy.toNat 7 0 = 64 ∧
    bitsOf (clusterAt s n).policy.toNat 15 8 = 192 ∧ bitsOf (clusterAt s n).policy.toNat 19 16 = 4 ∧
    bitsOf (clusterAt s n).policy.toNat 23 20 = 8 ∧ ∀ p ∈ (clusterAt s n).pairs, p.latch.valid = false ∧
      ∀ a ∈ p.accs, a.owner = none ∧ ∀ row ∈ a.rows, ∀ x ∈ row, x = 0) ∧
  ∀ n < 288, (coreAt s n).balance = 0 ∧ (coreAt s n).band = 0 ∧ (∀ slot, trainAt s n slot = none) ∧
    (∀ b ∈ (coreAt s n).actBanks, b.valid = false) ∧ (coreAt s n).actCur = 0 ∧ (coreAt s n).sampctl.getLsbD 0 = false ∧
    (coreAt s n).tlb = []

/-- Every step keeps the memory's canonical form: its keys rise strictly, and no byte is listed that an unlisted one reads
as. The form is the model's (log entry 1). -/
def Obligations.MemoryStaysCanonical : Prop :=
  ∀ s t : State, Memory.wf s.mem → step s = .next t → Memory.wf t.mem

/-- R66, R70-R76, R81: every well-formed instruction has words, which decode to it with its length; and what the decoder reads
is well formed and has the words that were read. -/
def Obligations.EncodeDecode : Prop :=
  (∀ i : Instr, wellFormed i = true → ∃ w0 w1 w2 n, encodeWords i = some (w0, w1, w2, n) ∧ decodeWords w0 w1 w2 = .ok i n) ∧
  ∀ (w0 w1 w2 : Word) (i : Instr) (n : Nat), decodeWords w0 w1 w2 = .ok i n → wellFormed i = true ∧
    ∃ w1' w2', encodeWords i = some (w0, w1', w2', n) ∧ (2 ≤ n → w1' = w1) ∧ (3 ≤ n → w2' = w2)

/-- R70, R73, R75, R76, R79-R81: the outcomes of the sample words of R80, and what the sample encodings of IADD, ICMP, FCVTI
and PLUT (spec/04_lane_ops.md) decode to. -/
def Obligations.DecodeWords : Prop :=
  decodeWords 0x00000000 0 0 = .ok (.ill 0 0 0 0) 1 ∧ decodeWords 0x00000003 0 0 = .bad (.illegal 0) ∧
  decodeWords 0x000000F4 0 0 = .bad (.reserved 0) ∧ decodeWords 0x00000214 0 0 = .bad (.reserved 0) ∧
  decodeWords 0x00000404 0 0 = .bad (.reserved 0) ∧ decodeWords 0x0D010C80 0 0 = .bad (.reserved 0) ∧
  decodeWords 0x00010C81 0x00800001 0 = .bad (.reserved 1) ∧ decodeWords 0x00010C81 0x00028000 0 = .bad (.reserved 1) ∧
  decodeWords 0x00010C82 0x00000001 0x00000005 = .bad (.reserved 1) ∧
  decodeWords 0x00020881 0x00000003 0 = .ok (.iadd ⟨2, 2, 0, 0, .l1 1 0⟩) 2 ∧
  decodeWords 0x504304D5 0x00600000 0 = .ok (.icmp ⟨1, 3, 1, 5, .l0 { Ext0.zero with tov := true, ty := 1 }⟩) 2 ∧
  decodeWords 0x100A0969 0x42200000 0 = .ok (.fcvti ⟨2, 10, 0, 1, .l0 { Ext0.zero with tov := true, ty := 8, sub := 16 }⟩) 2 ∧
  decodeWords 0x60C205D5 0x24000008 0 = .ok (.plut ⟨1, 2, 3, 6, .l0 { Ext0.zero with c := 4, sub := 9 }⟩) 2

/-- R40, R79, R80, R392: a step of a selected path runs the instruction that its fetched words decode to, or takes the decode
trap; a step with no selection takes the round's next step, which does nothing where it is not due; when the round is over
a new one begins, while the package runs. The order of a round's steps is the model's choice (log entry 6). -/
def Obligations.StepRunsDecoded : Prop :=
  (∀ s r p w0 w1 w2, s.sel = some r → pathAt s r = some p → p.fetched = some (w0, w1, w2) →
    (∀ i n, decodeWords w0 w1 w2 = .ok i n → step s = exec i s) ∧
    ∀ e, decodeWords w0 w1 w2 = .bad e → step s = .next (takeTrap { s with sel := none } r ⟨e.cause, p.mask, p.pc,
      (match e.idx with | 0 => w0 | 1 => w1 | _ => w2).setWidth 64 + BitVec.ofNat 64 (e.idx * 2 ^ 32)⟩)) ∧
  (∀ s e rest, s.sel = none → s.agenda = e :: rest →
    (∀ t, exec e { s with agenda := rest } = .next t → step s = .next t) ∧
    (exec e { s with agenda := rest } = .fault .notEnabled → step s = .next { s with agenda := rest })) ∧
  ∀ s, s.sel = none → s.agenda = [] →
    (s.boot = .running → step s = .next { conductorTurn s with agenda := roundOf (conductorTurn s) }) ∧
    (s.boot ≠ .running → step s = .fault .notRunning)
end

