-- ==== Sys2Proof/Laws/Memory.lean ====
section
/-! SUPPORT. Memory as a canonical list of cells: what a write does to a read, and that every operation on memory keeps the
canonical form. -/
namespace Sys2Proof.Machine

/-- An empty memory is canonical. -/
@[simp] theorem wf_nil : Memory.wf [] := rfl

/-- The canonical form of a memory with a first cell. -/
theorem wf_cons (a : Nat) (b : Byte) (r : List Host.Cell) :
    Memory.wf ((a, b) :: r) ↔ b ≠ 0 ∧ (∀ x ∈ r, a < x.1) ∧ Memory.wf r := by
  have key : ∀ (r : List Host.Cell) (a : Nat), Memory.wf r →
      ((match r with | [] => true | (c, _) :: _ => decide (a < c)) = true ↔ ∀ x ∈ r, a < x.1) := by
    intro r
    induction r with
    | nil => simp
    | cons x r ih =>
      obtain ⟨c, d⟩ := x
      intro a h
      have hr : Memory.wf r := by
        simp only [Memory.wf, cellsWf, Bool.and_eq_true] at h; exact h.2
      have hc : ∀ x ∈ r, c < x.1 := by
        rw [← ih c hr]; simp only [Memory.wf, cellsWf, Bool.and_eq_true] at h; exact h.1.2
      simp only [decide_eq_true_eq, List.mem_cons, forall_eq_or_imp]
      exact ⟨fun h1 => ⟨h1, fun x hx => lt_trans h1 (hc x hx)⟩, fun h1 => h1.1⟩
  simp only [Memory.wf, cellsWf, Bool.and_eq_true, bne_iff_ne, ne_eq]
  constructor
  · rintro ⟨⟨h1, h2⟩, h3⟩; exact ⟨h1, (key r a h3).1 h2, h3⟩
  · rintro ⟨h1, h2, h3⟩; exact ⟨⟨h1, (key r a h3).2 h2⟩, h3⟩

/-- What a write lists: only the key written, and what was listed. -/
theorem mem_memWrite {m : List Host.Cell} {k : Nat} {v : Byte} {x : Host.Cell} (h : x ∈ memWrite m k v) :
    x = (k, v) ∨ x ∈ m := by
  induction m with
  | nil => simp only [memWrite] at h; split at h <;> simp_all
  | cons c r ih =>
    obtain ⟨a, b⟩ := c
    simp only [memWrite] at h
    split at h
    · rcases List.mem_cons.1 h with h | h
      · exact .inr (h ▸ List.mem_cons_self)
      · exact (ih h).imp id (List.mem_cons_of_mem _)
    · split at h
      · split at h
        · exact .inr (List.mem_cons_of_mem _ h)
        · exact (List.mem_cons.1 h).imp id (List.mem_cons_of_mem _)
      · split at h
        · exact .inr h
        · exact List.mem_cons.1 h

/-- A write keeps the canonical form. -/
theorem wf_memWrite {m : List Host.Cell} (h : Memory.wf m) (k : Nat) (v : Byte) : Memory.wf (memWrite m k v) := by
  induction m with
  | nil =>
    simp only [memWrite]
    split
    · rfl
    · rename_i hv
      exact (wf_cons _ _ _).2 ⟨by simpa using hv, by simp, rfl⟩
  | cons c r ih =>
    obtain ⟨a, b⟩ := c
    obtain ⟨hb, ha, hr⟩ := (wf_cons a b r).1 h
    simp only [memWrite]
    split
    · rename_i hak
      refine (wf_cons _ _ _).2 ⟨hb, fun x hx => ?_, ih hr⟩
      rcases mem_memWrite hx with rfl | hx
      · exact hak
      · exact ha x hx
    · rename_i hak
      split
      · rename_i hk
        have hk : a = k := by simpa using hk
        split
        · exact hr
        · rename_i hv
          exact (wf_cons _ _ _).2 ⟨by simpa using hv, hk ▸ ha, hr⟩
      · rename_i hk
        have hk : a ≠ k := by simpa using hk
        have hlt : k < a := by omega
        split
        · exact h
        · rename_i hv
          refine (wf_cons _ _ _).2 ⟨by simpa using hv, fun x hx => ?_, h⟩
          rcases List.mem_cons.1 hx with rfl | hx
          · exact hlt
          · exact lt_trans hlt (ha x hx)

/-- Writes of consecutive bytes keep the canonical form. -/
theorem wf_memPut {m : List Host.Cell} (h : Memory.wf m) (k : Nat) (bs : List Byte) : Memory.wf (memPut m k bs) := by
  induction bs generalizing m k with
  | nil => exact h
  | cons b r ih => exact ih (wf_memWrite h k b) (k + 1)

/-- Dropping cells keeps the canonical form. -/
theorem wf_filter {m : List Host.Cell} (h : Memory.wf m) (p : Host.Cell → Bool) : Memory.wf (m.filter p) := by
  induction m with
  | nil => exact h
  | cons c r ih =>
    obtain ⟨a, b⟩ := c
    obtain ⟨hb, ha, hr⟩ := (wf_cons a b r).1 h
    by_cases hp : p (a, b) = true
    · rw [List.filter_cons_of_pos hp]
      exact (wf_cons _ _ _).2 ⟨hb, fun x hx => ha x (List.mem_filter.1 hx).1, ih hr⟩
    · rw [List.filter_cons_of_neg hp]; exact ih hr

/-- A fold of writes keeps the canonical form. -/
theorem wf_foldl {α : Type} (f : List Host.Cell → α → List Host.Cell) (hf : ∀ m x, Memory.wf m → Memory.wf (f m x))
    (l : List α) {m : List Host.Cell} (h : Memory.wf m) : Memory.wf (l.foldl f m) := by
  induction l generalizing m with
  | nil => exact h
  | cons x l ih => exact ih (hf m x h)

/-- A key below every listed one reads as an unlisted byte. -/
theorem memRead_below {m : List Host.Cell} {k : Nat} (h : ∀ x ∈ m, k < x.1) : memRead m k = 0 := by
  cases m with
  | nil => rfl
  | cons c r =>
    obtain ⟨a, b⟩ := c
    have : k < a := h (a, b) List.mem_cons_self
    simp only [memRead]
    rw [if_neg (by simp; omega), if_pos this]

/-- A read after a write: the byte written at its key, every other byte as before. -/
theorem memRead_memWrite {m : List Host.Cell} (h : Memory.wf m) (k j : Nat) (v : Byte) :
    memRead (memWrite m k v) j = if j = k then v else memRead m j := by
  induction m with
  | nil =>
    by_cases hv : v = 0
    · subst hv
      show memRead [] j = _
      simp [memRead]
    · have e : memWrite [] k v = [(k, v)] := if_neg (by simpa using hv)
      rw [e]
      simp only [memRead, beq_iff_eq]
      split_ifs <;> first | rfl | omega
  | cons c r ih =>
    obtain ⟨a, b⟩ := c
    obtain ⟨hb, ha, hr⟩ := (wf_cons a b r).1 h
    have low : ∀ i, i ≤ a → memRead r i = 0 := fun i hi => memRead_below fun x hx => lt_of_le_of_lt hi (ha x hx)
    simp only [memWrite, beq_iff_eq]
    by_cases h1 : a < k
    · rw [if_pos h1]
      simp only [memRead, beq_iff_eq, ih hr]
      split_ifs <;> first | rfl | omega
    · rw [if_neg h1]
      by_cases h2 : a = k
      · subst h2
        rw [if_pos rfl]
        by_cases hv : v = 0
        · rw [if_pos hv]
          by_cases hj : j = a
          · rw [if_pos hj, low j (by omega), hv]
          · rw [if_neg hj]
            simp only [memRead, beq_iff_eq]
            split_ifs <;> first | rfl | omega | exact low j (by omega)
        · rw [if_neg hv]
          simp only [memRead, beq_iff_eq]
          split_ifs <;> first | rfl | omega
      · rw [if_neg h2]
        by_cases hv : v = 0
        · rw [if_pos hv]
          simp only [memRead, beq_iff_eq]
          split_ifs <;> first | rfl | omega | exact hv.symm
        · rw [if_neg hv]
          simp only [memRead, beq_iff_eq]
          split_ifs <;> first | rfl | omega

/-- A read after writes of consecutive bytes: the byte put there, every other byte as before. -/
theorem memRead_memPut {m : List Host.Cell} (h : Memory.wf m) (k j : Nat) (bs : List Byte) :
    memRead (memPut m k bs) j = if k ≤ j ∧ j < k + bs.length then bs.getD (j - k) 0 else memRead m j := by
  induction bs generalizing m k with
  | nil => simp [memPut]
  | cons b r ih =>
    rw [memPut, ih (wf_memWrite h k b), memRead_memWrite h]
    by_cases h1 : j = k
    · subst h1; simp
    · by_cases h2 : k + 1 ≤ j ∧ j < k + 1 + r.length
      · have e : j - k = (j - (k + 1)) + 1 := by omega
        rw [if_pos h2, if_pos (by simp; omega), e]; simp
      · rw [if_neg h2, if_neg h1, if_neg (by simp; omega)]

/-- Bytes read back from where they were put. -/
theorem memBytes_memPut {m : List Host.Cell} (h : Memory.wf m) (k : Nat) (bs : List Byte) :
    memBytes (memPut m k bs) k bs.length = bs := by
  apply List.ext_getElem
  · simp [memBytes]
  · intro i h1 h2
    simp only [memBytes, List.getElem_map, List.getElem_range, memRead_memPut h]
    rw [if_pos (by omega)]
    simp [h2]

/-- Bytes read from elsewhere are as before. -/
theorem memBytes_memPut_other {m : List Host.Cell} (h : Memory.wf m) (k j n : Nat) (bs : List Byte)
    (hd : j + n ≤ k ∨ k + bs.length ≤ j) : memBytes (memPut m k bs) j n = memBytes m j n := by
  apply List.map_congr_left
  intro i hi
  have hi : i < n := by simpa using hi
  rw [memRead_memPut h, if_neg (by omega)]

/-- Dropping cells leaves the bytes whose cells stay. -/
theorem memRead_filter {m : List Host.Cell} (h : Memory.wf m) (p : Host.Cell → Bool) (j : Nat)
    (hp : ∀ b, p (j, b) = true) : memRead (m.filter p) j = memRead m j := by
  induction m with
  | nil => rfl
  | cons c r ih =>
    obtain ⟨a, b⟩ := c
    obtain ⟨hb, ha, hr⟩ := (wf_cons a b r).1 h
    by_cases hc : p (a, b) = true
    · rw [List.filter_cons_of_pos hc]; simp only [memRead, ih hr]
    · rw [List.filter_cons_of_neg hc, ih hr]
      have hne : a ≠ j := fun e => hc (e ▸ hp b)
      simp only [memRead, beq_iff_eq]
      split_ifs with h1 h2
      · exact absurd h1 hne
      · exact memRead_below fun x hx => lt_trans h2 (ha x hx)
      · rfl

/-- The memory after reset is canonical. -/
theorem reset_wf : Memory.wf State.reset.mem := rfl

end Sys2Proof.Machine
end

