-- ==== Sys2Proof/Laws/Lanes.lean ====
section
/-! SUPPORT. What sets of lanes hold, and what changes of lists leave. -/
namespace Sys2Proof.Machine

/-- The bits of a sum of powers below `n`. -/
theorem foldl_pow_testBit (p : Nat → Bool) (n : Nat) :
    (List.range n).foldl (fun acc l => if p l then acc + 2 ^ l else acc) 0 < 2 ^ n ∧
    ∀ j, ((List.range n).foldl (fun acc l => if p l then acc + 2 ^ l else acc) 0).testBit j = (decide (j < n) && p j) := by
  induction n with
  | zero => simp
  | succ n ih =>
    obtain ⟨hl, hb⟩ := ih
    rw [List.range_succ, List.foldl_append]
    generalize (List.range n).foldl (fun acc l => if p l then acc + 2 ^ l else acc) 0 = x at hl hb
    simp only [List.foldl_cons, List.foldl_nil]
    by_cases h : p n = true
    · rw [if_pos h]
      refine ⟨by have := pow_succ 2 n; omega, fun j => ?_⟩
      rw [Nat.add_comm]
      rcases Nat.lt_trichotomy j n with hj | hj | hj
      · rw [Nat.testBit_two_pow_add_gt hj, hb]
        simp [hj, Nat.lt_succ_of_lt hj]
      · subst hj
        rw [Nat.testBit_two_pow_add_eq, hb]; simp [h]
      · have hs : 2 ^ n + x < 2 ^ j := by
          have h1 : 2 ^ (n + 1) ≤ 2 ^ j := Nat.pow_le_pow_right (by omega) hj
          have h2 : 2 ^ (n + 1) = 2 ^ n * 2 := pow_succ 2 n
          omega
        rw [Nat.testBit_lt_two_pow hs]; simp [Nat.not_lt.mpr (Nat.succ_le_of_lt hj)]
    · rw [if_neg h]
      refine ⟨by have := pow_succ 2 n; omega, fun j => ?_⟩
      rw [hb]
      rcases Nat.lt_trichotomy j n with hj | hj | hj
      · simp [hj, Nat.lt_succ_of_lt hj]
      · subst hj; simp [h]
      · simp [show ¬ j < n by omega, show ¬ j < n + 1 by omega]

/-- A lane belongs to the set of a test where it is below 96 and passes it. -/
@[simp] theorem has_ofPred (p : Nat → Bool) (l : Nat) : (LaneSet.ofPred p).has l = (decide (l < 96) && p l) := by
  unfold LaneSet.ofPred LaneSet.has laneIds
  rw [BitVec.getLsbD_ofNat, (foldl_pow_testBit p 96).2]
  by_cases h : l < 96 <;> simp [h]

/-- Sets with the same lanes are equal. -/
theorem laneSet_ext {a b : LaneSet} (h : ∀ l < 96, a.has l = b.has l) : a = b :=
  BitVec.eq_of_getLsbD_eq fun i hi => h i hi

/-- The set of a test that no lane passes is empty. -/
theorem ofPred_eq_zero (p : Nat → Bool) : LaneSet.ofPred p = 0 ↔ ∀ l < 96, p l = false := by
  constructor
  · intro h l hl
    have := has_ofPred p l
    rw [h] at this
    simpa [hl, LaneSet.has] using this.symm
  · intro h
    refine laneSet_ext fun l hl => ?_
    rw [has_ofPred, h l hl]
    simp [LaneSet.has]

/-- The lanes of a set as a list. -/
theorem mem_toList (m : LaneSet) (l : Nat) : l ∈ m.toList ↔ l < 96 ∧ m.has l = true := by
  simp [LaneSet.toList, laneIds, LaneSet.has]

/-- The element changed, and the others. -/
theorem getElem?_updAt {α : Type} (l : List α) (i j : Nat) (f : α → α) :
    (updAt l i f)[j]? = if i = j then l[j]?.map f else l[j]? := by
  induction l generalizing i j with
  | nil => simp [updAt]
  | cons x xs ih =>
    cases i with
    | zero => cases j <;> simp [updAt]
    | succ i => cases j <;> simp [updAt, ih]

@[simp] theorem length_updAt {α : Type} (l : List α) (i : Nat) (f : α → α) : (updAt l i f).length = l.length := by
  induction l generalizing i with
  | nil => rfl
  | cons x xs ih => cases i <;> simp [updAt, ih]

theorem nth_eq {α : Type} (d : α) (l : List α) (i : Nat) : nth d l i = l[i]?.getD d := by
  simp [nth]

/-- Reading the element that was changed. -/
theorem nth_updAt_self {α : Type} (d : α) (l : List α) (i : Nat) (f : α → α) (h : i < l.length) :
    nth d (updAt l i f) i = f (nth d l i) := by
  rw [nth_eq, nth_eq, getElem?_updAt, List.getElem?_eq_getElem h]; simp

/-- Reading another element. -/
theorem nth_updAt_ne {α : Type} (d : α) (l : List α) (i j : Nat) (f : α → α) (h : i ≠ j) :
    nth d (updAt l i f) j = nth d l j := by
  rw [nth_eq, nth_eq, getElem?_updAt, if_neg h]

/-- The lanes of a set are changed, the others are not. -/
theorem getElem?_mapLanes (ls : List Lane) (m : LaneSet) (g : Nat → Lane → Lane) (l : Nat) :
    (mapLanes ls m g)[l]? = ls[l]?.map fun ln => if m.has l then g l ln else ln := by
  simp [mapLanes, List.getElem?_mapIdx]

@[simp] theorem length_mapLanes (ls : List Lane) (m : LaneSet) (g : Nat → Lane → Lane) :
    (mapLanes ls m g).length = ls.length := by
  simp [mapLanes]

end Sys2Proof.Machine
end

