-- ==== Sys2Proof/Laws/State.lean ====
section
/-! SUPPORT. The fields of State after a change of one part, and the parts after their own changes. -/
namespace Sys2Proof.Machine

@[simp] theorem modCore_clusters (s : State) (n : Nat) (f : Core → Core) : (modCore s n f).clusters = s.clusters := rfl
@[simp] theorem modCore_dies (s : State) (n : Nat) (f : Core → Core) : (modCore s n f).dies = s.dies := rfl
@[simp] theorem modCore_mem (s : State) (n : Nat) (f : Core → Core) : (modCore s n f).mem = s.mem := rfl
@[simp] theorem modCore_past (s : State) (n : Nat) (f : Core → Core) : (modCore s n f).past = s.past := rfl
@[simp] theorem modCore_point (s : State) (n : Nat) (f : Core → Core) : (modCore s n f).point = s.point := rfl
@[simp] theorem modCore_knows (s : State) (n : Nat) (f : Core → Core) : (modCore s n f).knows = s.knows := rfl
@[simp] theorem modCore_shoots (s : State) (n : Nat) (f : Core → Core) : (modCore s n f).shoots = s.shoots := rfl
@[simp] theorem modCore_poison (s : State) (n : Nat) (f : Core → Core) : (modCore s n f).poison = s.poison := rfl
@[simp] theorem modCore_latent (s : State) (n : Nat) (f : Core → Core) : (modCore s n f).latent = s.latent := rfl
@[simp] theorem modCore_l1 (s : State) (n : Nat) (f : Core → Core) : (modCore s n f).l1 = s.l1 := rfl
@[simp] theorem modCore_correct (s : State) (n : Nat) (f : Core → Core) : (modCore s n f).correct = s.correct := rfl
@[simp] theorem modCore_logged (s : State) (n : Nat) (f : Core → Core) : (modCore s n f).logged = s.logged := rfl
@[simp] theorem modCore_time (s : State) (n : Nat) (f : Core → Core) : (modCore s n f).time = s.time := rfl
@[simp] theorem modCore_boot (s : State) (n : Nat) (f : Core → Core) : (modCore s n f).boot = s.boot := rfl
@[simp] theorem modCore_image (s : State) (n : Nat) (f : Core → Core) : (modCore s n f).image = s.image := rfl
@[simp] theorem modCore_signed (s : State) (n : Nat) (f : Core → Core) : (modCore s n f).signed = s.signed := rfl
@[simp] theorem modCore_ctxs (s : State) (n : Nat) (f : Core → Core) : (modCore s n f).ctxs = s.ctxs := rfl
@[simp] theorem modCore_shardVer (s : State) (n : Nat) (f : Core → Core) : (modCore s n f).shardVer = s.shardVer := rfl
@[simp] theorem modCore_launches (s : State) (n : Nat) (f : Core → Core) : (modCore s n f).launches = s.launches := rfl
@[simp] theorem modCore_crews (s : State) (n : Nat) (f : Core → Core) : (modCore s n f).crews = s.crews := rfl
@[simp] theorem modCore_nextCl (s : State) (n : Nat) (f : Core → Core) : (modCore s n f).nextCl = s.nextCl := rfl
@[simp] theorem modCore_lists (s : State) (n : Nat) (f : Core → Core) : (modCore s n f).lists = s.lists := rfl
@[simp] theorem modCore_saved (s : State) (n : Nat) (f : Core → Core) : (modCore s n f).saved = s.saved := rfl
@[simp] theorem modCore_faults (s : State) (n : Nat) (f : Core → Core) : (modCore s n f).faults = s.faults := rfl
@[simp] theorem modCore_nmcs (s : State) (n : Nat) (f : Core → Core) : (modCore s n f).nmcs = s.nmcs := rfl
@[simp] theorem modCore_thrash (s : State) (n : Nat) (f : Core → Core) : (modCore s n f).thrash = s.thrash := rfl
@[simp] theorem modCore_migCtl (s : State) (n : Nat) (f : Core → Core) : (modCore s n f).migCtl = s.migCtl := rfl
@[simp] theorem modCore_rampset (s : State) (n : Nat) (f : Core → Core) : (modCore s n f).rampset = s.rampset := rfl
@[simp] theorem modCore_rate (s : State) (n : Nat) (f : Core → Core) : (modCore s n f).rate = s.rate := rfl
@[simp] theorem modCore_gov (s : State) (n : Nat) (f : Core → Core) : (modCore s n f).gov = s.gov := rfl
@[simp] theorem modCore_bank (s : State) (n : Nat) (f : Core → Core) : (modCore s n f).bank = s.bank := rfl
@[simp] theorem modCore_govAt (s : State) (n : Nat) (f : Core → Core) : (modCore s n f).govAt = s.govAt := rfl
@[simp] theorem modCore_badLanes (s : State) (n : Nat) (f : Core → Core) : (modCore s n f).badLanes = s.badLanes := rfl
@[simp] theorem modCore_remapped (s : State) (n : Nat) (f : Core → Core) : (modCore s n f).remapped = s.remapped := rfl
@[simp] theorem modCore_migration (s : State) (n : Nat) (f : Core → Core) : (modCore s n f).migration = s.migration := rfl
@[simp] theorem modCore_intents (s : State) (n : Nat) (f : Core → Core) : (modCore s n f).intents = s.intents := rfl
@[simp] theorem modCore_feature0 (s : State) (n : Nat) (f : Core → Core) : (modCore s n f).feature0 = s.feature0 := rfl
@[simp] theorem modCore_pkgId (s : State) (n : Nat) (f : Core → Core) : (modCore s n f).pkgId = s.pkgId := rfl
@[simp] theorem modCore_tier (s : State) (n : Nat) (f : Core → Core) : (modCore s n f).tier = s.tier := rfl
@[simp] theorem modCore_routes (s : State) (n : Nat) (f : Core → Core) : (modCore s n f).routes = s.routes := rfl
@[simp] theorem modCore_groupRoutes (s : State) (n : Nat) (f : Core → Core) : (modCore s n f).groupRoutes = s.groupRoutes := rfl
@[simp] theorem modCore_fabCtl (s : State) (n : Nat) (f : Core → Core) : (modCore s n f).fabCtl = s.fabCtl := rfl
@[simp] theorem modCore_ports (s : State) (n : Nat) (f : Core → Core) : (modCore s n f).ports = s.ports := rfl
@[simp] theorem modCore_remotes (s : State) (n : Nat) (f : Core → Core) : (modCore s n f).remotes = s.remotes := rfl
@[simp] theorem modCore_outWrites (s : State) (n : Nat) (f : Core → Core) : (modCore s n f).outWrites = s.outWrites := rfl
@[simp] theorem modCore_mcsts (s : State) (n : Nat) (f : Core → Core) : (modCore s n f).mcsts = s.mcsts := rfl
@[simp] theorem modCore_notifies (s : State) (n : Nat) (f : Core → Core) : (modCore s n f).notifies = s.notifies := rfl
@[simp] theorem modCore_groups (s : State) (n : Nat) (f : Core → Core) : (modCore s n f).groups = s.groups := rfl
@[simp] theorem modCore_meddled (s : State) (n : Nat) (f : Core → Core) : (modCore s n f).meddled = s.meddled := rfl
@[simp] theorem modCore_applying (s : State) (n : Nat) (f : Core → Core) : (modCore s n f).applying = s.applying := rfl
@[simp] theorem modCore_control (s : State) (n : Nat) (f : Core → Core) : (modCore s n f).control = s.control := rfl
@[simp] theorem modCore_outbox (s : State) (n : Nat) (f : Core → Core) : (modCore s n f).outbox = s.outbox := rfl
@[simp] theorem modCore_portQ (s : State) (n : Nat) (f : Core → Core) : (modCore s n f).portQ = s.portQ := rfl
@[simp] theorem modCore_nextId (s : State) (n : Nat) (f : Core → Core) : (modCore s n f).nextId = s.nextId := rfl
@[simp] theorem modCore_free (s : State) (n : Nat) (f : Core → Core) : (modCore s n f).free = s.free := rfl
@[simp] theorem modCore_sel (s : State) (n : Nat) (f : Core → Core) : (modCore s n f).sel = s.sel := rfl
@[simp] theorem modCore_agenda (s : State) (n : Nat) (f : Core → Core) : (modCore s n f).agenda = s.agenda := rfl

@[simp] theorem modCluster_cores (s : State) (n : Nat) (f : Cluster → Cluster) : (modCluster s n f).cores = s.cores := rfl
@[simp] theorem modCluster_dies (s : State) (n : Nat) (f : Cluster → Cluster) : (modCluster s n f).dies = s.dies := rfl
@[simp] theorem modCluster_mem (s : State) (n : Nat) (f : Cluster → Cluster) : (modCluster s n f).mem = s.mem := rfl
@[simp] theorem modCluster_past (s : State) (n : Nat) (f : Cluster → Cluster) : (modCluster s n f).past = s.past := rfl
@[simp] theorem modCluster_point (s : State) (n : Nat) (f : Cluster → Cluster) : (modCluster s n f).point = s.point := rfl
@[simp] theorem modCluster_knows (s : State) (n : Nat) (f : Cluster → Cluster) : (modCluster s n f).knows = s.knows := rfl
@[simp] theorem modCluster_shoots (s : State) (n : Nat) (f : Cluster → Cluster) : (modCluster s n f).shoots = s.shoots := rfl
@[simp] theorem modCluster_poison (s : State) (n : Nat) (f : Cluster → Cluster) : (modCluster s n f).poison = s.poison := rfl
@[simp] theorem modCluster_latent (s : State) (n : Nat) (f : Cluster → Cluster) : (modCluster s n f).latent = s.latent := rfl
@[simp] theorem modCluster_l1 (s : State) (n : Nat) (f : Cluster → Cluster) : (modCluster s n f).l1 = s.l1 := rfl
@[simp] theorem modCluster_correct (s : State) (n : Nat) (f : Cluster → Cluster) : (modCluster s n f).correct = s.correct := rfl
@[simp] theorem modCluster_logged (s : State) (n : Nat) (f : Cluster → Cluster) : (modCluster s n f).logged = s.logged := rfl
@[simp] theorem modCluster_time (s : State) (n : Nat) (f : Cluster → Cluster) : (modCluster s n f).time = s.time := rfl
@[simp] theorem modCluster_boot (s : State) (n : Nat) (f : Cluster → Cluster) : (modCluster s n f).boot = s.boot := rfl
@[simp] theorem modCluster_image (s : State) (n : Nat) (f : Cluster → Cluster) : (modCluster s n f).image = s.image := rfl
@[simp] theorem modCluster_signed (s : State) (n : Nat) (f : Cluster → Cluster) : (modCluster s n f).signed = s.signed := rfl
@[simp] theorem modCluster_ctxs (s : State) (n : Nat) (f : Cluster → Cluster) : (modCluster s n f).ctxs = s.ctxs := rfl
@[simp] theorem modCluster_shardVer (s : State) (n : Nat) (f : Cluster → Cluster) : (modCluster s n f).shardVer = s.shardVer := rfl
@[simp] theorem modCluster_launches (s : State) (n : Nat) (f : Cluster → Cluster) : (modCluster s n f).launches = s.launches := rfl
@[simp] theorem modCluster_crews (s : State) (n : Nat) (f : Cluster → Cluster) : (modCluster s n f).crews = s.crews := rfl
@[simp] theorem modCluster_nextCl (s : State) (n : Nat) (f : Cluster → Cluster) : (modCluster s n f).nextCl = s.nextCl := rfl
@[simp] theorem modCluster_lists (s : State) (n : Nat) (f : Cluster → Cluster) : (modCluster s n f).lists = s.lists := rfl
@[simp] theorem modCluster_saved (s : State) (n : Nat) (f : Cluster → Cluster) : (modCluster s n f).saved = s.saved := rfl
@[simp] theorem modCluster_faults (s : State) (n : Nat) (f : Cluster → Cluster) : (modCluster s n f).faults = s.faults := rfl
@[simp] theorem modCluster_nmcs (s : State) (n : Nat) (f : Cluster → Cluster) : (modCluster s n f).nmcs = s.nmcs := rfl
@[simp] theorem modCluster_thrash (s : State) (n : Nat) (f : Cluster → Cluster) : (modCluster s n f).thrash = s.thrash := rfl
@[simp] theorem modCluster_migCtl (s : State) (n : Nat) (f : Cluster → Cluster) : (modCluster s n f).migCtl = s.migCtl := rfl
@[simp] theorem modCluster_rampset (s : State) (n : Nat) (f : Cluster → Cluster) : (modCluster s n f).rampset = s.rampset := rfl
@[simp] theorem modCluster_rate (s : State) (n : Nat) (f : Cluster → Cluster) : (modCluster s n f).rate = s.rate := rfl
@[simp] theorem modCluster_gov (s : State) (n : Nat) (f : Cluster → Cluster) : (modCluster s n f).gov = s.gov := rfl
@[simp] theorem modCluster_bank (s : State) (n : Nat) (f : Cluster → Cluster) : (modCluster s n f).bank = s.bank := rfl
@[simp] theorem modCluster_govAt (s : State) (n : Nat) (f : Cluster → Cluster) : (modCluster s n f).govAt = s.govAt := rfl
@[simp] theorem modCluster_badLanes (s : State) (n : Nat) (f : Cluster → Cluster) : (modCluster s n f).badLanes = s.badLanes := rfl
@[simp] theorem modCluster_remapped (s : State) (n : Nat) (f : Cluster → Cluster) : (modCluster s n f).remapped = s.remapped := rfl
@[simp] theorem modCluster_migration (s : State) (n : Nat) (f : Cluster → Cluster) : (modCluster s n f).migration = s.migration := rfl
@[simp] theorem modCluster_intents (s : State) (n : Nat) (f : Cluster → Cluster) : (modCluster s n f).intents = s.intents := rfl
@[simp] theorem modCluster_feature0 (s : State) (n : Nat) (f : Cluster → Cluster) : (modCluster s n f).feature0 = s.feature0 := rfl
@[simp] theorem modCluster_pkgId (s : State) (n : Nat) (f : Cluster → Cluster) : (modCluster s n f).pkgId = s.pkgId := rfl
@[simp] theorem modCluster_tier (s : State) (n : Nat) (f : Cluster → Cluster) : (modCluster s n f).tier = s.tier := rfl
@[simp] theorem modCluster_routes (s : State) (n : Nat) (f : Cluster → Cluster) : (modCluster s n f).routes = s.routes := rfl
@[simp] theorem modCluster_groupRoutes (s : State) (n : Nat) (f : Cluster → Cluster) : (modCluster s n f).groupRoutes = s.groupRoutes := rfl
@[simp] theorem modCluster_fabCtl (s : State) (n : Nat) (f : Cluster → Cluster) : (modCluster s n f).fabCtl = s.fabCtl := rfl
@[simp] theorem modCluster_ports (s : State) (n : Nat) (f : Cluster → Cluster) : (modCluster s n f).ports = s.ports := rfl
@[simp] theorem modCluster_remotes (s : State) (n : Nat) (f : Cluster → Cluster) : (modCluster s n f).remotes = s.remotes := rfl
@[simp] theorem modCluster_outWrites (s : State) (n : Nat) (f : Cluster → Cluster) : (modCluster s n f).outWrites = s.outWrites := rfl
@[simp] theorem modCluster_mcsts (s : State) (n : Nat) (f : Cluster → Cluster) : (modCluster s n f).mcsts = s.mcsts := rfl
@[simp] theorem modCluster_notifies (s : State) (n : Nat) (f : Cluster → Cluster) : (modCluster s n f).notifies = s.notifies := rfl
@[simp] theorem modCluster_groups (s : State) (n : Nat) (f : Cluster → Cluster) : (modCluster s n f).groups = s.groups := rfl
@[simp] theorem modCluster_meddled (s : State) (n : Nat) (f : Cluster → Cluster) : (modCluster s n f).meddled = s.meddled := rfl
@[simp] theorem modCluster_applying (s : State) (n : Nat) (f : Cluster → Cluster) : (modCluster s n f).applying = s.applying := rfl
@[simp] theorem modCluster_control (s : State) (n : Nat) (f : Cluster → Cluster) : (modCluster s n f).control = s.control := rfl
@[simp] theorem modCluster_outbox (s : State) (n : Nat) (f : Cluster → Cluster) : (modCluster s n f).outbox = s.outbox := rfl
@[simp] theorem modCluster_portQ (s : State) (n : Nat) (f : Cluster → Cluster) : (modCluster s n f).portQ = s.portQ := rfl
@[simp] theorem modCluster_nextId (s : State) (n : Nat) (f : Cluster → Cluster) : (modCluster s n f).nextId = s.nextId := rfl
@[simp] theorem modCluster_free (s : State) (n : Nat) (f : Cluster → Cluster) : (modCluster s n f).free = s.free := rfl
@[simp] theorem modCluster_sel (s : State) (n : Nat) (f : Cluster → Cluster) : (modCluster s n f).sel = s.sel := rfl
@[simp] theorem modCluster_agenda (s : State) (n : Nat) (f : Cluster → Cluster) : (modCluster s n f).agenda = s.agenda := rfl

@[simp] theorem modDie_cores (s : State) (n : Nat) (f : Die → Die) : (modDie s n f).cores = s.cores := rfl
@[simp] theorem modDie_clusters (s : State) (n : Nat) (f : Die → Die) : (modDie s n f).clusters = s.clusters := rfl
@[simp] theorem modDie_mem (s : State) (n : Nat) (f : Die → Die) : (modDie s n f).mem = s.mem := rfl
@[simp] theorem modDie_past (s : State) (n : Nat) (f : Die → Die) : (modDie s n f).past = s.past := rfl
@[simp] theorem modDie_point (s : State) (n : Nat) (f : Die → Die) : (modDie s n f).point = s.point := rfl
@[simp] theorem modDie_knows (s : State) (n : Nat) (f : Die → Die) : (modDie s n f).knows = s.knows := rfl
@[simp] theorem modDie_shoots (s : State) (n : Nat) (f : Die → Die) : (modDie s n f).shoots = s.shoots := rfl
@[simp] theorem modDie_poison (s : State) (n : Nat) (f : Die → Die) : (modDie s n f).poison = s.poison := rfl
@[simp] theorem modDie_latent (s : State) (n : Nat) (f : Die → Die) : (modDie s n f).latent = s.latent := rfl
@[simp] theorem modDie_l1 (s : State) (n : Nat) (f : Die → Die) : (modDie s n f).l1 = s.l1 := rfl
@[simp] theorem modDie_correct (s : State) (n : Nat) (f : Die → Die) : (modDie s n f).correct = s.correct := rfl
@[simp] theorem modDie_logged (s : State) (n : Nat) (f : Die → Die) : (modDie s n f).logged = s.logged := rfl
@[simp] theorem modDie_time (s : State) (n : Nat) (f : Die → Die) : (modDie s n f).time = s.time := rfl
@[simp] theorem modDie_boot (s : State) (n : Nat) (f : Die → Die) : (modDie s n f).boot = s.boot := rfl
@[simp] theorem modDie_image (s : State) (n : Nat) (f : Die → Die) : (modDie s n f).image = s.image := rfl
@[simp] theorem modDie_signed (s : State) (n : Nat) (f : Die → Die) : (modDie s n f).signed = s.signed := rfl
@[simp] theorem modDie_ctxs (s : State) (n : Nat) (f : Die → Die) : (modDie s n f).ctxs = s.ctxs := rfl
@[simp] theorem modDie_shardVer (s : State) (n : Nat) (f : Die → Die) : (modDie s n f).shardVer = s.shardVer := rfl
@[simp] theorem modDie_launches (s : State) (n : Nat) (f : Die → Die) : (modDie s n f).launches = s.launches := rfl
@[simp] theorem modDie_crews (s : State) (n : Nat) (f : Die → Die) : (modDie s n f).crews = s.crews := rfl
@[simp] theorem modDie_nextCl (s : State) (n : Nat) (f : Die → Die) : (modDie s n f).nextCl = s.nextCl := rfl
@[simp] theorem modDie_lists (s : State) (n : Nat) (f : Die → Die) : (modDie s n f).lists = s.lists := rfl
@[simp] theorem modDie_saved (s : State) (n : Nat) (f : Die → Die) : (modDie s n f).saved = s.saved := rfl
@[simp] theorem modDie_faults (s : State) (n : Nat) (f : Die → Die) : (modDie s n f).faults = s.faults := rfl
@[simp] theorem modDie_nmcs (s : State) (n : Nat) (f : Die → Die) : (modDie s n f).nmcs = s.nmcs := rfl
@[simp] theorem modDie_thrash (s : State) (n : Nat) (f : Die → Die) : (modDie s n f).thrash = s.thrash := rfl
@[simp] theorem modDie_migCtl (s : State) (n : Nat) (f : Die → Die) : (modDie s n f).migCtl = s.migCtl := rfl
@[simp] theorem modDie_rampset (s : State) (n : Nat) (f : Die → Die) : (modDie s n f).rampset = s.rampset := rfl
@[simp] theorem modDie_rate (s : State) (n : Nat) (f : Die → Die) : (modDie s n f).rate = s.rate := rfl
@[simp] theorem modDie_gov (s : State) (n : Nat) (f : Die → Die) : (modDie s n f).gov = s.gov := rfl
@[simp] theorem modDie_bank (s : State) (n : Nat) (f : Die → Die) : (modDie s n f).bank = s.bank := rfl
@[simp] theorem modDie_govAt (s : State) (n : Nat) (f : Die → Die) : (modDie s n f).govAt = s.govAt := rfl
@[simp] theorem modDie_badLanes (s : State) (n : Nat) (f : Die → Die) : (modDie s n f).badLanes = s.badLanes := rfl
@[simp] theorem modDie_remapped (s : State) (n : Nat) (f : Die → Die) : (modDie s n f).remapped = s.remapped := rfl
@[simp] theorem modDie_migration (s : State) (n : Nat) (f : Die → Die) : (modDie s n f).migration = s.migration := rfl
@[simp] theorem modDie_intents (s : State) (n : Nat) (f : Die → Die) : (modDie s n f).intents = s.intents := rfl
@[simp] theorem modDie_feature0 (s : State) (n : Nat) (f : Die → Die) : (modDie s n f).feature0 = s.feature0 := rfl
@[simp] theorem modDie_pkgId (s : State) (n : Nat) (f : Die → Die) : (modDie s n f).pkgId = s.pkgId := rfl
@[simp] theorem modDie_tier (s : State) (n : Nat) (f : Die → Die) : (modDie s n f).tier = s.tier := rfl
@[simp] theorem modDie_routes (s : State) (n : Nat) (f : Die → Die) : (modDie s n f).routes = s.routes := rfl
@[simp] theorem modDie_groupRoutes (s : State) (n : Nat) (f : Die → Die) : (modDie s n f).groupRoutes = s.groupRoutes := rfl
@[simp] theorem modDie_fabCtl (s : State) (n : Nat) (f : Die → Die) : (modDie s n f).fabCtl = s.fabCtl := rfl
@[simp] theorem modDie_ports (s : State) (n : Nat) (f : Die → Die) : (modDie s n f).ports = s.ports := rfl
@[simp] theorem modDie_remotes (s : State) (n : Nat) (f : Die → Die) : (modDie s n f).remotes = s.remotes := rfl
@[simp] theorem modDie_outWrites (s : State) (n : Nat) (f : Die → Die) : (modDie s n f).outWrites = s.outWrites := rfl
@[simp] theorem modDie_mcsts (s : State) (n : Nat) (f : Die → Die) : (modDie s n f).mcsts = s.mcsts := rfl
@[simp] theorem modDie_notifies (s : State) (n : Nat) (f : Die → Die) : (modDie s n f).notifies = s.notifies := rfl
@[simp] theorem modDie_groups (s : State) (n : Nat) (f : Die → Die) : (modDie s n f).groups = s.groups := rfl
@[simp] theorem modDie_meddled (s : State) (n : Nat) (f : Die → Die) : (modDie s n f).meddled = s.meddled := rfl
@[simp] theorem modDie_applying (s : State) (n : Nat) (f : Die → Die) : (modDie s n f).applying = s.applying := rfl
@[simp] theorem modDie_control (s : State) (n : Nat) (f : Die → Die) : (modDie s n f).control = s.control := rfl
@[simp] theorem modDie_outbox (s : State) (n : Nat) (f : Die → Die) : (modDie s n f).outbox = s.outbox := rfl
@[simp] theorem modDie_portQ (s : State) (n : Nat) (f : Die → Die) : (modDie s n f).portQ = s.portQ := rfl
@[simp] theorem modDie_nextId (s : State) (n : Nat) (f : Die → Die) : (modDie s n f).nextId = s.nextId := rfl
@[simp] theorem modDie_free (s : State) (n : Nat) (f : Die → Die) : (modDie s n f).free = s.free := rfl
@[simp] theorem modDie_sel (s : State) (n : Nat) (f : Die → Die) : (modDie s n f).sel = s.sel := rfl
@[simp] theorem modDie_agenda (s : State) (n : Nat) (f : Die → Die) : (modDie s n f).agenda = s.agenda := rfl

/-- Core `m` after a change of core `n`. -/
theorem coreAt_modCore (s : State) (n m : Nat) (f : Core → Core) :
    coreAt (modCore s n f) m = if n = m ∧ n < s.cores.length then f (coreAt s m) else coreAt s m := by
  unfold coreAt modCore
  by_cases h : n = m
  · subst h
    by_cases hn : n < s.cores.length
    · simp [hn, nth_updAt_self _ _ _ _ hn]
    · have : (updAt s.cores n f)[n]? = none := by rw [List.getElem?_eq_none]; simpa using hn
      rw [nth_eq, this, if_neg (by simp [hn]), nth_eq, List.getElem?_eq_none (by simpa using hn)]
  · rw [nth_updAt_ne _ _ _ _ _ h, if_neg (by simp [h])]

/-- Cluster `m` after a change of cluster `n`. -/
theorem clusterAt_modCluster (s : State) (n m : Nat) (f : Cluster → Cluster) :
    clusterAt (modCluster s n f) m = if n = m ∧ n < s.clusters.length then f (clusterAt s m) else clusterAt s m := by
  unfold clusterAt modCluster
  by_cases h : n = m
  · subst h
    by_cases hn : n < s.clusters.length
    · simp [hn, nth_updAt_self _ _ _ _ hn]
    · have : (updAt s.clusters n f)[n]? = none := by rw [List.getElem?_eq_none]; simpa using hn
      rw [nth_eq, this, if_neg (by simp [hn]), nth_eq, List.getElem?_eq_none (by simpa using hn)]
  · rw [nth_updAt_ne _ _ _ _ _ h, if_neg (by simp [h])]

@[simp] theorem coreAt_modCluster (s : State) (n m : Nat) (f : Cluster → Cluster) :
    coreAt (modCluster s n f) m = coreAt s m := rfl
@[simp] theorem coreAt_modDie (s : State) (n m : Nat) (f : Die → Die) : coreAt (modDie s n f) m = coreAt s m := rfl
@[simp] theorem clusterAt_modCore (s : State) (n m : Nat) (f : Core → Core) :
    clusterAt (modCore s n f) m = clusterAt s m := rfl
@[simp] theorem clusterAt_modDie (s : State) (n m : Nat) (f : Die → Die) :
    clusterAt (modDie s n f) m = clusterAt s m := rfl
@[simp] theorem dieAt_modCore (s : State) (n m : Nat) (f : Core → Core) : dieAt (modCore s n f) m = dieAt s m := rfl

/-- A core that holds a train is one of the package's. -/
theorem core_lt {s : State} {core slot : Nat} {t : Train} (h : trainAt s core slot = some t) : core < s.cores.length := by
  by_contra hc
  have : coreAt s core = Core.reset := by
    unfold coreAt; rw [nth_eq, List.getElem?_eq_none (by omega)]; rfl
  unfold trainAt at h
  rw [this, nth_eq] at h
  simp only [Core.reset, List.getElem?_replicate] at h
  split at h <;> simp at h

/-- The slot that holds a train is one of its core's. -/
theorem slot_lt {s : State} {core slot : Nat} {t : Train} (h : trainAt s core slot = some t) :
    slot < (coreAt s core).slots.length := by
  by_contra hc
  unfold trainAt at h
  rw [nth_eq, List.getElem?_eq_none (by omega)] at h
  simp at h

/-- The train of a slot after a change of its core that keeps the slots. -/
theorem trainAt_modCore (s : State) (n core slot : Nat) (f : Core → Core) (h : ∀ k, (f k).slots = k.slots) :
    trainAt (modCore s n f) core slot = trainAt s core slot := by
  unfold trainAt
  rw [coreAt_modCore]
  split <;> simp [h]

@[simp] theorem trainAt_modCluster (s : State) (n core slot : Nat) (f : Cluster → Cluster) :
    trainAt (modCluster s n f) core slot = trainAt s core slot := rfl
@[simp] theorem trainAt_modDie (s : State) (n core slot : Nat) (f : Die → Die) :
    trainAt (modDie s n f) core slot = trainAt s core slot := rfl

/-- The train after its own change. -/
theorem trainAt_modTrain {s : State} {core slot : Nat} {t : Train} (h : trainAt s core slot = some t)
    (f : Train → Train) : trainAt (modTrain s core slot f) core slot = some (f t) := by
  have h1 := core_lt h
  have h2 := slot_lt h
  unfold modTrain
  unfold trainAt at h ⊢
  rw [coreAt_modCore, if_pos ⟨rfl, h1⟩]
  rw [nth_updAt_self _ _ _ _ h2, h]
  rfl

/-- Another train after a change of one. -/
theorem trainAt_modTrain_ne (s : State) {core slot core' slot' : Nat} (h : core ≠ core' ∨ slot ≠ slot')
    (f : Train → Train) : trainAt (modTrain s core slot f) core' slot' = trainAt s core' slot' := by
  unfold modTrain trainAt
  rw [coreAt_modCore]
  split
  · rename_i hc
    rcases h with h | h
    · exact absurd hc.1 h
    · show nth none (updAt (coreAt s core').slots slot _) slot' = _
      rw [nth_updAt_ne _ _ _ _ _ h]
  · rfl

@[simp] theorem modTrain_mem (s : State) (core slot : Nat) (f : Train → Train) : (modTrain s core slot f).mem = s.mem := rfl
@[simp] theorem modTrain_clusters (s : State) (core slot : Nat) (f : Train → Train) :
    (modTrain s core slot f).clusters = s.clusters := rfl
@[simp] theorem modTrain_time (s : State) (core slot : Nat) (f : Train → Train) :
    (modTrain s core slot f).time = s.time := rfl
@[simp] theorem modPath_mem (s : State) (r : PathRef) (f : Path → Path) : (modPath s r f).mem = s.mem := rfl
@[simp] theorem modPath_clusters (s : State) (r : PathRef) (f : Path → Path) : (modPath s r f).clusters = s.clusters := rfl
@[simp] theorem modPath_time (s : State) (r : PathRef) (f : Path → Path) : (modPath s r f).time = s.time := rfl

/-- What a core keeps beside its trains is unchanged by a change of a train. -/
theorem coreAt_modTrain (s : State) (core slot n : Nat) (f : Train → Train) :
    ∃ l, coreAt (modTrain s core slot f) n = { coreAt s n with slots := l } := by
  unfold modTrain
  rw [coreAt_modCore]
  split
  · exact ⟨_, rfl⟩
  · exact ⟨_, rfl⟩

/-- The table in use after it was replaced. -/
theorem pathsOf_withPaths {t : Train} {b : Bool} (h : b = true → t.handler.isSome) (ps : List (Option Path)) :
    pathsOf (withPaths t b ps) b = ps := by
  unfold pathsOf withPaths
  cases b with
  | false => rfl
  | true => cases ht : t.handler with
    | none => simp [ht] at h
    | some x => simp

/-- The path after its own change. -/
theorem pathAt_modPath {s : State} {r : PathRef} {p : Path} (h : pathAt s r = some p) (f : Path → Path) :
    pathAt (modPath s r f) r = some (f p) := by
  unfold pathAt at h
  split at h
  · rename_i t ht
    unfold pathAt modPath
    rw [trainAt_modTrain ht]
    have hh : r.handler = true → t.handler.isSome := by
      intro hb
      rw [hb] at h
      cases hx : t.handler with
      | none => simp [pathsOf, hx, nth] at h
      | some x => rfl
    show nth none (pathsOf (withPaths t r.handler _) r.handler) r.entry = _
    rw [pathsOf_withPaths hh]
    have hl : r.entry < (pathsOf t r.handler).length := by
      by_contra hc
      rw [nth_eq, List.getElem?_eq_none (by omega)] at h
      simp at h
    rw [nth_updAt_self _ _ _ _ hl, h]
    rfl
  · simp at h

end Sys2Proof.Machine
end

