-- ==== Sys2Proof/Laws/Canonical.lean ====
section
/-! SUPPORT. The shared operations keep the memory's canonical form. -/
namespace Sys2Proof.Machine

/-- A property that each step of a fold keeps, the fold keeps. -/
theorem foldl_keeps {α β : Type} (P : β → Prop) {f : β → α → β} (hf : ∀ s x, P s → P (f s x)) (l : List α) {s : β}
    (h : P s) : P (l.foldl f s) := by
  induction l generalizing s with
  | nil => exact h
  | cons x l ih => exact ih (hf s x h)

/-- A fold whose steps leave the memory leaves it. -/
theorem foldl_mem {α : Type} {f : State → α → State} (hf : ∀ s x, (f s x).mem = s.mem) (l : List α) (s : State) :
    (l.foldl f s).mem = s.mem := by
  induction l generalizing s with
  | nil => rfl
  | cons x l ih => exact (ih (f s x)).trans (hf s x)

@[simp] theorem wakeWaiters_mem (s : State) (k n : Nat) : (wakeWaiters s k n).mem = s.mem := by
  unfold wakeWaiters
  refine foldl_mem (fun s l => ?_) _ s
  refine foldl_mem (fun s m => ?_) _ s
  rfl

@[simp] theorem landMem_mem (s : State) (kind : WriteKind) (m : List Host.Cell) (k n : Nat) :
    (landMem s kind m k n).mem = m := by
  unfold landMem
  rw [wakeWaiters_mem]
  rfl

@[simp] theorem send_mem (s : State) (m : OutMsg) : (send s m).mem = s.mem := rfl
@[simp] theorem pushFrame_mem (s : State) (lane off : Nat) (data : List Byte) : (pushFrame s lane off data).mem = s.mem := rfl
@[simp] theorem fresh_mem (s : State) : (fresh s).2.mem = s.mem := rfl
@[simp] theorem drawFree_mem (s : State) : (drawFree s).2.mem = s.mem := rfl
@[simp] theorem dieDraw_mem (s : State) (die n : Nat) : (dieDraw s die n).mem = s.mem := rfl
@[simp] theorem svcPush_mem (s : State) (c : Nat) (q : SvcReq) : (svcPush s c q).mem = s.mem := rfl

@[simp] theorem drawHome_mem (s : State) (g : Nat) : (drawHome s g).mem = s.mem := by
  unfold drawHome
  split <;> rfl

@[simp] theorem stashMask_mem (s : State) (k n : Nat) : (stashMask s k n).mem = s.mem := by
  unfold stashMask
  split <;> rfl

@[simp] theorem modSector_mem (s : State) (core g : Nat) (f : L1Sector → L1Sector) : (modSector s core g f).mem = s.mem := by
  unfold modSector
  split <;> rfl

@[simp] theorem signalObj_mem (s : State) (asid : Nat) (k : Option Nat) (f : Option (Nat × DWord)) (know : List (Nat × Nat)) :
    (signalObj s asid k f know).mem = s.mem := by
  cases k <;> rfl

/-- A record appended to a ring keeps the canonical form. -/
theorem wf_ringPush {m m' : List Host.Cell} (h : Memory.wf m) {base size : Nat} {r : List Byte}
    (e : ringPush m base size r = some m') : Memory.wf m' := by
  unfold ringPush at e
  split at e
  · cases e
  · cases e; exact wf_memPut (wf_memPut h _ _) _ _

@[simp] theorem markFound_mem (s : State) (g : Nat) : (markFound s g).mem = s.mem := rfl
@[simp] theorem countLost_mem (s : State) : (countLost s).mem = s.mem := rfl

/-- A record of the error log keeps the canonical form, whatever further errors it finds. -/
theorem wf_logRecord (fuel : Nat) : ∀ (rec_ : List Byte) {s : State}, Memory.wf s.mem → Memory.wf (logRecord rec_ s fuel).mem := by
  induction fuel with
  | zero => intro _ _ h; exact h
  | succ n ih =>
    have touch : ∀ (gs : List Nat) {s : State}, Memory.wf s.mem → Memory.wf (gs.foldl (fun s g =>
        if s.logged.contains g then markFound s g else logRecord (foundRecord s 0xFFFFFFFF g) (markFound s g) n) s).mem := by
      intro gs s h
      refine foldl_keeps (fun s : State => Memory.wf s.mem) (fun s x hs => ?_) gs h
      split
      · exact hs
      · exact ih _ hs
    intro rec_ s h
    rw [logRecord]
    split
    · split <;> exact h
    · dsimp only
      split
      · rename_i e
        refine touch _ ?_
        simpa using wf_ringPush h e
      · exact touch _ (wf_memPut h _ _)

theorem wf_logError {s : State} (h : Memory.wf s.mem) (pa kind source detail asid : Nat) :
    Memory.wf (logError s pa kind source detail asid).mem := wf_logRecord _ _ h

theorem wf_findError {s : State} (h : Memory.wf s.mem) (asid g : Nat) : Memory.wf (findError s asid g).mem := by
  unfold findError
  split
  · exact h
  · exact wf_logRecord _ _ (by exact h)

theorem wf_homeMask {s : State} (h : Memory.wf s.mem) (asid g : Nat) (mask : BitVec 64) :
    Memory.wf (homeMask s asid g mask).mem := by
  have hd : Memory.wf (drawHome s g).mem := by simpa using h
  unfold homeMask
  dsimp only
  split
  · exact hd
  · split
    · exact wf_findError hd _ _
    · exact hd

theorem wf_recallMasks {s : State} (h : Memory.wf s.mem) (asid g : Nat) (keep : Option Nat) :
    Memory.wf (recallMasks s asid g keep).mem := by
  unfold recallMasks
  dsimp only
  split
  · exact h
  · exact foldl_keeps (fun s : State => Memory.wf s.mem) (fun s x hs => wf_homeMask hs _ _ _) _ h

theorem wf_homeGranule {s : State} (h : Memory.wf s.mem) (asid k n g : Nat) : Memory.wf (homeGranule s asid k n g).mem := by
  unfold homeGranule
  dsimp only
  split
  · simpa using wf_recallMasks h asid g none
  · exact wf_homeMask (wf_recallMasks h _ _ _) _ _ _

theorem wf_homeWriteAs {s : State} (h : Memory.wf s.mem) (kind : WriteKind) (asid k : Nat) (bs : List Byte) :
    Memory.wf (homeWriteAs kind s asid k bs).mem := by
  unfold homeWriteAs
  split
  · exact h
  · rw [landMem_mem]
    exact wf_memPut (foldl_keeps (fun s : State => Memory.wf s.mem) (fun s x hs => wf_homeGranule hs _ _ _ _) _ h) _ _

theorem wf_homeWrite {s : State} (h : Memory.wf s.mem) (asid k : Nat) (bs : List Byte) :
    Memory.wf (homeWrite s asid k bs).mem := wf_homeWriteAs h _ _ _ _

theorem wf_evictLine {s : State} (h : Memory.wf s.mem) (core asid line : Nat) :
    Memory.wf (evictLine s core asid line).mem := by
  unfold evictLine
  refine foldl_keeps (fun s : State => Memory.wf s.mem) (fun s x hs => ?_) _ (by exact h)
  split
  · exact hs
  · exact wf_homeMask hs _ _ _

theorem wf_l1Alloc {s : State} (h : Memory.wf s.mem) (core asid line : Nat) : Memory.wf (l1Alloc s core asid line).mem := by
  unfold l1Alloc
  dsimp only
  split
  · exact h
  · split
    · exact wf_evictLine h _ _ _
    · exact wf_evictLine (by exact h) _ _ _

theorem wf_l1WriteAs {s : State} (h : Memory.wf s.mem) (kind : WriteKind) (strm : Bool) (core asid k : Nat) (bs : List Byte) :
    Memory.wf (l1WriteAs kind strm s core asid k bs).mem := by
  unfold l1WriteAs
  split
  · exact h
  · rw [landMem_mem]
    refine wf_memPut (foldl_keeps (fun s : State => Memory.wf s.mem) (fun s x hs => ?_) _ h) _ _
    dsimp only
    split
    · simpa using wf_recallMasks hs asid x (some core)
    · simpa using wf_l1Alloc (wf_recallMasks hs asid x (some core)) core asid (x / 4)

theorem wf_l1Write {s : State} (h : Memory.wf s.mem) (core asid k : Nat) (bs : List Byte) :
    Memory.wf (l1Write s core asid k bs).mem := wf_l1WriteAs h _ _ _ _ _ _

theorem wf_demandGranule {s : State} (h : Memory.wf s.mem) (core : Option Nat) (asid k n g : Nat) :
    Memory.wf (demandGranule s core asid k n g).2.mem := by
  have hd : Memory.wf (drawHome (recallMasks s asid g core) g).mem := by simpa using wf_recallMasks h asid g core
  unfold demandGranule
  split
  · exact h
  · split
    · exact h
    · dsimp only
      split
      · exact hd
      · split
        · exact wf_findError hd _ _
        · exact hd

theorem wf_demandRead {s : State} (h : Memory.wf s.mem) (core : Option Nat) (asid k n : Nat) :
    Memory.wf (demandRead s core asid k n).2.mem := by
  unfold demandRead
  refine foldl_keeps (β := Option Nat × State) (fun p => Memory.wf p.2.mem) (fun p x hs => ?_) _ ?_
  · exact wf_demandGranule hs _ _ _ _ _
  · exact h

theorem wf_l1Fetch {s : State} (h : Memory.wf s.mem) (core asid k n : Nat) (strm : Bool) :
    Memory.wf (l1Fetch s core asid k n strm).mem := by
  unfold l1Fetch
  refine foldl_keeps (fun s : State => Memory.wf s.mem) (fun s x hs => ?_) _ h
  dsimp only
  split
  · exact hs
  · split
    · simpa using hs
    · simpa using wf_l1Alloc hs core asid (x / 4)

@[simp] theorem tlbFill_mem (s : State) (core asid : Nat) (va : DWord) (w bits : Nat) :
    (tlbFill s core asid va w bits).mem = s.mem := by
  unfold tlbFill
  split <;> rfl

@[simp] theorem setPage_mem (s : State) (core : Nat) (who : Option (Nat × Nat)) (e : TlbEntry) :
    (setPage s core who e).mem = s.mem := by
  unfold setPage
  split
  · split <;> rfl
  · rfl

theorem wf_readTables {s : State} (h : Memory.wf s.mem) (core : Option Nat) (asid : Nat) (va : DWord) :
    Memory.wf (readTables s core asid va).mem := by
  unfold readTables
  split
  · exact h
  · refine foldl_keeps (fun s : State => Memory.wf s.mem) (fun s x hs => ?_) _ h
    dsimp only
    split
    · exact hs
    · have hd := wf_demandRead hs core asid x 8
      cases core with
      | none => exact hd
      | some c => exact wf_l1Fetch hd c asid x 8 false

theorem wf_walkEffectFor {s : State} (h : Memory.wf s.mem) (core : Nat) (who : Option (Nat × Nat)) (asid : Nat) (va : DWord) :
    Memory.wf (walkEffectFor s core who asid va).mem := by
  unfold walkEffectFor
  have hr : Memory.wf (if (coreAt s core).tlb.any (·.covers asid va) then s else
      readTables s (some core) asid va).mem := by
    split
    · exact h
    · exact wf_readTables h (some core) asid va
  split
  · exact h
  · dsimp only
    split
    · simpa using hr
    · exact hr

theorem wf_walkEffect {s : State} (h : Memory.wf s.mem) (core asid : Nat) (va : DWord) :
    Memory.wf (walkEffect s core asid va).mem := wf_walkEffectFor h _ _ _ _

theorem wf_walkTouch {s : State} (h : Memory.wf s.mem) (asid : Nat) (va : DWord) : Memory.wf (walkTouch s asid va).mem :=
  wf_readTables h none asid va

theorem wf_writeRing {s : State} (h : Memory.wf s.mem) (asid base size : Nat) (r : List Byte) :
    Memory.wf (writeRing s asid base size r).mem := by
  unfold writeRing
  split
  · exact wf_homeWrite (wf_homeWrite h _ _ _) _ _ _
  · exact h

theorem wf_faultRecord {s : State} (h : Memory.wf s.mem) (asid : Nat) (va : DWord) (kind lvl : Nat) (id : Word) (path : Nat) :
    Memory.wf (faultRecord s asid va kind lvl id path).mem := by
  unfold faultRecord
  dsimp only
  split
  · exact h
  · split
    · exact wf_writeRing h _ _ _ _
    · exact h

@[simp] theorem inherit_mem (s : State) (old new : Nat) : (inherit s old new).mem = s.mem := rfl
@[simp] theorem handReports_mem (s : State) (old new : Nat) : (handReports s old new).mem = s.mem := rfl

@[simp] theorem reactivate_mem (s : State) (core slot entry : Nat) : (reactivate s core slot entry).mem = s.mem := by
  unfold reactivate
  split <;> (try split) <;> rfl

@[simp] theorem endTrain_mem (s : State) (core slot : Nat) (how : TrainEnd) (rep : EndReport) :
    (endTrain s core slot how rep).mem = s.mem := by
  unfold endTrain
  split
  · rfl
  · dsimp only
    split
    · split <;> rfl
    · rfl

@[simp] theorem checkEnd_mem (s : State) (core slot : Nat) (how : TrainEnd) (rep : EndReport) :
    (checkEnd s core slot how rep).mem = s.mem := by
  unfold checkEnd
  split
  · rfl
  · dsimp only
    split
    · exact endTrain_mem _ _ _ _ _
    · rfl

@[simp] theorem freePath_mem (s : State) (r : PathRef) (how : TrainEnd) (rep : EndReport) :
    (freePath s r how rep).mem = s.mem := by
  unfold freePath
  split
  · rfl
  · dsimp only
    split
    · rfl
    · rw [checkEnd_mem, reactivate_mem]; rfl

theorem wf_writeKill {s : State} (h : Memory.wf s.mem) (core : Nat) (t : Train) (kcause : Nat) (pc : DWord) (m : LaneSet) :
    Memory.wf (writeKill s core t kcause pc m).mem := by
  unfold writeKill
  dsimp only
  split
  · split
    · exact wf_l1Write h _ _ _ _
    · exact h
  · exact h

@[simp] theorem dropEngines_mem (s : State) (core uid : Nat) : (dropEngines s core uid).mem = s.mem := by
  unfold dropEngines
  dsimp only
  split
  · rfl
  · exact foldl_mem (fun s x => by simp) _ _

@[simp] theorem dropColls_mem (s : State) (core uid : Nat) : (dropColls s core uid).mem = s.mem := by
  unfold dropColls
  dsimp only
  split
  · rfl
  · exact foldl_mem (fun s x => by simp) _ _

theorem wf_killTrain {s : State} (h : Memory.wf s.mem) (core slot kcause : Nat) (pc : DWord) (m : LaneSet) :
    Memory.wf (killTrain s core slot kcause pc m).mem := by
  unfold killTrain
  split
  · exact h
  · split
    · exact h
    · simpa [setTrain] using wf_writeKill h core _ kcause pc m

theorem wf_enterHandler {s : State} (h : Memory.wf s.mem) (core slot entry : Nat) (rc : TrapRec) :
    Memory.wf (enterHandler s core slot entry rc).mem := by
  unfold enterHandler
  split
  · dsimp only
    generalize (if (rc.cause == 0x0F) = true then _ else _ : Nat) = vec
    by_cases hv : (vec == 0) = true
    · rw [if_pos hv]; exact wf_killTrain (by exact h) _ _ _ _ _
    · rw [if_neg hv]; exact h
  · exact h

theorem wf_deliver {s : State} (h : Memory.wf s.mem) (core slot : Nat) : Memory.wf (deliver s core slot).mem := by
  unfold deliver
  split
  · exact h
  · split
    · exact h
    · split
      · exact h
      · split
        · exact wf_enterHandler h _ _ _ _
        · exact h

theorem wf_takeTrap {s : State} (h : Memory.wf s.mem) (r : PathRef) (rc : TrapRec) : Memory.wf (takeTrap s r rc).mem := by
  unfold takeTrap
  split
  · split
    · exact h
    · exact wf_killTrain h _ _ _ _ _
  · exact wf_deliver (by exact h) _ _

theorem wf_enterAgent {s : State} (h : Memory.wf s.mem) (core slot entry reason : Nat) :
    Memory.wf (enterAgent s core slot entry reason).mem := by
  unfold enterAgent
  split
  · exact wf_takeTrap h _ _
  · exact h

theorem wf_takeNext {s : State} (h : Memory.wf s.mem) (core slot entry : Nat) :
    Memory.wf (takeNext s core slot entry).mem := by
  unfold takeNext
  split
  · exact h
  · split
    · exact wf_enterAgent (by exact h) _ _ _ _
    · split
      · exact wf_deliver h _ _
      · split
        · split
          · exact wf_enterAgent h _ _ _ _
          · exact h
        · exact h

theorem wf_leaveHandler {s : State} (h : Memory.wf s.mem) (core slot : Nat) (w : Word) (uid : Nat) (pc : DWord) :
    Memory.wf (leaveHandler s core slot w uid pc).mem := by
  unfold leaveHandler
  split
  · exact h
  · split
    · exact h
    · dsimp only
      split
      · exact wf_killTrain (by exact h) _ _ _ _ _
      · exact wf_takeNext (by exact h) _ _ _

end Sys2Proof.Machine
end

