-- ==== Sys2Proof/Laws/Issue.lean ====
section
/-! SUPPORT. What issue does when nothing holds the instruction. -/
namespace Sys2Proof.Machine

/-- The stages of an entry all pass. -/
theorem andThen_ok (a b : Entry) : a.andThen b = .ok ↔ a = .ok ∧ b = .ok := by
  cases a <;> simp [Entry.andThen]

/-- A wait that nothing asks for. -/
theorem waitIf_ok (b : Bool) (k : Nat) : waitIf b k = .ok ↔ b = false := by
  cases b <;> simp [waitIf]

/-- A chosen path may issue. -/
theorem Chosen.issuable {i : Instr} {s : State} {c : Ctx} (h : Chosen i s c) : issuable c.p = true := by
  rcases h.runs with r | r <;> simp [Machine.issuable, h.active, h.thawed, h.noTrap, r]

/-- The checks and waits of every instruction pass, and its own stand alone. -/
theorem Ready.ordered {i : Instr} {s : State} {c : Ctx} (h : Ready i s c) (own : Entry) : orderedEntry i own c = own := by
  have hw : windowEntry c = .ok := by
    rw [windowEntry, waitIf_ok, List.any_eq_false]
    intro q hq
    have := h.windows q hq
    cases hw : q.win with
    | count n => cases n with
      | zero => exact absurd hw this
      | succ n => simp [windowOpen, hw]
    | untilWaitl => simp [windowOpen, hw]
  have hr : roomEntry c = .ok := by
    rw [roomEntry, waitIf_ok]
    cases ho : opensResult c with
    | false => rfl
    | true =>
      obtain ⟨h1, h2⟩ := h.room ho
      have h3 : (c.p.pending.any fun q => c.p.full == some q.id) = false := by
        rw [List.any_eq_false]; intro q hq; simpa using h2 q hq
      simp [h3, h1]
  have hl : lachkEntry c = .ok := by
    unfold lachkEntry
    split
    · rename_i hd
      have : (c.p.pending.find? fun q => q.dests.any fun d => (regUses c).1.contains d || (regUses c).2.contains d) = none := by
        rw [List.find?_eq_none]; intro q hq
        simp only [List.any_eq_true, Bool.or_eq_true, List.contains_iff_mem, not_exists, not_and, not_or]
        exact fun d hd' => h.lookahead hd q hq d hd'
      simp only [this]
    · rfl
  have hp : privEntry c i = .ok := by
    unfold privEntry Ctx.priv
    cases h1 : isPrivileged i with
    | false => rfl
    | true => simp [h.mode h1]
  have hd : (if c.r.handler && doubleFaults i then Entry.kill else Entry.ok) = .ok := by
    cases h2 : c.r.handler with
    | false => rfl
    | true => simp [h.handler h2]
  have hc : decodeEntry i c = .ok := by simp [decodeEntry, hp, typeEntry, h.type, h.fields, Entry.andThen]
  simp only [orderedEntry, resultsEntry, guardEntry, hw, hr, hl, hd, hc, Entry.andThen, beq_self_eq_true, if_true]

/-- No TLBI of the path is under way. -/
theorem Ready.shootOk {i : Instr} {s : State} {c : Ctx} (h : Ready i s c) : shootEntry s c = .ok := by
  rw [shootEntry, waitIf_ok, List.any_eq_false]
  intro x hx
  simpa using h.shoots x hx

/-- No store lane of the path waits. -/
theorem Ready.wcOk {i : Instr} {s : State} {c : Ctx} (h : Ready i s c) : wcWaits s c = .ok := by
  rw [wcWaits, waitIf_ok, wcHeld, List.any_eq_false]
  intro e he
  simpa using h.combining e he

/-- The instruction writes no mask register while results of its path are outstanding. -/
theorem Ready.noMask {i : Instr} {s : State} {c : Ctx} (h : Ready i s c) : maskPending c = false := by
  unfold maskPending
  cases hh : c.r.handler with
  | true => rfl
  | false =>
    cases hm : ((regUses c).2.any fun r => match r with | .scalar n => n ≥ 61 | _ => false) with
    | false => simp
    | true =>
      rw [List.any_eq_true] at hm
      obtain ⟨g, hg, hn⟩ := hm
      cases g <;> simp at hn
      rename_i n
      simp [h.masks ⟨n, hn, hg⟩ hh]

/-- Without an armed step, an issue ends with its effect. -/
theorem stepDone_none {c : Ctx} (h : c.t.stepArmed ≠ some c.p.uid ∨ c.r.handler = true) (s : State) :
    stepDone c s = s := by
  unfold stepDone
  rcases h with h | h <;> simp [h]

/-- An instruction whose every check passes and whose price the path may spend has its effect after its charge. -/
theorem issue_next {i : Instr} {s : State} {c : Ctx} (h : Ready i s c) {entry : State → Ctx → Entry}
    (he : entry { s with sel := none } c = .ok) (body : Ctx → State → State) :
    issue i entry body s = .next (body c (charged i s c)) := by
  have h1 : shootEntry { s with sel := none } c = .ok := h.shootOk
  have h2 : tokenEntry i { s with sel := none } c = .ok := by
    have ht : tokensFor { s with sel := none } c.r = tokensFor s c.r := rfl
    simp only [tokenEntry, waitIf_ok, ht]
    simpa using h.tokens
  have h3 : wcWaits { s with sel := none } c = .ok := h.wcOk
  have h4 : wholeEntry i entry { s with sel := none } c = .ok := by
    simp only [wholeEntry, checksEntry, h1, h2, Entry.behind, h.ordered, he, h3, Entry.andThen]
  unfold issue
  simp only [h.sel, h.ctx, h.toChosen.issuable, Bool.not_true, Bool.false_eq_true, if_false, h4, charged, h.noMask,
    Bool.false_and, stepDone_none h.noStep]

end Sys2Proof.Machine
end

