-- ==== Sys2Proof/Laws/Charge.lean ====
section
/-! SUPPORT. The state after the charge of an instruction. -/
namespace Sys2Proof.Machine

@[simp] theorem charged_clusters (i : Instr) (s : State) (c : Ctx) : (charged i s c).clusters = s.clusters := rfl
@[simp] theorem charged_mem (i : Instr) (s : State) (c : Ctx) : (charged i s c).mem = s.mem := rfl
@[simp] theorem charged_knows (i : Instr) (s : State) (c : Ctx) : (charged i s c).knows = s.knows := rfl
@[simp] theorem charged_meddled (i : Instr) (s : State) (c : Ctx) : (charged i s c).meddled = s.meddled := rfl
@[simp] theorem charged_image (i : Instr) (s : State) (c : Ctx) : (charged i s c).image = s.image := rfl
@[simp] theorem charged_signed (i : Instr) (s : State) (c : Ctx) : (charged i s c).signed = s.signed := rfl
@[simp] theorem charged_shoots (i : Instr) (s : State) (c : Ctx) : (charged i s c).shoots = s.shoots := rfl
@[simp] theorem charged_portQ (i : Instr) (s : State) (c : Ctx) : (charged i s c).portQ = s.portQ := rfl
@[simp] theorem charged_poison (i : Instr) (s : State) (c : Ctx) : (charged i s c).poison = s.poison := rfl
@[simp] theorem charged_latent (i : Instr) (s : State) (c : Ctx) : (charged i s c).latent = s.latent := rfl
@[simp] theorem charged_l1 (i : Instr) (s : State) (c : Ctx) : (charged i s c).l1 = s.l1 := rfl
@[simp] theorem charged_correct (i : Instr) (s : State) (c : Ctx) : (charged i s c).correct = s.correct := rfl
@[simp] theorem charged_logged (i : Instr) (s : State) (c : Ctx) : (charged i s c).logged = s.logged := rfl
@[simp] theorem charged_time (i : Instr) (s : State) (c : Ctx) : (charged i s c).time = s.time := rfl
@[simp] theorem charged_boot (i : Instr) (s : State) (c : Ctx) : (charged i s c).boot = s.boot := rfl
@[simp] theorem charged_ctxs (i : Instr) (s : State) (c : Ctx) : (charged i s c).ctxs = s.ctxs := rfl
@[simp] theorem charged_shardVer (i : Instr) (s : State) (c : Ctx) : (charged i s c).shardVer = s.shardVer := rfl
@[simp] theorem charged_launches (i : Instr) (s : State) (c : Ctx) : (charged i s c).launches = s.launches := rfl
@[simp] theorem charged_crews (i : Instr) (s : State) (c : Ctx) : (charged i s c).crews = s.crews := rfl
@[simp] theorem charged_nextCl (i : Instr) (s : State) (c : Ctx) : (charged i s c).nextCl = s.nextCl := rfl
@[simp] theorem charged_lists (i : Instr) (s : State) (c : Ctx) : (charged i s c).lists = s.lists := rfl
@[simp] theorem charged_saved (i : Instr) (s : State) (c : Ctx) : (charged i s c).saved = s.saved := rfl
@[simp] theorem charged_faults (i : Instr) (s : State) (c : Ctx) : (charged i s c).faults = s.faults := rfl
@[simp] theorem charged_nmcs (i : Instr) (s : State) (c : Ctx) : (charged i s c).nmcs = s.nmcs := rfl
@[simp] theorem charged_thrash (i : Instr) (s : State) (c : Ctx) : (charged i s c).thrash = s.thrash := rfl
@[simp] theorem charged_migCtl (i : Instr) (s : State) (c : Ctx) : (charged i s c).migCtl = s.migCtl := rfl
@[simp] theorem charged_rampset (i : Instr) (s : State) (c : Ctx) : (charged i s c).rampset = s.rampset := rfl
@[simp] theorem charged_rate (i : Instr) (s : State) (c : Ctx) : (charged i s c).rate = s.rate := rfl
@[simp] theorem charged_gov (i : Instr) (s : State) (c : Ctx) : (charged i s c).gov = s.gov := rfl
@[simp] theorem charged_bank (i : Instr) (s : State) (c : Ctx) : (charged i s c).bank = s.bank := rfl
@[simp] theorem charged_govAt (i : Instr) (s : State) (c : Ctx) : (charged i s c).govAt = s.govAt := rfl
@[simp] theorem charged_badLanes (i : Instr) (s : State) (c : Ctx) : (charged i s c).badLanes = s.badLanes := rfl
@[simp] theorem charged_remapped (i : Instr) (s : State) (c : Ctx) : (charged i s c).remapped = s.remapped := rfl
@[simp] theorem charged_migration (i : Instr) (s : State) (c : Ctx) : (charged i s c).migration = s.migration := rfl
@[simp] theorem charged_intents (i : Instr) (s : State) (c : Ctx) : (charged i s c).intents = s.intents := rfl
@[simp] theorem charged_feature0 (i : Instr) (s : State) (c : Ctx) : (charged i s c).feature0 = s.feature0 := rfl
@[simp] theorem charged_pkgId (i : Instr) (s : State) (c : Ctx) : (charged i s c).pkgId = s.pkgId := rfl
@[simp] theorem charged_tier (i : Instr) (s : State) (c : Ctx) : (charged i s c).tier = s.tier := rfl
@[simp] theorem charged_routes (i : Instr) (s : State) (c : Ctx) : (charged i s c).routes = s.routes := rfl
@[simp] theorem charged_groupRoutes (i : Instr) (s : State) (c : Ctx) : (charged i s c).groupRoutes = s.groupRoutes := rfl
@[simp] theorem charged_fabCtl (i : Instr) (s : State) (c : Ctx) : (charged i s c).fabCtl = s.fabCtl := rfl
@[simp] theorem charged_ports (i : Instr) (s : State) (c : Ctx) : (charged i s c).ports = s.ports := rfl
@[simp] theorem charged_remotes (i : Instr) (s : State) (c : Ctx) : (charged i s c).remotes = s.remotes := rfl
@[simp] theorem charged_outWrites (i : Instr) (s : State) (c : Ctx) : (charged i s c).outWrites = s.outWrites := rfl
@[simp] theorem charged_mcsts (i : Instr) (s : State) (c : Ctx) : (charged i s c).mcsts = s.mcsts := rfl
@[simp] theorem charged_notifies (i : Instr) (s : State) (c : Ctx) : (charged i s c).notifies = s.notifies := rfl
@[simp] theorem charged_groups (i : Instr) (s : State) (c : Ctx) : (charged i s c).groups = s.groups := rfl
@[simp] theorem charged_applying (i : Instr) (s : State) (c : Ctx) : (charged i s c).applying = s.applying := rfl
@[simp] theorem charged_control (i : Instr) (s : State) (c : Ctx) : (charged i s c).control = s.control := rfl
@[simp] theorem charged_outbox (i : Instr) (s : State) (c : Ctx) : (charged i s c).outbox = s.outbox := rfl
@[simp] theorem charged_nextId (i : Instr) (s : State) (c : Ctx) : (charged i s c).nextId = s.nextId := rfl
@[simp] theorem charged_free (i : Instr) (s : State) (c : Ctx) : (charged i s c).free = s.free := rfl
@[simp] theorem charged_agenda (i : Instr) (s : State) (c : Ctx) : (charged i s c).agenda = s.agenda := rfl
@[simp] theorem charged_sel (i : Instr) (s : State) (c : Ctx) : (charged i s c).sel = none := rfl

/-- What the context of a chosen path is made of. -/
theorem Chosen.parts {i : Instr} {s : State} {c : Ctx} (h : Chosen i s c) :
    trainAt s c.r.core c.r.slot = some c.t ∧ pathAt s c.r = some c.p ∧ fieldsOf i = some c.f ∧ specOf i = some c.sp ∧
    c.ty = tyInForce c.sp c.p.mode c.f ∧ c.len = lenOf c.f ∧
    c.act = (match c.p.unf with | some u => u | none => activeSet c.t c.p c.f) := by
  have hc := h.ctx
  unfold mkCtx at hc
  split at hc
  · rename_i t p f sp h1 h2 h3 h4
    simp only [Option.some.injEq] at hc
    rw [← hc]
    exact ⟨h1, h2, h3, h4, rfl, rfl, rfl⟩
  · simp at hc

/-- The train of a chosen path, and its path in the table in use. -/
theorem Chosen.train {i : Instr} {s : State} {c : Ctx} (h : Chosen i s c) :
    trainAt s c.r.core c.r.slot = some c.t := h.parts.1
theorem Chosen.path {i : Instr} {s : State} {c : Ctx} (h : Chosen i s c) : pathAt s c.r = some c.p := h.parts.2.1

/-- The state before a charge: nothing is selected, and what the issue waits for has performed. -/
def settled (s : State) (c : Ctx) : State :=
  settleWrites { s with sel := none } fun x => performsAfter c && x.paths.contains c.p.uid

/-- The order of the writes before a charge, which the charge leaves. -/
@[simp] theorem charged_past (i : Instr) (s : State) (c : Ctx) : (charged i s c).past = (settled s c).past := rfl
@[simp] theorem charged_point (i : Instr) (s : State) (c : Ctx) : (charged i s c).point = (settled s c).point := rfl

/-- The state once the core and its die have been charged. -/
def corePaid (i : Instr) (s : State) (c : Ctx) : State :=
  modDie (modCore (settled s c) c.r.core (chargeCore i c)) (dieOf c.r.core) fun d => { d with spent := d.spent + priceOf i c.ty }

/-- A charge is that of the core, then of the train, then of the path. -/
theorem charged_eq (i : Instr) (s : State) (c : Ctx) :
    charged i s c =
      let k := modTrain (corePaid i s c) c.r.core c.r.slot (chargeTrain i c (coreAt (corePaid i s c) c.r.core).cycle)
      modPath k c.r (chargePath i c (coreAt k c.r.core).cycle k.point) := rfl

/-- The cycle of a core is not changed by its charge. -/
theorem corePaid_cycle (i : Instr) (s : State) (c : Ctx) (n : Nat) : (coreAt (corePaid i s c) n).cycle = (coreAt s n).cycle := by
  unfold corePaid
  rw [coreAt_modDie, coreAt_modCore]
  split <;> rfl

/-- A core after the charge differs in what the charge changes: its tokens and pipes, and the issuing train. -/
theorem coreAt_charged (i : Instr) (s : State) (c : Ctx) (n : Nat) :
    ∃ l b v w pi sf ft hv is, coreAt (charged i s c) n = { coreAt s n with
      slots := l, balance := b, resv := v, txResv := w, pipes := pi, sfu := sf, ftab := ft, heavy := hv, issued := is } := by
  have h1 : ∃ l b v w pi sf ft hv is, coreAt (corePaid i s c) n = { coreAt s n with
      slots := l, balance := b, resv := v, txResv := w, pipes := pi, sfu := sf, ftab := ft, heavy := hv, issued := is } := by
    unfold corePaid
    rw [coreAt_modDie, coreAt_modCore]
    split
    · exact ⟨_, _, _, _, _, _, _, _, _, rfl⟩
    · exact ⟨_, _, _, _, _, _, _, _, _, rfl⟩
  obtain ⟨l, b, v, w, pi, sf, ft, hv, is, hk⟩ := h1
  rw [charged_eq]
  unfold modPath
  obtain ⟨l1, e1⟩ := coreAt_modTrain _ c.r.core c.r.slot n _
  obtain ⟨l2, e2⟩ := coreAt_modTrain (corePaid i s c) c.r.core c.r.slot n
    (chargeTrain i c (coreAt (corePaid i s c) c.r.core).cycle)
  refine ⟨l1, b, v, w, pi, sf, ft, hv, is, e1.trans ?_⟩
  rw [e2, hk]

@[simp] theorem coreAt_charged_tlb (i : Instr) (s : State) (c : Ctx) (n : Nat) :
    (coreAt (charged i s c) n).tlb = (coreAt s n).tlb := by
  obtain ⟨_, _, _, _, _, _, _, _, _, e⟩ := coreAt_charged i s c n
  rw [e]
@[simp] theorem coreAt_charged_wc (i : Instr) (s : State) (c : Ctx) (n : Nat) :
    (coreAt (charged i s c) n).wc = (coreAt s n).wc := by
  obtain ⟨_, _, _, _, _, _, _, _, _, e⟩ := coreAt_charged i s c n
  rw [e]
@[simp] theorem coreAt_charged_txns (i : Instr) (s : State) (c : Ctx) (n : Nat) :
    (coreAt (charged i s c) n).txns = (coreAt s n).txns := by
  obtain ⟨_, _, _, _, _, _, _, _, _, e⟩ := coreAt_charged i s c n
  rw [e]
@[simp] theorem coreAt_charged_cycle (i : Instr) (s : State) (c : Ctx) (n : Nat) :
    (coreAt (charged i s c) n).cycle = (coreAt s n).cycle := by
  obtain ⟨_, _, _, _, _, _, _, _, _, e⟩ := coreAt_charged i s c n
  rw [e]

/-- The train after the charge. -/
theorem trainAt_charged {i : Instr} {s : State} {c : Ctx} (h : Chosen i s c) :
    trainAt (charged i s c) c.r.core c.r.slot = some (withPaths (chargeTrain i c (coreAt s c.r.core).cycle c.t) c.r.handler
      (updAt (pathsOf c.t c.r.handler) c.r.entry
        (Option.map (chargePath i c (coreAt s c.r.core).cycle (settled s c).point)))) := by
  have h0 : trainAt (settled s c) c.r.core c.r.slot = some c.t := h.train
  have h2 : trainAt (corePaid i s c) c.r.core c.r.slot = some c.t := by
    unfold corePaid
    rw [trainAt_modDie]
    exact (trainAt_modCore _ _ _ _ (chargeCore i c) (fun _ => rfl)).trans h0
  have h3 := trainAt_modTrain h2 (chargeTrain i c (coreAt (corePaid i s c) c.r.core).cycle)
  rw [charged_eq]
  unfold modPath
  rw [trainAt_modTrain h3, corePaid_cycle]
  have hcyc : (coreAt (modTrain (corePaid i s c) c.r.core c.r.slot (chargeTrain i c (coreAt s c.r.core).cycle)) c.r.core).cycle =
      (coreAt s c.r.core).cycle := by
    obtain ⟨l, e⟩ := coreAt_modTrain (corePaid i s c) c.r.core c.r.slot c.r.core (chargeTrain i c (coreAt s c.r.core).cycle)
    rw [e]
    exact corePaid_cycle i s c c.r.core
  rw [hcyc]
  rfl

/-- The path after the charge. -/
theorem pathAt_charged {i : Instr} {s : State} {c : Ctx} (h : Chosen i s c) :
    pathAt (charged i s c) c.r = some (chargePath i c (coreAt s c.r.core).cycle (settled s c).point c.p) := by
  have hp := h.path
  unfold pathAt at hp ⊢
  rw [h.train] at hp
  rw [trainAt_charged h]
  have hh : c.r.handler = true → (chargeTrain i c (coreAt s c.r.core).cycle c.t).handler.isSome := by
    intro hb
    rw [hb] at hp
    show c.t.handler.isSome
    cases hx : c.t.handler with
    | none => simp [pathsOf, hx, nth] at hp
    | some x => rfl
  show nth none (pathsOf (withPaths (chargeTrain i c _ c.t) c.r.handler _) c.r.handler) c.r.entry = _
  rw [pathsOf_withPaths hh]
  have hl : c.r.entry < (pathsOf c.t c.r.handler).length := by
    by_contra hc
    have hp' : nth none (pathsOf c.t c.r.handler) c.r.entry = some c.p := hp
    rw [nth_eq, List.getElem?_eq_none (by omega)] at hp'
    simp at hp'
  rw [nth_updAt_self _ _ _ _ hl]
  have hp' : nth none (pathsOf c.t c.r.handler) c.r.entry = some c.p := hp
  rw [hp']
  rfl

end Sys2Proof.Machine
end

