-- ==== Sys2Proof/Laws/Walk.lean ====
section
/-! SUPPORT. What a translation walk depends on: of the memory, only the bytes of the table entries that it reads. -/
namespace Sys2Proof.Machine

/-- An unlisted byte reads as zero. -/
theorem memRead_unlisted {m : List Host.Cell} {k : Nat} (h : ∀ x ∈ m, x.1 ≠ k) : memRead m k = 0 := by
  induction m with
  | nil => rfl
  | cons x r ih =>
    simp only [memRead, beq_iff_eq, if_neg (h x (by simp))]
    split
    · rfl
    · exact ih fun y hy => h y (by simp [hy])

/-- Numbers of bytes that read alike are equal. -/
theorem memLe_congr {m m' : List Host.Cell} {k n : Nat} (h : ∀ i < n, memRead m (k + i) = memRead m' (k + i)) :
    memLe m k n = memLe m' k n := by
  unfold memLe memBytes
  rw [List.map_congr_left fun i hi => h i (List.mem_range.1 hi)]

/-- An unlisted number is zero. -/
theorem memLe_unlisted {m : List Host.Cell} {k n : Nat} (h : ∀ x ∈ m, x.1 < k ∨ k + n ≤ x.1) : memLe m k n = 0 := by
  rw [show memLe m k n = memLe [] k n from memLe_congr fun i hi => by
    rw [memRead_unlisted fun x hx => by rcases h x hx with h | h <;> omega]; rfl]
  clear h
  unfold memLe memBytes
  induction n with
  | zero => rfl
  | succ n ih => simp_all [List.range_succ_eq_map, Function.comp_def, memRead, leNat]

/-- One entry of a walk depends on the memory by the entry alone (R230). -/
theorem walkEntry_mem {s : State} {m : List Host.Cell} {core : Option Nat} {va table lvl : Nat}
    (h : memLe m (table + 8 * levelIndex va lvl) 8 = memLe s.mem (table + 8 * levelIndex va lvl) 8) :
    walkEntry { s with mem := m } core va table lvl = walkEntry s core va table lvl := by
  simp only [walkEntry]
  rw [h]
  rfl

/-- One entry of a walk depends on the address by its index alone (R229). -/
theorem walkEntry_index {s : State} {core : Option Nat} {va va' table lvl : Nat} (h : levelIndex va lvl = levelIndex va' lvl) :
    walkEntry s core va table lvl = walkEntry s core va' table lvl := by
  simp only [walkEntry, h]

/-- A walk that goes on does so through a valid entry that is no leaf, to the table it names (R230). -/
theorem walkEntry_next {s : State} {core : Option Nat} {va table lvl n : Nat} (h : walkEntry s core va table lvl = .inr n) :
    let w := memLe s.mem (table + 8 * levelIndex va lvl) 8
    n = bitsOf w 51 8 * 256 ∧ w.testBit 0 = true ∧ w.testBit 1 = false := by
  simp only [walkEntry] at h
  split at h
  · cases h
  · split at h
    · cases h
    · split at h
      · cases h
      · split at h
        · split at h <;> cases h
        · split at h
          · cases h
          · cases h
            simp_all

/-- A walk depends on the memory by the entries of the tables that it comes to (R229). -/
theorem walk_mem {s : State} {m : List Host.Cell} {core : Option Nat} {va : Nat} (P : Nat → Nat → Prop)
    (hm : ∀ l t, P l t → memLe m (t + 8 * levelIndex va l) 8 = memLe s.mem (t + 8 * levelIndex va l) 8)
    (hn : ∀ l t n, P (l + 1) t → walkEntry s core va t (l + 1) = .inr n → P l n) :
    ∀ l t, P l t → walk { s with mem := m } core va l t = walk s core va l t := by
  intro l
  induction l with
  | zero => intro t h; simp only [walk, walkEntry_mem (hm _ _ h)]
  | succ l ih =>
    intro t h
    simp only [walk, walkEntry_mem (hm _ _ h)]
    split
    · rfl
    · exact ih _ (hn _ _ _ h ‹_›)

/-- A translation depends on the memory by the entries of the tables that its walk comes to (R229). -/
theorem walkOf_mem {s : State} {m : List Host.Cell} {core : Option Nat} {asid : Nat} {va : DWord} (P : Nat → Nat → Prop)
    (h0 : P 3 (ctxRoot s asid))
    (hm : ∀ l t, P l t → memLe m (t + 8 * levelIndex va.toNat l) 8 = memLe s.mem (t + 8 * levelIndex va.toNat l) 8)
    (hn : ∀ l t n, P (l + 1) t → walkEntry s core va.toNat t (l + 1) = .inr n → P l n) :
    walkOf { s with mem := m } core asid va = walkOf s core asid va := by
  have h := walk_mem (s := s) (core := core) P hm hn 3 _ h0
  unfold walkOf
  rw [show ctxRoot { s with mem := m } asid = ctxRoot s asid from rfl, h]
  rfl

/-- A memory that reads alike everywhere gives the same translations (R229). -/
theorem walkOf_same {s : State} {m : List Host.Cell} {core : Option Nat} {asid : Nat} {va : DWord}
    (h : ∀ a, memRead m a = memRead s.mem a) : walkOf { s with mem := m } core asid va = walkOf s core asid va :=
  walkOf_mem (fun _ _ => True) trivial (fun _ _ _ => memLe_congr fun _ _ => h _) fun _ _ _ _ _ => trivial

end Sys2Proof.Machine
end

