-- ==== Sys2Proof/Tests/Slice0.lean ====
section
/-! SUPPORT. Tests: ill-formed terms that the checks refuse, words of every instruction laid out from the encoding tables
(R70, R73, R75, R81), single steps whose results the spec states, and for every statement a state and operands that
meet its hypotheses. -/
namespace Sys2Proof.Tests
open Sys2Proof Sys2Proof.Machine

set_option Elab.async false

/-! ## Encodings -/

/-- Whether each row's words decode to its instruction, of its length, and the instruction encodes to them. -/
def readsAll (l : List (Word × Word × Word × Nat × Instr)) : Bool :=
  l.all fun (w0, w1, w2, n, i) => decodeWords w0 w1 w2 == .ok i n && encodeWords i == some (w0, w1, w2, n)

/-- A KIND-0 extension that overrides the type alone. -/
def ofTy (t : Nat) : Ext := .l0 { Ext0.zero with tov := true, ty := BitVec.ofNat 4 t }

/-- A KIND-0 extension with a SUB alone. -/
def ofSub (q : Nat) : Ext := .l0 { Ext0.zero with sub := BitVec.ofNat 6 q }

/-- One ill-formed term for each check of an instruction's fields: the form; the alignment and range of D, A and B; an
operand field beside an immediate; X; the class of C; guard fields without an override; SC, OD and SC without an OD;
saturation; a type not accepted, and one without its override; SUB; the reserved immediate and literal bits; an
extension that must be zero; a literal with no use; and opcodes that a field selects. -/
theorem test_ill_formed : ([
    .bra ⟨0, 1, 0, 0, .s⟩, .iadd ⟨7, 0, 0, 0, ofTy 2⟩, .iadd ⟨49, 0, 0, 0, .s⟩, .mov ⟨0, 52, 0, 0, .s⟩,
    .lea ⟨2, 3, 0, 0, .s⟩, .sadd ⟨60, 0, 0, 0, ofTy 2⟩, .nop ⟨0, 0, 1, 0, .s⟩, .p2v ⟨0, 1, 0, 0, .s⟩,
    .accwrZero ⟨8, 0, 0, 2, .s⟩, .iadd ⟨1, 1, 1, 0, .l1 3 0⟩, .iadd ⟨1, 1, 1, 1, .s⟩,
    .ffma ⟨1, 1, 1, 0, .l0 { Ext0.zero with c := 52 }⟩, .iadd ⟨1, 1, 1, 0, .l0 { Ext0.zero with gp := 1 }⟩,
    .iadd ⟨1, 1, 1, 0, .l0 { Ext0.zero with gn := true }⟩, .iadd ⟨1, 1, 1, 0, .l0 { Ext0.zero with sc := 1 }⟩,
    .iadd ⟨1, 1, 1, 0, .l0 { Ext0.zero with od := 1 }⟩, .ld .w32 ⟨2, 4, 48, 0, .l0 { Ext0.zero with sc := 1 }⟩,
    .iadd ⟨1, 1, 1, 0, .l0 { Ext0.zero with sat := true }⟩, .fadd ⟨1, 1, 1, 0, ofTy 0⟩, .sadd ⟨1, 1, 1, 0, ofTy 9⟩,
    .iadd ⟨1, 1, 1, 0, .l0 { Ext0.zero with ty := 1 }⟩, .nop ⟨0, 0, 0, 0, ofTy 0⟩, .iadd ⟨1, 1, 1, 0, ofSub 1⟩,
    .iadd ⟨1, 1, 0, 0, .l1 3 1⟩, .fcvt ⟨1, 1, 0, 9, .l1 64 0⟩, .fcvt ⟨1, 1, 0, 9, .w Ext0.zero 64⟩,
    .region ⟨0, 0, 0, 0, .w { Ext0.zero with c := 1 } 0⟩, .mov ⟨1, 1, 0, 0, .w Ext0.zero 5⟩,
    .setsp ⟨0x0A, 0, 0, 0, .s⟩, .winstackWrite ⟨0x09, 0, 0, 0, .s⟩, .atom ⟨1, 4, 1, 0, .l0 { Ext0.zero with sub := 48 }⟩,
    .ldt .w8 ⟨1, 4, 48, 0, ofSub 1⟩, .ill 3 0 0 0, .ill 0 0 1 0, .ill 1 0 0 1, .clusterCycle 0 1]
    : List Instr).all (fun i => !wellFormed i) = true := by decide

/-- The assembled fragment after Table Opcode map, word for word. -/
theorem test_assembled_fragment : readsAll [
    (0x00010549, 0x000180C1, 0, 2, .fmul ⟨1, 1, 0, 0, .l1 0xC060 0⟩),
    (0x00010542, 0x00000000, 0x3DCCCCCD, 3, .fadd ⟨1, 1, 0, 0, .w Ext0.zero 0x3DCCCCCD⟩),
    (0x10011980, 0, 0, 1, .frcp ⟨6, 1, 0, 1, .s⟩),
    (0x00030C82, 0x00200000, 0x00000001, 3, .iadd ⟨3, 3, 0, 0, .w { Ext0.zero with tov := true } 1⟩),
    (0x00461D40, 0, 0, 1, .fadd ⟨7, 6, 1, 0, .s⟩)] = true := by decide

/-- Words of row 0x0 of the opcode map, laid out from R70, R73 and R75. -/
theorem test_decode_mode_and_traps : readsAll [
    (0x00000004, 0x00000000, 0x00000000, 1, .nop ⟨0, 0, 0, 0, .s⟩),
    (0x10000009, 0x000049CD, 0x00000000, 2, .setmode ⟨0, 0, 0, 1, .l1 9446 0⟩),
    (0x00036C0D, 0x00002B80, 0x00000000, 2, .getsp ⟨27, 3, 0, 0, .l0 ⟨0, 23, true, false, 0, 0, false, false, 0, 0⟩⟩),
    (0x00060C11, 0x00000000, 0x00000000, 2, .setsp ⟨3, 6, 0, 0, .l0 Ext0.zero⟩),
    (0x00182810, 0x00000000, 0x00000000, 1, .winstackWrite ⟨10, 24, 0, 0, .s⟩),
    (0x00002411, 0x00000000, 0x00000000, 2, .windepthWrite ⟨9, 0, 0, 0, .l0 Ext0.zero⟩),
    (0x00212012, 0x00000000, 0x00000000, 3, .rampsetWrite ⟨8, 33, 0, 0, .w Ext0.zero 0⟩),
    (0x00124810, 0x00000000, 0x00000000, 1, .sampctlWrite ⟨18, 18, 0, 0, .s⟩),
    (0x000C4410, 0x00000000, 0x00000000, 1, .dbgctlWrite ⟨17, 12, 0, 0, .s⟩),
    (0x06074016, 0x00000000, 0x00000002, 3, .region ⟨16, 7, 24, 0, .w Ext0.zero 2⟩),
    (0x00000019, 0x0000000B, 0x00000000, 2, .trap ⟨0, 0, 0, 0, .l1 5 0⟩),
    (0x0000001C, 0x00000000, 0x00000000, 1, .eret ⟨0, 0, 0, 0, .s⟩),
    (0xE0000020, 0x00000000, 0x00000000, 1, .brk ⟨0, 0, 0, 14, .s⟩),
    (0x001E0025, 0x00000013, 0x00000000, 2, .yield ⟨0, 30, 0, 0, .l1 9 0⟩),
    (0x00000029, 0x00000000, 0x00000000, 2, .waitl ⟨0, 0, 0, 0, .l0 Ext0.zero⟩)] = true := by decide

/-- Words of row 0x1 of the opcode map, laid out from R70, R73 and R75. -/
theorem test_decode_control_flow : readsAll [
    (0x20180041, 0x00000021, 0x00000000, 2, .bra ⟨0, 24, 0, 2, .l1 16 0⟩),
    (0x10040044, 0x00000000, 0x00000000, 1, .brx ⟨0, 4, 0, 1, .s⟩),
    (0x5000004A, 0x00003900, 0xBDC80FFD, 3, .jset ⟨0, 0, 0, 5, .w ⟨0, 50, true, false, 0, 0, false, false, 0, 0⟩ 3184005117⟩),
    (0xE000004D, 0x00007780, 0x00000000, 2, .jwait ⟨0, 0, 0, 14, .l0 ⟨0, 47, true, true, 0, 0, false, false, 0, 0⟩⟩),
    (0x00000051, 0x00018ACF, 0x00000000, 2, .call ⟨0, 0, 0, 0, .l1 50535 0⟩),
    (0x00060055, 0x00002180, 0x00000000, 2, .callx ⟨0, 6, 0, 0, .l0 ⟨0, 3, true, false, 0, 0, false, false, 0, 0⟩⟩),
    (0x00000059, 0x00000000, 0x00000000, 2, .ret ⟨0, 0, 0, 0, .l0 Ext0.zero⟩),
    (0x0000005D, 0x00000007, 0x00000000, 2, .exit ⟨0, 0, 0, 0, .l1 3 0⟩),
    (0x00000061, 0x00001671, 0x00000000, 2, .tail ⟨0, 0, 0, 0, .l1 2872 0⟩),
    (0x00000065, 0x00000000, 0x00000000, 2, .wflush ⟨0, 0, 0, 0, .l0 Ext0.zero⟩)] = true := by decide

/-- Words of row 0x2 of the opcode map, laid out from R70, R73 and R75. -/
theorem test_decode_integer : readsAll [
    (0x01831881, 0x00007800, 0x00000000, 2, .iadd ⟨6, 3, 6, 0, .l0 ⟨0, 48, true, true, 0, 0, false, false, 0, 0⟩⟩),
    (0x02084085, 0x01203C80, 0x00000000, 2, .isub ⟨16, 8, 8, 0, .l0 ⟨0, 57, true, false, 0, 0, false, true, 4, 0⟩⟩),
    (0x05020889, 0x03207300, 0x00000000, 2, .imul ⟨2, 2, 20, 0, .l0 ⟨0, 38, true, true, 0, 0, false, true, 12, 0⟩⟩),
    (0x03C73C8D, 0x00202600, 0x00000000, 2, .imulhi ⟨15, 7, 15, 0, .l0 ⟨0, 12, true, false, 0, 0, false, true, 0, 0⟩⟩),
    (0x04E50C91, 0x026038B8, 0x00000000, 2, .imad ⟨3, 37, 19, 0, .l0 ⟨28, 49, true, false, 0, 0, false, true, 9, 0⟩⟩),
    (0x034C2895, 0x02A03D80, 0x00000000, 2, .imin ⟨10, 12, 13, 0, .l0 ⟨0, 59, true, false, 0, 0, false, true, 10, 0⟩⟩),
    (0x02D08099, 0x00007080, 0x00000000, 2, .imax ⟨32, 16, 11, 0, .l0 ⟨0, 33, true, true, 0, 0, false, false, 0, 0⟩⟩),
    (0x100A9C9D, 0x01F02100, 0x00000000, 2, .iabs ⟨39, 10, 0, 1, .l0 ⟨0, 2, true, false, 0, 0, true, true, 7, 0⟩⟩),
    (0x026740A1, 0x03A02C00, 0x00000000, 2, .and ⟨16, 39, 9, 0, .l0 ⟨0, 24, true, false, 0, 0, false, true, 14, 0⟩⟩),
    (0x04C790A5, 0x00602880, 0x00000000, 2, .or ⟨36, 7, 19, 0, .l0 ⟨0, 17, true, false, 0, 0, false, true, 1, 0⟩⟩),
    (0x01070CA9, 0x01607500, 0x00000000, 2, .xor ⟨3, 7, 4, 0, .l0 ⟨0, 42, true, true, 0, 0, false, true, 5, 0⟩⟩),
    (0x0AA80CAD, 0x00006680, 0x00000000, 2, .andn ⟨3, 40, 42, 0, .l0 ⟨0, 13, true, true, 0, 0, false, false, 0, 0⟩⟩),
    (0x0608A0B1, 0x00A02980, 0x00000000, 2, .shl ⟨40, 8, 24, 0, .l0 ⟨0, 19, true, false, 0, 0, false, true, 2, 0⟩⟩),
    (0x01C304B5, 0x00207480, 0x00000000, 2, .shr ⟨1, 3, 7, 0, .l0 ⟨0, 41, true, true, 0, 0, false, true, 0, 0⟩⟩),
    (0x006C14B9, 0x01207500, 0x00000000, 2, .sha ⟨5, 44, 1, 0, .l0 ⟨0, 42, true, true, 0, 0, false, true, 4, 0⟩⟩),
    (0x01550CBD, 0x03203F80, 0x00000000, 2, .rot ⟨3, 21, 5, 0, .l0 ⟨0, 63, true, false, 0, 0, false, true, 12, 0⟩⟩)] = true := by decide

/-- Words of row 0x3 of the opcode map, laid out from R70, R73 and R75. -/
theorem test_decode_bits_and_moves : readsAll [
    (0x02121CC1, 0x03602C00, 0x00000000, 2, .bfe ⟨7, 18, 8, 0, .l0 ⟨0, 24, true, false, 0, 0, false, true, 13, 0⟩⟩),
    (0x01644CC5, 0x012064D0, 0x00000000, 2, .bfi ⟨19, 36, 5, 0, .l0 ⟨40, 9, true, true, 0, 0, false, true, 4, 0⟩⟩),
    (0x002818C9, 0x00A03480, 0x00000000, 2, .popc ⟨6, 40, 0, 0, .l0 ⟨0, 41, true, false, 0, 0, false, true, 2, 0⟩⟩),
    (0x000514CD, 0x02A06700, 0x00000000, 2, .clz ⟨5, 5, 0, 0, .l0 ⟨0, 14, true, true, 0, 0, false, true, 10, 0⟩⟩),
    (0x000200D1, 0x00206300, 0x00000000, 2, .brev ⟨0, 2, 0, 0, .l0 ⟨0, 6, true, true, 0, 0, false, true, 0, 0⟩⟩),
    (0xD64504D5, 0x00207580, 0x00000000, 2, .icmp ⟨1, 5, 25, 13, .l0 ⟨0, 43, true, true, 0, 0, false, true, 0, 0⟩⟩),
    (0x04011CD9, 0x012062B0, 0x00000000, 2, .sel ⟨7, 1, 16, 0, .l0 ⟨24, 5, true, true, 0, 0, false, true, 4, 0⟩⟩),
    (0x000324DD, 0x00002700, 0x00000000, 2, .mov ⟨9, 3, 0, 0, .l0 ⟨0, 14, true, false, 0, 0, false, false, 0, 0⟩⟩),
    (0x000018E1, 0x00009CBD, 0x00000000, 2, .movi ⟨6, 0, 0, 0, .l1 20062 0⟩),
    (0xF60420E5, 0x00002080, 0x00000000, 2, .lea ⟨8, 4, 24, 15, .l0 ⟨0, 1, true, false, 0, 0, false, false, 0, 0⟩⟩),
    (0x138A20E9, 0x03202700, 0x00000000, 2, .iadds ⟨8, 10, 14, 1, .l0 ⟨0, 14, true, false, 0, 0, false, true, 12, 0⟩⟩),
    (0x17479CED, 0x00007290, 0x00000000, 2, .bysel ⟨39, 7, 29, 1, .l0 ⟨8, 37, true, true, 0, 0, false, false, 0, 0⟩⟩),
    (0x20A810F1, 0x0000242A, 0x00000000, 2, .idot4 ⟨4, 40, 2, 2, .l0 ⟨21, 8, true, false, 0, 0, false, false, 0, 0⟩⟩)] = true := by decide

/-- Words of row 0x4 of the opcode map, laid out from R70, R73 and R75. -/
theorem test_decode_scalar : readsAll [
    (0x06A82501, 0x00206B80, 0x00000000, 2, .sadd ⟨9, 40, 26, 0, .l0 ⟨0, 23, true, true, 0, 0, false, true, 0, 0⟩⟩),
    (0x01C40505, 0x00007880, 0x00000000, 2, .ssub ⟨1, 4, 7, 0, .l0 ⟨0, 49, true, true, 0, 0, false, false, 0, 0⟩⟩),
    (0x08083509, 0x00206D80, 0x00000000, 2, .smul ⟨13, 8, 32, 0, .l0 ⟨0, 27, true, true, 0, 0, false, true, 0, 0⟩⟩),
    (0x0144090D, 0x00003300, 0x00000000, 2, .sand ⟨2, 4, 5, 0, .l0 ⟨0, 38, true, false, 0, 0, false, false, 0, 0⟩⟩),
    (0x0AC88111, 0x00003C00, 0x00000000, 2, .sor ⟨32, 8, 43, 0, .l0 ⟨0, 56, true, false, 0, 0, false, false, 0, 0⟩⟩),
    (0x0A130515, 0x00007D00, 0x00000000, 2, .sxor ⟨1, 19, 40, 0, .l0 ⟨0, 58, true, true, 0, 0, false, false, 0, 0⟩⟩),
    (0x03D67919, 0x00002A80, 0x00000000, 2, .sshl ⟨30, 22, 15, 0, .l0 ⟨0, 21, true, false, 0, 0, false, false, 0, 0⟩⟩),
    (0x01875D1D, 0x00003F80, 0x00000000, 2, .sshr ⟨23, 7, 6, 0, .l0 ⟨0, 63, true, false, 0, 0, false, false, 0, 0⟩⟩),
    (0x2A475D21, 0x00002D00, 0x00000000, 2, .scmp ⟨23, 7, 41, 2, .l0 ⟨0, 26, true, false, 0, 0, false, false, 0, 0⟩⟩),
    (0x00271125, 0x00003480, 0x00000000, 2, .smov ⟨4, 39, 0, 0, .l0 ⟨0, 41, true, false, 0, 0, false, false, 0, 0⟩⟩),
    (0x0000A12A, 0x00002880, 0xA822F0B6, 3, .smovi ⟨40, 0, 0, 0, .w ⟨0, 17, true, false, 0, 0, false, false, 0, 0⟩ 2820862134⟩),
    (0x8386212D, 0x00003C00, 0x00000000, 2, .slea ⟨8, 6, 14, 8, .l0 ⟨0, 56, true, false, 0, 0, false, false, 0, 0⟩⟩),
    (0x17C78131, 0x00003480, 0x00000000, 2, .v2s ⟨32, 7, 31, 1, .l0 ⟨0, 41, true, false, 0, 0, false, false, 0, 0⟩⟩),
    (0x00080535, 0x00602080, 0x00000000, 2, .s2v ⟨1, 8, 0, 0, .l0 ⟨0, 1, true, false, 0, 0, false, true, 1, 0⟩⟩),
    (0x0A037939, 0x00603900, 0x00000000, 2, .smin ⟨30, 3, 40, 0, .l0 ⟨0, 50, true, false, 0, 0, false, true, 1, 0⟩⟩),
    (0x0860553D, 0x00003C00, 0x00000000, 2, .smax ⟨21, 32, 33, 0, .l0 ⟨0, 56, true, false, 0, 0, false, false, 0, 0⟩⟩)] = true := by decide

/-- Words of row 0x5 of the opcode map, laid out from R70, R73 and R75. -/
theorem test_decode_floating : readsAll [
    (0x08E81541, 0x00002480, 0x00000000, 2, .fadd ⟨5, 40, 35, 0, .l0 ⟨0, 9, true, false, 0, 0, false, false, 0, 0⟩⟩),
    (0x04198145, 0x00007D80, 0x00000000, 2, .fsub ⟨32, 25, 16, 0, .l0 ⟨0, 59, true, true, 0, 0, false, false, 0, 0⟩⟩),
    (0x01491149, 0x02E06300, 0x00000000, 2, .fmul ⟨4, 9, 5, 0, .l0 ⟨0, 6, true, true, 0, 0, false, true, 11, 0⟩⟩),
    (0x0610114D, 0x02E02E02, 0x00000000, 2, .ffma ⟨4, 16, 24, 0, .l0 ⟨1, 28, true, false, 0, 0, false, true, 11, 0⟩⟩),
    (0x061A6151, 0x03206980, 0x00000000, 2, .fmin ⟨24, 26, 24, 0, .l0 ⟨0, 19, true, true, 0, 0, false, true, 12, 0⟩⟩),
    (0x01C88155, 0x00002300, 0x00000000, 2, .fmax ⟨32, 8, 7, 0, .l0 ⟨0, 6, true, false, 0, 0, false, false, 0, 0⟩⟩),
    (0x85A74159, 0x00007900, 0x00000000, 2, .fcmp ⟨16, 39, 22, 8, .l0 ⟨0, 50, true, true, 0, 0, false, false, 0, 0⟩⟩),
    (0x0018195D, 0x00000000, 0x00000000, 2, .fclass ⟨6, 24, 0, 0, .l0 Ext0.zero⟩),
    (0xD0034162, 0x1A700000, 0x00000005, 3, .fcvt ⟨16, 3, 0, 13, .w ⟨0, 0, false, false, 0, 0, true, true, 9, 6⟩ 5⟩),
    (0x80024165, 0x4CE07E80, 0x00000000, 2, .icvtf ⟨16, 2, 0, 8, .l0 ⟨0, 61, true, true, 0, 0, false, true, 3, 19⟩⟩),
    (0x60082969, 0x20106500, 0x00000000, 2, .fcvti ⟨10, 8, 0, 6, .l0 ⟨0, 10, true, true, 0, 0, true, false, 0, 8⟩⟩),
    (0x1000096D, 0x20002200, 0x00000000, 2, .frnd ⟨2, 0, 0, 1, .l0 ⟨0, 4, true, false, 0, 0, false, false, 0, 8⟩⟩),
    (0x01A01571, 0x02602A80, 0x00000000, 2, .fscale ⟨5, 32, 6, 0, .l0 ⟨0, 21, true, false, 0, 0, false, true, 9, 0⟩⟩),
    (0x00D80575, 0x02A078D8, 0x00000000, 2, .fdot2 ⟨1, 24, 3, 0, .l0 ⟨44, 49, true, true, 0, 0, false, true, 10, 0⟩⟩)] = true := by decide

/-- Words of row 0x6 of the opcode map, laid out from R70, R73 and R75. -/
theorem test_decode_special_functions : readsAll [
    (0x20041982, 0x00002500, 0x00000000, 3, .frcp ⟨6, 4, 0, 2, .w ⟨0, 10, true, false, 0, 0, false, false, 0, 0⟩ 0⟩),
    (0x50231185, 0x00002380, 0x00000000, 2, .frsq ⟨4, 35, 0, 5, .l0 ⟨0, 7, true, false, 0, 0, false, false, 0, 0⟩⟩),
    (0x80070589, 0x00002180, 0x00000000, 2, .fsqrt ⟨1, 7, 0, 8, .l0 ⟨0, 3, true, false, 0, 0, false, false, 0, 0⟩⟩),
    (0x9481598D, 0x02603F80, 0x00000000, 2, .fdiv ⟨22, 1, 18, 9, .l0 ⟨0, 63, true, false, 0, 0, false, true, 9, 0⟩⟩),
    (0x800A1191, 0x00007D80, 0x00000000, 2, .fexp2 ⟨4, 10, 0, 8, .l0 ⟨0, 59, true, true, 0, 0, false, false, 0, 0⟩⟩),
    (0x60188195, 0x00003800, 0x00000000, 2, .flog2 ⟨32, 24, 0, 6, .l0 ⟨0, 48, true, false, 0, 0, false, false, 0, 0⟩⟩),
    (0x30036199, 0x00007900, 0x00000000, 2, .fsin ⟨24, 3, 0, 3, .l0 ⟨0, 50, true, true, 0, 0, false, false, 0, 0⟩⟩),
    (0x5028219D, 0x02A07F80, 0x00000000, 2, .fcos ⟨8, 40, 0, 5, .l0 ⟨0, 63, true, true, 0, 0, false, true, 10, 0⟩⟩),
    (0x20011DA1, 0x00006180, 0x00000000, 2, .ftanh ⟨7, 1, 0, 2, .l0 ⟨0, 3, true, true, 0, 0, false, false, 0, 0⟩⟩),
    (0x500711A5, 0x02E02100, 0x00000000, 2, .fsigm ⟨4, 7, 0, 5, .l0 ⟨0, 2, true, false, 0, 0, false, true, 11, 0⟩⟩),
    (0xC0080DAA, 0x00006800, 0x00000000, 3, .ftab ⟨3, 8, 0, 12, .w ⟨0, 16, true, true, 0, 0, false, false, 0, 0⟩ 0⟩),
    (0xE01001AD, 0x0000000F, 0x00000000, 2, .tabld ⟨0, 16, 0, 14, .l1 7 0⟩)] = true := by decide

/-- Words of row 0x7 of the opcode map, laid out from R70, R73 and R75. -/
theorem test_decode_cross_lane : readsAll [
    (0x68CC7DC1, 0x01202700, 0x00000000, 2, .lxch ⟨31, 12, 35, 6, .l0 ⟨0, 14, true, false, 0, 0, false, true, 4, 0⟩⟩),
    (0x200321C5, 0x00000000, 0x00000000, 2, .vote ⟨8, 3, 0, 2, .l0 Ext0.zero⟩),
    (0x001859C9, 0x00006980, 0x00000000, 2, .match ⟨22, 24, 0, 0, .l0 ⟨0, 19, true, true, 0, 0, false, false, 0, 0⟩⟩),
    (0x100861CD, 0x05200000, 0x00000000, 2, .reduce ⟨24, 8, 0, 1, .l0 ⟨0, 0, false, false, 0, 0, false, true, 4, 1⟩⟩),
    (0x102B1DD1, 0x05200000, 0x00000000, 2, .scan ⟨7, 43, 0, 1, .l0 ⟨0, 0, false, false, 0, 0, false, true, 4, 1⟩⟩),
    (0x24C6A1D5, 0x1C00218E, 0x00000000, 2, .plut ⟨40, 6, 19, 2, .l0 ⟨7, 3, true, false, 0, 0, false, false, 0, 7⟩⟩),
    (0x00000DD9, 0x00003200, 0x00000000, 2, .p2v ⟨3, 0, 0, 0, .l0 ⟨0, 36, true, false, 0, 0, false, false, 0, 0⟩⟩),
    (0x000C81DD, 0x00000000, 0x00000000, 2, .v2p ⟨32, 12, 0, 0, .l0 Ext0.zero⟩)] = true := by decide

/-- Words of row 0x8 of the opcode map, laid out from R70, R73 and R75. -/
theorem test_decode_loads_and_stores : readsAll [
    (0xF14C1E02, 0x20042800, 0x7944AA18, 3, .ld .w8 ⟨7, 12, 5, 15, .w ⟨0, 16, true, false, 0, 1, false, false, 0, 8⟩ 2034543128⟩),
    (0xA15E8206, 0x40092880, 0x3DA812B8, 3, .ld .w16 ⟨32, 30, 5, 10, .w ⟨0, 17, true, false, 2, 2, false, false, 0, 16⟩ 1034425016⟩),
    (0x6404120A, 0x5808E400, 0x52DE4024, 3, .ld .w32 ⟨4, 4, 16, 6, .w ⟨0, 8, true, true, 1, 2, false, false, 0, 22⟩ 1390297124⟩),
    (0x8200620E, 0x1C09A500, 0xAB7A97C8, 3, .ld .w64 ⟨24, 0, 8, 8, .w ⟨0, 10, true, false, 3, 2, false, false, 0, 7⟩ 2876938184⟩),
    (0x1A202212, 0x40097B00, 0xCA83C580, 3, .ld .w128 ⟨8, 32, 40, 1, .w ⟨0, 54, true, true, 2, 2, false, false, 0, 16⟩ 3397633408⟩),
    (0x34286222, 0x400D3380, 0x00000000, 3, .st .w8 ⟨24, 40, 16, 3, .w ⟨0, 39, true, false, 2, 3, false, false, 0, 16⟩ 0⟩),
    (0x12080E26, 0x1C006D00, 0xA0DB3AEA, 3, .st .w16 ⟨3, 8, 8, 1, .w ⟨0, 26, true, true, 0, 0, false, false, 0, 7⟩ 2698722026⟩),
    (0x2188522A, 0x08043B00, 0x3B816230, 3, .st .w32 ⟨20, 8, 6, 2, .w ⟨0, 54, true, false, 0, 1, false, false, 0, 2⟩ 998335024⟩),
    (0x41A08A2E, 0x400DF200, 0x00000005, 3, .st .w64 ⟨34, 32, 6, 4, .w ⟨0, 36, true, true, 3, 3, false, false, 0, 16⟩ 5⟩),
    (0x81446231, 0x380D6200, 0x00000000, 2, .st .w128 ⟨24, 4, 5, 8, .l0 ⟨0, 4, true, true, 2, 3, false, false, 0, 14⟩⟩)] = true := by decide

/-- Words of row 0x9 of the opcode map, laid out from R70, R73 and R75. -/
theorem test_decode_scratchpad : readsAll [
    (0x81872642, 0x08087100, 0x00000004, 3, .lds .w8 ⟨9, 7, 6, 8, .w ⟨0, 34, true, true, 0, 2, false, false, 0, 2⟩ 4⟩),
    (0x8A587646, 0x0C046B00, 0x590A8BE9, 3, .lds .w16 ⟨29, 24, 41, 8, .w ⟨0, 22, true, true, 0, 1, false, false, 0, 3⟩ 1493863401⟩),
    (0x81C8BA4A, 0x10047900, 0x31745470, 3, .lds .w32 ⟨46, 8, 7, 8, .w ⟨0, 50, true, true, 0, 1, false, false, 0, 4⟩ 829707376⟩),
    (0xF9C50A4E, 0x14046E00, 0xDAEB87E0, 3, .lds .w64 ⟨2, 5, 39, 15, .w ⟨0, 28, true, true, 0, 1, false, false, 0, 5⟩ 3672868832⟩),
    (0x810D7251, 0x18093F80, 0x00000000, 2, .lds .w128 ⟨28, 13, 4, 8, .l0 ⟨0, 63, true, false, 2, 2, false, false, 0, 6⟩⟩),
    (0x19874262, 0x04046E80, 0xF63C0278, 3, .sts .w8 ⟨16, 7, 38, 1, .w ⟨0, 29, true, true, 0, 1, false, false, 0, 1⟩ 4131127928⟩),
    (0xFA040A66, 0x0C002C80, 0x3F648948, 3, .sts .w16 ⟨2, 4, 40, 15, .w ⟨0, 25, true, false, 0, 0, false, false, 0, 3⟩ 1063553352⟩),
    (0xDA03066A, 0x04003900, 0x323B23A3, 3, .sts .w32 ⟨1, 3, 40, 13, .w ⟨0, 50, true, false, 0, 0, false, false, 0, 1⟩ 842736547⟩),
    (0x5207626E, 0x08007980, 0x00000005, 3, .sts .w64 ⟨24, 7, 8, 5, .w ⟨0, 51, true, true, 0, 0, false, false, 0, 2⟩ 5⟩),
    (0x1A96A272, 0x100C6F00, 0x00000007, 3, .sts .w128 ⟨40, 22, 42, 1, .w ⟨0, 30, true, true, 0, 3, false, false, 0, 4⟩ 7⟩)] = true := by decide

/-- Words of row 0xA of the opcode map, laid out from R70, R73 and R75. -/
theorem test_decode_constant_and_stash : readsAll [
    (0x34885E82, 0x14006680, 0x00000004, 3, .ldc .w8 ⟨23, 8, 18, 3, .w ⟨0, 13, true, true, 0, 0, false, false, 0, 5⟩ 4⟩),
    (0x68084A86, 0x10003E80, 0x00000007, 3, .ldc .w16 ⟨18, 8, 32, 6, .w ⟨0, 61, true, false, 0, 0, false, false, 0, 4⟩ 7⟩),
    (0x41E0168A, 0x18006B80, 0x00000006, 3, .ldc .w32 ⟨5, 32, 7, 4, .w ⟨0, 23, true, true, 0, 0, false, false, 0, 6⟩ 6⟩),
    (0x3A885A8D, 0x14007680, 0x00000000, 2, .ldc .w64 ⟨22, 8, 42, 3, .l0 ⟨0, 45, true, true, 0, 0, false, false, 0, 5⟩⟩),
    (0xE1CC6292, 0x1C002080, 0x00000005, 3, .ldc .w128 ⟨24, 12, 7, 14, .w ⟨0, 1, true, false, 0, 0, false, false, 0, 7⟩ 5⟩),
    (0xF16082A2, 0x00002C80, 0x00000005, 3, .ldi .w8 ⟨32, 32, 5, 15, .w ⟨0, 25, true, false, 0, 0, false, false, 0, 0⟩ 5⟩),
    (0xF04C22A5, 0x04003000, 0x00000000, 2, .ldi .w16 ⟨8, 12, 1, 15, .l0 ⟨0, 32, true, false, 0, 0, false, false, 0, 1⟩⟩),
    (0x21A61EA9, 0x04002B80, 0x00000000, 2, .ldi .w32 ⟨7, 38, 6, 2, .l0 ⟨0, 23, true, false, 0, 0, false, false, 0, 1⟩⟩),
    (0x412882AD, 0x00020005, 0x00000000, 2, .ldi .w64 ⟨32, 40, 4, 4, .l1 2 1⟩),
    (0x904262B2, 0x00007F80, 0x18FCEF18, 3, .ldi .w128 ⟨24, 2, 1, 9, .w ⟨0, 63, true, true, 0, 0, false, false, 0, 0⟩ 419229464⟩)] = true := by decide

/-- Words of row 0xB of the opcode map, laid out from R70, R73 and R75. -/
theorem test_decode_tile_and_shard : readsAll [
    (0x806872C2, 0x800061A0, 0x00000000, 3, .ldl .w8 ⟨28, 40, 1, 8, .w ⟨16, 3, true, true, 0, 0, false, false, 0, 32⟩ 0⟩),
    (0xD1C65AC6, 0x80003120, 0x32DC5345, 3, .ldl .w16 ⟨22, 6, 7, 13, .w ⟨16, 34, true, false, 0, 0, false, false, 0, 32⟩ 853300037⟩),
    (0x18280ACA, 0x000067B0, 0x00000007, 3, .ldl .w32 ⟨2, 40, 32, 1, .w ⟨24, 15, true, true, 0, 0, false, false, 0, 0⟩ 7⟩),
    (0xA04EBACE, 0x000066C0, 0x6B12648B, 3, .ldl .w64 ⟨46, 14, 1, 10, .w ⟨32, 13, true, true, 0, 0, false, false, 0, 0⟩ 1796367499⟩),
    (0xB11082D2, 0x00003F30, 0x4DF13E99, 3, .ldl .w128 ⟨32, 16, 4, 11, .w ⟨24, 62, true, false, 0, 0, false, false, 0, 0⟩ 1307655833⟩),
    (0x12CE4AE1, 0x00046900, 0x00000000, 2, .ldt .w32 ⟨18, 14, 11, 1, .l0 ⟨0, 18, true, true, 0, 1, false, false, 0, 0⟩⟩),
    (0x364582E5, 0x00003600, 0x00000000, 2, .ldt .w64 ⟨32, 5, 25, 3, .l0 ⟨0, 44, true, false, 0, 0, false, false, 0, 0⟩⟩),
    (0x210932EA, 0x00042A00, 0x00000000, 3, .ldt .w128 ⟨12, 9, 4, 2, .w ⟨0, 20, true, false, 0, 1, false, false, 0, 0⟩ 0⟩),
    (0x231B1AF1, 0x00043180, 0x00000000, 2, .stt .w32 ⟨6, 27, 12, 2, .l0 ⟨0, 35, true, false, 0, 1, false, false, 0, 0⟩⟩),
    (0x87015AF5, 0x000C3080, 0x00000000, 2, .stt .w64 ⟨22, 1, 28, 8, .l0 ⟨0, 33, true, false, 0, 3, false, false, 0, 0⟩⟩),
    (0xD04682F9, 0x00006000, 0x00000000, 2, .stt .w128 ⟨32, 6, 1, 13, .l0 ⟨0, 0, true, true, 0, 0, false, false, 0, 0⟩⟩)] = true := by decide

/-- Words of row 0xC of the opcode map, laid out from R70, R73 and R75. -/
theorem test_decode_atomics_and_order : readsAll [
    (0x20C30B02, 0x080CB780, 0x00000000, 3, .atom ⟨2, 3, 3, 2, .w ⟨0, 47, true, false, 1, 3, false, false, 0, 2⟩ 0⟩),
    (0x881A0306, 0x4800F680, 0x02D98660, 3, .red ⟨0, 26, 32, 8, .w ⟨0, 45, true, true, 1, 0, false, false, 0, 18⟩ 47810144⟩),
    (0x2082530A, 0x0804378E, 0xB5646570, 3, .cas ⟨20, 2, 2, 2, .w ⟨7, 47, true, false, 0, 1, false, false, 0, 2⟩ 3043255664⟩),
    (0x2917A30E, 0x0C017800, 0x00000003, 3, .fxadd ⟨40, 23, 36, 2, .w ⟨0, 48, true, true, 2, 0, false, false, 0, 3⟩ 3⟩),
    (0x66141B11, 0x14023F82, 0x00000000, 2, .waitaddr ⟨6, 20, 24, 6, .l0 ⟨1, 63, true, false, 4, 0, false, false, 0, 5⟩⟩),
    (0x50000315, 0x00002E00, 0x00000000, 2, .fence ⟨0, 0, 0, 5, .l0 ⟨0, 28, true, false, 0, 0, false, false, 0, 0⟩⟩),
    (0x8000031A, 0x0C003380, 0x00000000, 3, .rfence ⟨0, 0, 0, 8, .w ⟨0, 39, true, false, 0, 0, false, false, 0, 3⟩ 0⟩),
    (0x0000031C, 0x00000000, 0x00000000, 1, .opfence ⟨0, 0, 0, 0, .s⟩),
    (0x80420322, 0x08007780, 0x00000005, 3, .pref ⟨0, 2, 1, 8, .w ⟨0, 47, true, true, 0, 0, false, false, 0, 2⟩ 5⟩),
    (0xFB680325, 0x10006680, 0x00000000, 2, .cacheopWb ⟨0, 40, 45, 15, .l0 ⟨0, 13, true, true, 0, 0, false, false, 0, 4⟩⟩),
    (0xA1A80326, 0x34003D00, 0x2887BEFC, 3, .cacheopEvict ⟨0, 40, 6, 10, .w ⟨0, 58, true, false, 0, 0, false, false, 0, 13⟩ 679984892⟩),
    (0x65A00325, 0x4C006980, 0x00000000, 2, .cacheopZero ⟨0, 32, 22, 6, .l0 ⟨0, 19, true, true, 0, 0, false, false, 0, 19⟩⟩),
    (0x0418AB29, 0x00007900, 0x00000000, 2, .smap ⟨42, 24, 16, 0, .l0 ⟨0, 50, true, true, 0, 0, false, false, 0, 0⟩⟩),
    (0x0A00632D, 0x00002180, 0x00000000, 2, .sunmap ⟨24, 0, 40, 0, .l0 ⟨0, 3, true, false, 0, 0, false, false, 0, 0⟩⟩),
    (0x06900331, 0x00002700, 0x00000000, 2, .tlbiPage ⟨0, 16, 26, 0, .l0 ⟨0, 14, true, false, 0, 0, false, false, 0, 0⟩⟩),
    (0x10000331, 0x00008000, 0x00000000, 2, .tlbiAsid ⟨0, 0, 0, 1, .l0 ⟨0, 0, false, false, 1, 0, false, false, 0, 0⟩⟩),
    (0x20000330, 0x00000000, 0x00000000, 1, .tlbiAll ⟨0, 0, 0, 2, .s⟩)] = true := by decide

/-- Words of row 0xD of the opcode map, laid out from R70, R73 and R75. -/
theorem test_decode_engines : readsAll [
    (0x20000F41, 0x08006880, 0x00000000, 2, .mma ⟨3, 0, 0, 2, .l0 ⟨0, 17, true, true, 0, 0, false, false, 0, 2⟩⟩),
    (0x78001745, 0x100033B0, 0x00000000, 2, .mmag ⟨5, 0, 32, 7, .l0 ⟨24, 39, true, false, 0, 0, false, false, 0, 4⟩⟩),
    (0x20000349, 0x00006DA0, 0x00000000, 2, .gather ⟨0, 0, 0, 2, .l0 ⟨16, 27, true, true, 0, 0, false, false, 0, 0⟩⟩),
    (0x0000034D, 0x00003580, 0x00000000, 2, .mwait ⟨0, 0, 0, 0, .l0 ⟨0, 43, true, false, 0, 0, false, false, 0, 0⟩⟩),
    (0x1000034C, 0x00000000, 0x00000000, 1, .mwaitAll ⟨0, 0, 0, 1, .s⟩),
    (0x41100B51, 0x00002C08, 0x00000000, 2, .cpy ⟨2, 16, 4, 4, .l0 ⟨4, 24, true, false, 0, 0, false, false, 0, 0⟩⟩),
    (0x78088356, 0x0000001C, 0x00000000, 3, .cpyx ⟨32, 8, 32, 7, .w ⟨14, 0, false, false, 0, 0, false, false, 0, 0⟩ 0⟩),
    (0x00280359, 0x00000000, 0x00000000, 2, .cwait ⟨0, 40, 0, 0, .l0 Ext0.zero⟩),
    (0x10000358, 0x00000000, 0x00000000, 1, .cwaitAll ⟨0, 0, 0, 1, .s⟩),
    (0x0028835D, 0x00000000, 0x00000000, 2, .ctest ⟨32, 40, 0, 0, .l0 Ext0.zero⟩),
    (0x4B880360, 0x00000000, 0x00000000, 1, .qbind ⟨0, 8, 46, 4, .s⟩),
    (0x40000364, 0x00000000, 0x00000000, 1, .qfree ⟨0, 0, 0, 4, .s⟩),
    (0x00000369, 0x00606CB0, 0x00000000, 2, .nmc ⟨0, 0, 0, 0, .l0 ⟨24, 25, true, true, 0, 0, false, true, 1, 0⟩⟩),
    (0x0000036D, 0x00000000, 0x00000000, 2, .nmfence ⟨0, 0, 0, 0, .l0 Ext0.zero⟩),
    (0x00016371, 0x00100000, 0x00000000, 2, .accrd ⟨24, 1, 0, 0, .l0 ⟨0, 0, false, false, 0, 0, true, false, 0, 0⟩⟩),
    (0x00180F75, 0x00007680, 0x00000000, 2, .accwrLoad ⟨3, 24, 0, 0, .l0 ⟨0, 45, true, true, 0, 0, false, false, 0, 0⟩⟩),
    (0x10201374, 0x00000000, 0x00000000, 1, .accwrLoad64 ⟨4, 32, 0, 1, .s⟩),
    (0x20000B74, 0x00000000, 0x00000000, 1, .accwrZero ⟨2, 0, 0, 2, .s⟩),
    (0x30000774, 0x00000000, 0x00000000, 1, .accwrFree ⟨1, 0, 0, 3, .s⟩)] = true := by decide

/-- Words of row 0xE of the opcode map, laid out from R70, R73 and R75. -/
theorem test_decode_barriers_and_launch : readsAll [
    (0x00104381, 0x00006800, 0x00000000, 2, .bararv ⟨16, 16, 0, 0, .l0 ⟨0, 16, true, true, 0, 0, false, false, 0, 0⟩⟩),
    (0x01130385, 0x00007D80, 0x00000000, 2, .barwt ⟨0, 19, 4, 0, .l0 ⟨0, 59, true, true, 0, 0, false, false, 0, 0⟩⟩),
    (0x00040389, 0x00007000, 0x00000000, 2, .barsync ⟨0, 4, 0, 0, .l0 ⟨0, 32, true, true, 0, 0, false, false, 0, 0⟩⟩),
    (0x0000038D, 0x0001ABD1, 0x00000000, 2, .rbarSync ⟨0, 0, 0, 0, .l1 54760 0⟩),
    (0x101EAB8D, 0x00000000, 0x00000000, 2, .rbarArv ⟨42, 30, 0, 1, .l0 Ext0.zero⟩),
    (0x2200038D, 0x0000000D, 0x00000000, 2, .rbarWt ⟨0, 0, 8, 2, .l1 6 0⟩),
    (0x00180391, 0x00000000, 0x00000000, 2, .launch ⟨0, 24, 0, 0, .l0 Ext0.zero⟩),
    (0x10108395, 0x00007080, 0x00000000, 2, .wlpush ⟨32, 16, 0, 1, .l0 ⟨0, 33, true, true, 0, 0, false, false, 0, 0⟩⟩),
    (0x20288399, 0x04007700, 0x00000000, 2, .wlpop ⟨32, 40, 0, 2, .l0 ⟨0, 46, true, true, 0, 0, false, false, 0, 1⟩⟩),
    (0x40000398, 0x00000000, 0x00000000, 1, .wlpopDone ⟨0, 0, 0, 4, .s⟩),
    (0x00001B9C, 0x00000000, 0x00000000, 1, .quiesce ⟨6, 0, 0, 0, .s⟩),
    (0x10008B9C, 0x00000000, 0x00000000, 1, .quiesceTest ⟨34, 0, 0, 1, .s⟩),
    (0x038E03A0, 0x00000000, 0x00000000, 1, .intent ⟨0, 14, 14, 0, .s⟩),
    (0x120403A1, 0x00006604, 0x00000000, 2, .intentG ⟨0, 4, 8, 1, .l0 ⟨2, 12, true, true, 0, 0, false, false, 0, 0⟩⟩),
    (0x000053A5, 0x00000000, 0x00000000, 2, .tokqBal ⟨20, 0, 0, 0, .l0 Ext0.zero⟩),
    (0x100023A4, 0x00000000, 0x00000000, 1, .tokqRate ⟨8, 0, 0, 1, .s⟩),
    (0x20002BA4, 0x00000000, 0x00000000, 1, .tokqChg ⟨10, 0, 0, 2, .s⟩),
    (0x300043A4, 0x00000000, 0x00000000, 1, .tokqRsv ⟨16, 0, 0, 3, .s⟩),
    (0x000017A9, 0x00007B00, 0x00000000, 2, .curq ⟨5, 0, 0, 0, .l0 ⟨0, 54, true, true, 0, 0, false, false, 0, 0⟩⟩)] = true := by decide

/-- Words of row 0xF of the opcode map, laid out from R70, R73 and R75. -/
theorem test_decode_fabric : readsAll [
    (0x499813C2, 0x18006280, 0xEC480CD5, 3, .stn ⟨4, 24, 38, 4, .w ⟨0, 5, true, true, 0, 0, false, false, 0, 6⟩ 3964144853⟩),
    (0x7A0823C5, 0x00003140, 0x00000000, 2, .mcst ⟨8, 8, 40, 7, .l0 ⟨32, 34, true, false, 0, 0, false, false, 0, 0⟩⟩),
    (0xD220A3CA, 0x20003030, 0x00000000, 3, .collAr ⟨40, 32, 8, 13, .w ⟨24, 32, true, false, 0, 0, false, false, 0, 8⟩ 0⟩),
    (0xF0480BC9, 0x04006D20, 0x00000000, 2, .collRs ⟨2, 8, 1, 15, .l0 ⟨16, 26, true, true, 0, 0, false, false, 0, 1⟩⟩),
    (0x5A681BC9, 0x08A02E00, 0x00000000, 2, .collAg ⟨6, 40, 41, 5, .l0 ⟨0, 28, true, false, 0, 0, false, true, 2, 2⟩⟩),
    (0x4090A3C9, 0x0F200008, 0x00000000, 2, .collBc ⟨40, 16, 2, 4, .l0 ⟨4, 0, false, false, 0, 0, false, true, 12, 3⟩⟩),
    (0xF2C053C9, 0x10006E00, 0x00000000, 2, .collBar ⟨20, 0, 11, 15, .l0 ⟨0, 28, true, true, 0, 0, false, false, 0, 4⟩⟩),
    (0x898003CD, 0x00000000, 0x00000000, 2, .fbar ⟨0, 0, 38, 8, .l0 Ext0.zero⟩),
    (0x840023D1, 0x00003080, 0x00000000, 2, .viewqTag ⟨8, 0, 16, 8, .l0 ⟨0, 33, true, false, 0, 0, false, false, 0, 0⟩⟩),
    (0x80401FD2, 0x04000000, 0x00000000, 3, .viewqState ⟨7, 0, 1, 8, .w ⟨0, 0, false, false, 0, 0, false, false, 0, 1⟩ 0⟩),
    (0x566E0FD1, 0x08007280, 0x00000000, 2, .viewqLive ⟨3, 46, 25, 5, .l0 ⟨0, 37, true, true, 0, 0, false, false, 0, 2⟩⟩),
    (0x480083D1, 0x0C000000, 0x00000000, 2, .viewqSeq ⟨32, 0, 32, 4, .l0 ⟨0, 0, false, false, 0, 0, false, false, 0, 3⟩⟩),
    (0x714043D5, 0x00003400, 0x00000000, 2, .vjoin ⟨16, 0, 5, 7, .l0 ⟨0, 40, true, false, 0, 0, false, false, 0, 0⟩⟩),
    (0x100023D9, 0x00002700, 0x00000000, 2, .shsyncWait ⟨8, 0, 0, 1, .l0 ⟨0, 14, true, false, 0, 0, false, false, 0, 0⟩⟩),
    (0x181817D9, 0x04007500, 0x00000000, 2, .shsyncPub ⟨5, 24, 32, 1, .l0 ⟨0, 42, true, true, 0, 0, false, false, 0, 1⟩⟩)] = true := by decide

/-! ## States -/

/-- The first path of the train that `seatWords` seats, and of a handler of that train. -/
def r0 : PathRef := ⟨0, 0, 0, false⟩
def rh : PathRef := ⟨0, 0, 0, true⟩

/-- Changes of the seated train, its first path, its core and its cluster. -/
def fixT (f : Train → Train) (s : State) : State := modTrain s 0 0 f
def fixP (f : Path → Path) (s : State) : State := modPath s r0 f
def fixK (f : Core → Core) (s : State) : State := modCore s 0 f
def fixC (f : Cluster → Cluster) (s : State) : State := modCluster s 0 f

/-- A seated train whose path has every lane, and one whose path has lane 0 alone. -/
def full : State := seatWords State.reset 0 0 0
def one : State := fixP (fun p => { p with mask := 1 }) full

/-- Registers v and scalars of the seated train, in lane 0. -/
def withV (l : List (Nat × Word)) (s : State) : State :=
  fixT (fun t => { t with lanes := updAt t.lanes 0 fun ln =>
    { ln with v := l.foldl (fun v x => updAt v x.1 fun _ => x.2) ln.v } }) s
def withS (l : List (Nat × Word)) (s : State) : State :=
  fixT (fun t => { t with scalars := l.foldl (fun v x => updAt v x.1 fun _ => x.2) t.scalars }) s
/-- Predicates of lane 0. -/
def withPred (x : DWord) (s : State) : State :=
  fixT (fun t => { t with lanes := updAt t.lanes 0 fun ln => { ln with preds := x } }) s

/-- The train in a handler of its first path, which issues next. -/
def inHandler : State :=
  { fixT (fun t => { t with handler := some ⟨false, 0, false, 1, [some (newPath 9 0 1), none, none, none],
      List.replicate 16 none, 0, 0x0E, 0⟩ }) one with sel := some rh }

/-- Page tables of ASID 0 in a valid context with the LAUNCH right: a page of 1 GiB at 0 that maps to itself, one at 1 GiB of
peer 5, one at 2 GiB of window-stack bytes at 1 GiB of memory, and one at 3 GiB that traps as absent. -/
def paged (s : State) : State := { s with
  ctxs := [⟨0, leBytes 8 0x100000 ++ leBytes 8 0x2000 ++ leBytes 8 0x3000 ++ leBytes 8 0x4000 ++ leBytes 8 0x5000 ++
    leBytes 4 64 ++ leBytes 4 3 ++ List.replicate 208 0⟩]
  routes := [(5, 0x102)]
  ports := List.replicate 16 ⟨true, 0, false⟩
  mem := [(0x100000, 0x01), (0x100002, 0x20), (0x200000, 0x1F), (0x200008, 0x0F), (0x200009, 0x04), (0x20000E, 0x50),
    (0x200010, 0x2F), (0x200013, 0x40), (0x200018, 0xC0)] }
/-- The nine bytes of these tables. -/
def tables : List Host.Cell := [(0x100000, 0x01), (0x100002, 0x20), (0x200000, 0x1F), (0x200008, 0x0F), (0x200009, 0x04),
  (0x20000E, 0x50), (0x200010, 0x2F), (0x200013, 0x40), (0x200018, 0xC0)]
/-- A table's entry beyond those bytes is zero. -/
theorem tables_none {k : Nat} (h : ∀ x ∈ tables, x.1 < k ∨ k + 8 ≤ x.1) : memLe tables k 8 = 0 := memLe_unlisted h
/-- Over these tables a walk depends on their bytes alone. -/
theorem walk_paged {s : State} {m : List Host.Cell} {core : Option Nat} {va : DWord} (hs : s.mem = tables)
    (hr : ctxRoot s 0 = 0x100000) (hm : ∀ a, 0x100000 ≤ a → a < 0x201000 → memRead m a = memRead s.mem a) :
    walkOf { s with mem := m } core 0 va = walkOf s core 0 va := by
  have i3 : levelIndex va.toNat 3 < 2 ^ 17 := Nat.mod_lt _ (by positivity)
  have i2 : levelIndex va.toNat 2 < 2 ^ 9 := Nat.mod_lt _ (by positivity)
  refine walkOf_mem (fun l t => (l = 3 ∧ t = 0x100000) ∨ (l = 2 ∧ t = 0x200000)) (.inl ⟨rfl, hr⟩) (fun l t h => ?_) fun l t n h hn => ?_
  · refine memLe_congr fun i hi => hm _ ?_ ?_ <;> rcases h with ⟨rfl, rfl⟩ | ⟨rfl, rfl⟩ <;> omega
  · obtain ⟨hn, h0, h1⟩ := walkEntry_next hn
    rw [hs] at hn h0 h1
    rcases h with ⟨hl, rfl⟩ | ⟨hl, rfl⟩
    · obtain rfl : l = 2 := by omega
      generalize levelIndex va.toNat 3 = i at *
      by_cases hz : i = 0
      · subst hz
        exact .inr ⟨rfl, hn.trans (by decide)⟩
      · rw [tables_none (by simp [tables]; omega)] at h0
        exact absurd h0 (by decide)
    · obtain rfl : l = 1 := by omega
      generalize levelIndex va.toNat 2 = i at *
      by_cases hz : i < 4
      · interval_cases i
        · exact absurd h1 (by decide)
        · exact absurd h1 (by decide)
        · exact absurd h1 (by decide)
        · exact absurd h0 (by decide)
      · rw [tables_none (by simp [tables]; omega)] at h0
        exact absurd h0 (by decide)
/-- Over these tables the third page of 1 GiB is the window stack's. -/
theorem walk_stack {s : State} {core : Option Nat} {va : DWord} (hr : ctxRoot s 0 = 0x100000) (hv : ctxValid s 0 = true)
    (h3 : walkEntry s core 0x80000000 0x100000 3 = .inr 0x200000)
    (h2 : walkEntry s core 0x80000000 0x200000 2 = .inl (.leaf 0x4000002F 30)) (h : va.toNat / 2 ^ 30 = 2) :
    walkOf s core 0 va = .leaf 0x4000002F 30 := by
  have i3 : levelIndex va.toNat 3 = levelIndex 0x80000000 3 := by
    simp [levelIndex, bitsOf, Nat.shiftRight_eq_div_pow]; omega
  have i2 : levelIndex va.toNat 2 = levelIndex 0x80000000 2 := by
    simp [levelIndex, bitsOf, Nat.shiftRight_eq_div_pow]; omega
  simp [walkOf, hv, hr, walk, walkEntry_index i3, h3, walkEntry_index i2, h2]
/-- Bytes of memory. -/
def withMem (k : Nat) (bs : List Byte) (s : State) : State := { s with mem := memPut s.mem k bs }

/-- The answer's state has a property. -/
def after (o : Out) (f : State → Bool) : Bool := match o with | .next t => f t | _ => false
/-- The first lane of the seated train. -/
def lane0 (s : State) : Lane := nth newLane (((trainAt s 0 0).map (·.lanes)).getD []) 0
/-- A register v, a predicate and a scalar of the seated train after a step. -/
def v0 (o : Out) (n : Nat) (x : Word) : Bool := after o fun t => nth 0 (lane0 t).v n == x
def p0 (o : Out) (n : Nat) (x : Bool) : Bool := after o fun t => predOf (lane0 t) n == x
def s0 (o : Out) (n : Nat) (x : Word) : Bool := after o fun t => nth 0 (((trainAt t 0 0).map (·.scalars)).getD []) n == x
/-- The path after a step. -/
def path0 (o : Out) (f : Path → Bool) : Bool := after o fun t => match pathAt t r0 with | some p => f p | none => false
/-- The train entered a handler with a cause. -/
def trapped (o : Out) (k : Nat) : Bool := after o fun t => match trainAt t 0 0 with
  | some u => u.handler.isSome && u.trapCause.toNat % 256 == k
  | none => false

/-! ## Single steps -/

def f3 (d a b : BitVec 6) : Fields := ⟨d, a, b, 0, .s⟩

/-- R99: a sum wraps. -/
theorem test_iadd_wraps : v0 (exec (.iadd (f3 1 2 3)) (withV [(2, 0xFFFFFFFF), (3, 2)] one)) 1 1 = true := by decide
/-- R99: the high half of a signed product. -/
theorem test_imulhi_signed : v0 (exec (.imulhi (f3 1 2 3)) (withV [(2, 0xFFFFFFFF), (3, 2)] one)) 1 0xFFFFFFFF = true := by
  decide
/-- R102: a logical shift by the width gives 0, an arithmetic one the sign. -/
theorem test_shr_width : v0 (exec (.shr (f3 1 2 3)) (withV [(2, 0x80000000), (3, 32)] one)) 1 0 = true := by decide
theorem test_sha_width : v0 (exec (.sha (f3 1 2 3)) (withV [(2, 0x80000000), (3, 32)] one)) 1 0xFFFFFFFF = true := by decide
/-- R43, R99: packed 16-bit elements do not carry into each other; the destination may be a source. -/
theorem test_isub_packed : v0 (exec (.isub ⟨2, 2, 3, 0, ofTy 4⟩) (withV [(2, 0x00010000), (3, 0x00020001)] one)) 2
    0xFFFFFFFF = true := by decide
/-- R100: ICMP.LT is signed in I32, unsigned in N32. -/
theorem test_icmp_signed : p0 (exec (.icmp ⟨1, 2, 3, 2, .s⟩) (withV [(2, 0xFFFFFFFF), (3, 1)] one)) 1 true = true := by decide
theorem test_icmp_unsigned : p0 (exec (.icmp ⟨1, 2, 3, 2, ofTy 1⟩) (withV [(2, 0xFFFFFFFF), (3, 1)] one)) 1 false = true := by
  decide
/-- R104: a scalar sum in a pair carries into the high register. -/
theorem test_sadd_pair : s0 (exec (.sadd ⟨4, 2, 2, 0, ofTy 2⟩) (withS [(2, 0x80000000), (3, 1)] one)) 5 3 = true := by decide
/-- R107: 0.1 + 0.2 in FP32; 1.5 times -2 (IEEE 754 arithmetic). -/
theorem test_fadd : v0 (exec (.fadd ⟨1, 2, 3, 0, ofTy 9⟩) (withV [(2, 0x3DCCCCCD), (3, 0x3E4CCCCD)] one)) 1 0x3E99999A = true := by
  decide
theorem test_fmul : v0 (exec (.fmul ⟨1, 2, 3, 0, ofTy 9⟩) (withV [(2, 0x3FC00000), (3, 0xC0000000)] one)) 1 0xC0400000 = true := by
  decide
/-- R109: 65,520 overflows FP16 to +infinity; -3.5 truncates to -3 under RZ (SUB[5:3] = 2). -/
theorem test_fcvt_overflow : v0 (exec (.fcvt ⟨1, 2, 0, 10, ofTy 9⟩) (withV [(2, 0x477FF000)] one)) 1 0x7C00 = true := by decide
theorem test_fcvti_rz : v0 (exec (.fcvti ⟨1, 2, 0, 0, .l0 { Ext0.zero with tov := true, ty := 9, sub := 16 }⟩)
    (withV [(2, 0xC0600000)] one)) 1 0xFFFFFFFD = true := by decide
/-- R52: 0 times infinity with the invalid exception enabled traps with cause 0x0C. -/
theorem test_fmul_invalid_traps : trapped (exec (.fmul ⟨1, 2, 3, 0, ofTy 9⟩)
    (paged (fixP (fun p => { p with mode := 0x10000 }) (withV [(3, 0x7F800000)] one)))) 0x0C = true := by decide
/-- R130, R133: a taken BRA goes to its target with a redirect delay of 4. -/
theorem test_bra_taken : path0 (exec (.bra ⟨0, 0, 0, 0, .l1 5 0⟩) one) (fun p => p.pc == 20 && p.delay == 4) = true := by decide
/-- R161: CALL pushes the return address and goes one frame deeper. -/
theorem test_call : path0 (exec (.call ⟨0, 0, 0, 0, .l1 16 0⟩) (fixT (fun t => { t with winstack := 4 }) one))
    (fun p => p.pc == 64 && depthOf p == 1 && resOf p == 1) = true := by decide
/-- R183: TRAP enters the handler with cause 0x0E. -/
theorem test_trap : trapped (exec (.trap ⟨0, 0, 0, 0, .l1 7 0⟩) (paged one)) 0x0E = true := by decide
/-- R79, R80: a privileged write outside a handler takes cause 0x03; a type that FADD does not accept cause 0x02. -/
theorem test_privilege : trapped (exec (.rampsetWrite ⟨8, 0, 0, 0, .s⟩) (paged one)) 0x03 = true := by decide
theorem test_type_reserved : trapped (exec (.fadd (f3 1 2 3)) (paged one)) 0x02 = true := by decide
/-- R223: ST.16 stores the low half, little-endian. -/
theorem test_st : after (exec (.st .w16 ⟨1, 2, 48, 0, .s⟩) (paged (withV [(1, 0xAABBCCDD), (2, 0x8000)] one)))
    (fun t => memBytes t.mem 0x8000 3 == [0xDD, 0xCC, 0]) = true := by decide
/-- R226: an outstanding LD.16 with SX holds the sign-extended datum. -/
theorem test_ld_sx : path0 (exec (.ld .w16 ⟨1, 2, 48, 0, ofSub 32⟩)
    { paged (withV [(2, 0x8000)] one) with mem := memPut (paged one).mem 0x8000 [0xFE, 0xFF] })
    (fun p => p.pending.map (·.writes) == [[⟨.fixed 1, 0, 0xFFFFFFFE⟩]]) = true := by decide
/-- R222: a misaligned LD.32 traps with cause 0x05. -/
theorem test_ld_misaligned : trapped (exec (.ld .w32 ⟨1, 2, 48, 0, .s⟩) (paged (withV [(2, 0x8002)] one))) 0x05 = true := by decide
/-- R233: a load of an absent page whose policy is TRAP 0x06 traps with it. -/
theorem test_ld_absent : trapped (exec (.ld .w32 ⟨1, 2, 48, 0, .s⟩) (paged (withV [(2, 0xC0000000)] one))) 0x06 = true := by decide
/-- R302: the service train adds a RED's operand. -/
theorem test_red : after (exec (.red ⟨0, 2, 4, 0, .s⟩) (paged (withV [(2, 0x8000), (4, 5)] one))) (fun t =>
    after (exec (.atomicRequest (ownerCluster 0x8000) 0 none) t) fun u => memLe u.mem 0x8000 4 == 5) = true := by decide
/-- R36, R117: SETMODE that would write RMODE 6 traps with cause 0x02. -/
theorem test_setmode_rmode : trapped (exec (.setmode ⟨0, 0, 0, 0, .l1 0x3000 0⟩) (paged one)) 0x02 = true := by decide
/-- R121: VOTE.COUNT counts the active lanes whose predicate is set. -/
theorem test_vote_count : s0 (exec (.vote ⟨3, 0, 0, 3, .s⟩) full) 3 96 = true := by decide +kernel

/-! ## What meets the hypotheses

For each statement with hypotheses, a state and operands that meet them; where a statement has parts, one for each part. -/

/-- What stands where no context is. -/
def noTrain : Train := newTrain 0 noPacket ⟨0, 0⟩ 0 0 0 0
def noCtx : Ctx := ⟨r0, f3 0 0 0, { op := 0 }, noTrain, newPath 0 0 0, .i32, 0, 1⟩

/-- The context of an instruction that a path is to issue. -/
def ctxAt (s : State) (r : PathRef) (i : Instr) : Ctx := (mkCtx s r i).getD noCtx

/-- Whether an instruction's context meets every condition of Ready. -/
def readyB (i : Instr) (s : State) (r : PathRef) : Bool :=
  let c := ctxAt s r i
  (mkCtx s r i).isSome && c.r == r && s.sel == some c.r && c.p.pstate == .active && c.p.frozen == .none &&
  c.p.trapDue.isNone && c.p.stop == .running && tyAccepted c.sp c.ty && (fieldCheck c.sp (some c.ty) c.f).isNone &&
  (!isPrivileged i || c.r.handler) && (!c.r.handler || !doubleFaults i) && c.p.pending.isEmpty &&
  ((coreAt s c.r.core).wc.drop 64).isEmpty && decide (priceOf i c.ty ≤ tokensFor s c.r) && c.t.stepArmed.isNone &&
  s.shoots.isEmpty

theorem ready {i : Instr} {s : State} {r : PathRef} (h : readyB i s r = true) : Ready i s (ctxAt s r i) := by
  simp only [readyB, Bool.and_eq_true, beq_iff_eq, Option.isNone_iff_eq_none, List.isEmpty_iff, decide_eq_true_eq,
    Bool.or_eq_true, Bool.not_eq_true'] at h
  obtain ⟨⟨⟨⟨⟨⟨⟨⟨⟨⟨⟨⟨⟨⟨⟨h1, h2⟩, h3⟩, h4⟩, h5⟩, h6⟩, h7⟩, h8⟩, h9⟩, h10⟩, h11⟩, h12⟩, h13⟩, h14⟩, h15⟩, h16⟩ := h
  obtain ⟨c, hc⟩ := Option.isSome_iff_exists.1 h1
  exact { sel := h3, ctx := by rw [h2]; simp [ctxAt, hc], active := h4, thawed := h5, noTrap := h6, runs := .inl h7, type := h8,
          fields := h9, mode := fun hp => h10.resolve_left (by simp [hp]), handler := fun hp => h11.resolve_left (by simp [hp]),
          windows := by simp [h12], room := by simp [h12], masks := fun _ _ => h12, lookahead := by simp [h12],
          shoots := by simp [h16],
          combining := by simp [h13], tokens := h14, noStep := .inl (by simp [h15]) }

/-- Every instruction of a list is ready in a state, with a property. -/
theorem ready_all {l : List Instr} {s : State} {r : PathRef} {p : Instr → Ctx → Bool}
    (h : l.all (fun i => readyB i s r && p i (ctxAt s r i)) = true) : ∀ i ∈ l, ∃ c, Ready i s c ∧ p i c = true := by
  intro i hi
  have := List.all_eq_true.1 h i hi
  simp only [Bool.and_eq_true] at this
  exact ⟨_, ready this.1, this.2⟩

/-! ### Lane, scalar and predicate results -/

theorem witness_IntegerElementResults : ∀ i ∈ ([.iadd (f3 1 2 3), .isub (f3 1 2 3), .imul (f3 1 2 3), .imulhi (f3 1 2 3),
    .imad (f3 1 2 3), .imin (f3 1 2 3), .imax (f3 1 2 3), .iabs (f3 1 2 0), .and (f3 1 2 3), .or (f3 1 2 3), .xor (f3 1 2 3),
    .andn (f3 1 2 3), .shl (f3 1 2 3), .shr (f3 1 2 3), .sha (f3 1 2 3), .rot (f3 1 2 3), .popc (f3 1 2 0), .clz (f3 1 2 0),
    .brev (f3 1 2 0), .iadds ⟨1, 2, 3, 1, ofTy 6⟩, .iabs ⟨47, 51, 0, 1, ofTy 0⟩, .iadd ⟨48, 50, 49, 0, ofTy 2⟩] : List Instr),
    ∃ c, Ready i full c ∧ (elementRule i c).isSome = true := ready_all (r := r0) (by decide)

theorem witness_RegisterResults : ∀ i ∈ ([.mov (f3 1 2 0), .movi ⟨1, 0, 0, 0, .l1 7 0⟩, .bfe (f3 1 2 3), .bfi (f3 1 2 3),
    .sel (f3 1 2 3), .lea ⟨2, 4, 1, 15, .s⟩, .bysel ⟨1, 2, 3, 1, .s⟩, .idot4 ⟨1, 2, 3, 3, .s⟩, .s2v (f3 1 2 0), .p2v (f3 1 32 0)]
    : List Instr), ∃ c, Ready i full c ∧ (registerRule i c).isSome = true := ready_all (r := r0) (by decide)

theorem witness_PredicateResults : ∀ i ∈ ([.icmp ⟨63, 2, 3, 13, .s⟩, .vote ⟨1, 2, 0, 0, .s⟩, .vote ⟨1, 2, 0, 1, .s⟩,
    .plut ⟨1, 2, 3, 15, ofSub 15⟩] : List Instr), ∃ c, Ready i full c ∧ (predicateRule i c).isSome = true :=
  ready_all (r := r0) (by decide)
theorem witness_PredicateResults_2 : Ready (.v2p (f3 32 1 0)) full (ctxAt full r0 (.v2p (f3 32 1 0))) := ready (by decide)

theorem witness_ScalarResults : ∀ i ∈ ([.sadd (f3 1 2 3), .ssub (f3 1 2 3), .smul ⟨2, 4, 6, 0, ofTy 2⟩, .sand (f3 1 2 3),
    .sor (f3 1 2 3), .sxor (f3 1 2 3), .sshl (f3 1 2 3), .sshr (f3 1 2 3), .scmp ⟨1, 2, 3, 5, .s⟩, .smov (f3 63 0 0),
    .smovi ⟨1, 0, 0, 0, .l1 7 0⟩, .slea ⟨2, 4, 1, 15, .s⟩, .v2s (f3 1 2 0), .v2s ⟨1, 2, 3, 1, .s⟩, .smin (f3 1 2 3),
    .smax (f3 1 2 3), .vote ⟨1, 2, 0, 3, .s⟩] : List Instr), ∃ c, Ready i full c ∧ (scalarRule i c).isSome = true :=
  ready_all (r := r0) (by decide)
theorem witness_ScalarResults_2 : ∀ d ∈ ([0, 58, 61] : List (BitVec 6)), ∃ c, c.f.x = 2 ∧ Ready (.vote ⟨d, 2, 0, 2, .s⟩) full c :=
  fun d hd => ⟨ctxAt full r0 (.vote ⟨d, 2, 0, 2, .s⟩), by revert d; decide, by
    revert d; exact fun d hd => ready (by revert d; decide)⟩

theorem witness_CrossLaneResults : ∀ i ∈ ([.lxch ⟨1, 2, 3, 0, .s⟩, .lxch ⟨1, 2, 3, 15, .s⟩, .match ⟨1, 2, 0, 2, .s⟩] : List Instr),
    ∃ c, Ready i full c ∧ true = true := ready_all (r := r0) (by decide)

/-! ### Floating point -/

/-- With no exception enabled, none is taken. -/
theorem noEnabled {c : Ctx} {exc : Nat → Exc} (h : c.enabled = 0) : NoEnabled c exc := fun l _ _ => by simp [h]

theorem witness_FloatResults : ∀ i ∈ ([.fadd ⟨1, 2, 3, 0, ofTy 9⟩, .fsub ⟨2, 4, 6, 0, ofTy 8⟩, .fmul ⟨1, 2, 3, 0, ofTy 10⟩,
    .ffma ⟨1, 2, 3, 0, ofTy 11⟩, .fmin ⟨1, 2, 3, 0, ofTy 12⟩, .fmax ⟨1, 2, 3, 0, ofTy 14⟩, .frnd ⟨1, 2, 0, 1, ofTy 9⟩,
    .fscale ⟨1, 2, 3, 0, ofTy 9⟩, .fdot2 ⟨1, 2, 3, 0, ofTy 10⟩, .fcvt ⟨1, 2, 0, 0, .s⟩, .fcvt ⟨1, 2, 0, 10, ofTy 9⟩,
    .icvtf ⟨1, 2, 0, 9, ofTy 0⟩, .fcvti ⟨1, 2, 0, 6, ofTy 9⟩] : List Instr),
    ∃ c, Ready i full c ∧ ((floatRule i c).isSome && c.enabled == 0) = true := ready_all (r := r0) (by decide)
theorem witness_FloatResults_part : partOk (.fcvt ⟨1, 2, 0, 10, ofTy 9⟩) (ctxAt full r0 (.fcvt ⟨1, 2, 0, 10, ofTy 9⟩)) ∧
    partOk (.fcvti ⟨1, 2, 0, 6, .l0 { Ext0.zero with tov := true, ty := 9, sub := 3 }⟩)
      (ctxAt full r0 (.fcvti ⟨1, 2, 0, 6, .l0 { Ext0.zero with tov := true, ty := 9, sub := 3 }⟩)) := by
  constructor <;> (simp only [partOk, convWidths]; decide)
theorem witness_FloatResults_2 : ∀ i ∈ ([.fcmp ⟨1, 2, 3, 7, ofTy 9⟩, .fclass ⟨1, 2, 0, 0, ofTy 9⟩] : List Instr),
    ∃ c, Ready i full c ∧ (c.enabled == 0) = true := ready_all (r := r0) (by decide)

/-- Zero times infinity, and a NaN that signals to a comparison and to a special function, with invalid enabled. -/
def trapping : State := fixP (fun p => { p with mode := 0x10000 }) (withV [(2, 0x7FA00000), (3, 0x7F800000)] one)
theorem witness_FloatTraps : ∀ i ∈ ([.fmul ⟨1, 0, 3, 0, ofTy 9⟩, .fadd ⟨1, 2, 3, 0, ofTy 9⟩] : List Instr), ∃ c,
    Ready i trapping c ∧ (match floatRule i c with | some x => c.act.has 0 && (x.2 0).2 &&& c.enabled != 0 | none => false) = true :=
  ready_all (r := r0) (by decide)
theorem witness_FloatTraps_2 : ∀ i ∈ ([.frcp ⟨1, 2, 0, 0, ofTy 9⟩, .fsqrt ⟨1, 2, 0, 0, ofTy 9⟩] : List Instr), ∃ c,
    Ready i trapping c ∧ (match specialRule i with
      | some op => c.act.has 0 && (specialVal c op 0).2 &&& c.enabled != 0 | none => false) = true :=
  ready_all (r := r0) (by decide)
theorem witness_FloatTraps_3 : ∀ i ∈ ([.fcmp ⟨1, 2, 3, 2, ofTy 9⟩] : List Instr), ∃ c, Ready i trapping c ∧
    (c.act.has 0 && (c.fcmpVal 0).2 &&& c.enabled != 0) = true := ready_all (r := r0) (by decide)

theorem witness_SpecialFunctionResults : ∀ i ∈ ([.frcp ⟨1, 2, 0, 0, ofTy 9⟩, .frsq ⟨1, 2, 0, 7, ofTy 9⟩, .fsqrt ⟨2, 4, 0, 15, ofTy 8⟩,
    .fdiv ⟨1, 2, 3, 0, ofTy 9⟩, .fexp2 ⟨1, 2, 0, 0, ofTy 9⟩, .flog2 ⟨1, 2, 0, 0, ofTy 9⟩, .fsin ⟨1, 2, 0, 0, ofTy 9⟩,
    .fcos ⟨1, 2, 0, 0, ofTy 9⟩, .ftanh ⟨1, 2, 0, 0, ofTy 9⟩, .fsigm ⟨1, 2, 0, 0, ofTy 9⟩] : List Instr),
    ∃ c, Ready i full c ∧ ((specialRule i).isSome && c.enabled == 0) = true := ready_all (r := r0) (by decide)

/-- A core whose current bank is valid, of an ASID. -/
def tabled (asid : Nat) (s : State) : State :=
  fixK (fun k => { k with actBanks := updAt k.actBanks 0 fun b => { b with valid := true, asid := asid } }) s
theorem witness_SpecialFunctionResults_2 : Ready (.ftab ⟨1, 2, 0, 0, ofTy 9⟩) (tabled 0 one)
    (ctxAt (tabled 0 one) r0 (.ftab ⟨1, 2, 0, 0, ofTy 9⟩)) ∧ TableLoaded (tabled 0 one) (ctxAt (tabled 0 one) r0 (.ftab ⟨1, 2, 0, 0, ofTy 9⟩)) :=
  ⟨ready (by decide), by unfold TableLoaded; decide⟩

/-- A quiet NaN; opposite and equal infinities; infinity times zero; a zero sum. -/
theorem witness_FloatSpecialValues : (inF .fp32 .nearest 0x7FC00000).isNaN = true ∧ inF .fp32 .nearest 0x7F800000 = .inf false ∧
    inF .fp32 .nearest 0xFF800000 = .inf true ∧ inF .fp32 .nearest 0 = .fin false 0 (-149) ∧
    inF .fp32 .nearest 0x3F800000 = .fin false 0x800000 (-23) ∧ inF .fp32 .nearest 0xBF800000 = .fin true 0x800000 (-23) := by decide
theorem witness_RoundingModes : (0 < 1 ∧ (roundAt 0 0 false 3 (-1) false 0).1 = 2) ∧ (roundAt 4 0 false 5 (-1) false 0).1 = 3 := by decide

/-- Rounding toward zero: 1.5 and 0.5 are finite, within the range, their sum too; a positive divisor and root; the sources of
the conversions: an integer, a fixed-point number and a finite one. -/
theorem witness_RoundingModes_2 : ETy.fp32 ∈ roundedTypes ∧ (⟨1, false, 0, 0, 0⟩ : FEnv).rm < 5 ∧
    decF .fp32 0x3FC00000 = .fin false 0xC00000 (-23) ∧ decF .fp32 0x3F000000 = .fin false 0x800000 (-24) ∧
    decF .fp32 (maxMag .fp32) = .fin false 0xFFFFFF 104 := by decide
theorem witness_RoundingModes_3 : ETy.i32.code < 8 ∧ 8 ≤ ETy.fp32.code ∧ tySigned .i32 = true ∧ viewNum true 32 0xFFFFFFFF = -1 ∧
    ETy.fp32 ∈ roundedTypes ∧ SourceIs .i32 0 0xFFFFFFFF (-1) := by
  refine ⟨by decide, by decide, by decide, by decide, by decide, .inl ⟨by decide, ?_⟩⟩
  norm_num [viewNum, tySigned, tyBits]
theorem witness_RoundingModes_4 : SourceIs .fx64 62 (2 ^ 62) 1 ∧ SourceIs .fp32 0 0x3F800000 (numOf (decF .fp32 0x3F800000)) :=
  ⟨.inr (.inl ⟨rfl, by norm_num [viewNum]⟩), .inr (.inr ⟨by decide, ⟨_, _, _, rfl⟩, rfl⟩)⟩
/-- A subnormal of each sign, with FTZ. -/
theorem witness_RoundingModes_5 : (⟨0, true, 0, 0, 0⟩ : FEnv).ftz = true ∧ isSub .fp32 1 = true ∧ isSub .fp32 0x80000001 = true ∧
    isSub .e2m1 1 = true := by decide

/-! ### MODE, special registers, control flow and traps -/

/-- A context that is ready and has a property. -/
theorem meet {i : Instr} {s : State} {r : PathRef} {P : Ctx → Prop} (h : readyB i s r = true) (hp : P (ctxAt s r i)) :
    ∃ c, Ready i s c ∧ P c := ⟨_, ready h, hp⟩

theorem canDivide_of {s : State} {c : Ctx} {gs : List PGroup} (hp : 2 ≤ gs.length → c.p.pending = [])
    (h : (match divide s c gs with | some d => d.recs.all fun x => c.p.xfers.contains x.1 | none => false) = true) :
    CanDivide s c gs := by
  refine ⟨hp, ?_⟩
  split at h
  · rename_i d hd
    exact ⟨d, hd, fun x hx => List.contains_iff_mem.1 (List.all_eq_true.1 h x hx)⟩
  · cases h

theorem witness_ModeResults : ∀ i ∈ ([.nop (f3 0 0 0), .getsp (f3 2 0 0), .getsp (f3 2 0x13 0), .getsp (f3 2 0x20 0),
    .getsp (f3 2 0x2B 0), .getsp (f3 2 4 0)] : List Instr),
    ∃ c, Ready i full c ∧ decide (c.f.a.toNat ≤ 0x13 ∨ (0x20 ≤ c.f.a.toNat ∧ c.f.a.toNat ≤ 0x2B)) = true :=
  ready_all (r := r0) (by decide)
theorem witness_ModeResults_2 : ∃ c, Ready (.setmode ⟨0, 0, 0, 2, .l1 0x2800 0⟩) full c ∧ RmodeLegal (modeRule c) :=
  meet (r := r0) (by decide) (by unfold RmodeLegal; decide)
theorem witness_ModeResults_3 : ∃ c, Ready (.setsp (f3 0x10 2 0)) inHandler c ∧
    (c.f.d.toNat ≤ 0x13 ∨ (0x20 ≤ c.f.d.toNat ∧ c.f.d.toNat ≤ 0x2B)) ∧ (c.f.d = 0 → RmodeLegal c.spSrc) :=
  meet (r := rh) (by decide) (by unfold RmodeLegal; decide)
theorem witness_ModeResults_4 : ∃ c, Ready (.setmode ⟨0, 0, 0, 0, .l1 0x3000 0⟩) full c ∧ ¬ RmodeLegal (modeRule c) :=
  meet (r := r0) (by decide) (by unfold RmodeLegal; decide)
theorem witness_ModeResults_5 : ∃ c, Ready (.setsp (f3 0 2 0)) (withS [(2, 0x3800)] full) c ∧ c.f.d = 0 ∧ ¬ RmodeLegal c.spSrc :=
  meet (r := r0) (by decide) (by unfold RmodeLegal; decide)

theorem witness_PrivilegedWrites : ∃ c, Ready (.winstackWrite (f3 0x0A 2 0)) (withS [(2, 5)] inHandler) c ∧ c.t.deferred = [] ∧
    c.t.refills = [] ∧ c.spSrc % 2 ^ 16 ≠ 0 ∧ deepest c.t < c.spSrc % 2 ^ 16 := meet (r := rh) (by decide) (by decide)
theorem witness_PrivilegedWrites_2 : ∃ c, Ready (.windepthWrite (f3 9 2 0)) inHandler c ∧ c.spSrc < c.t.winstack.toNat % 2 ^ 16 ∧
    c.p.pending = [] ∧ ∀ j ∈ flushJobs c.p c.p.mask, j ∈ c.p.xfers := meet (r := rh) (by decide) (by decide)
theorem witness_PrivilegedWrites_3 : ∃ c, Ready (.rampsetWrite (f3 8 2 0)) (withS [(2, 0x0064190A)] inHandler) c ∧
    10 ≤ c.spSrc % 2 ^ 8 ∧ c.spSrc % 2 ^ 8 ≤ 200 ∧ 25 ≤ c.spSrc / 2 ^ 8 % 2 ^ 10 ∧ c.spSrc / 2 ^ 8 % 2 ^ 10 ≤ 1000 ∧
    25 ≤ c.spSrc / 2 ^ 18 % 2 ^ 10 ∧ c.spSrc / 2 ^ 18 % 2 ^ 10 ≤ c.spSrc / 2 ^ 8 % 2 ^ 10 := meet (r := rh) (by decide) (by decide)
theorem witness_PrivilegedWrites_4 : ∃ c, Ready (.sampctlWrite (f3 0x12 2 0)) (withS [(2, 17)] inHandler) c ∧
    8 ≤ c.spSrc / 2 % 2 ^ 5 ∧ c.spSrc / 2 % 2 ^ 5 ≤ 20 := meet (r := rh) (by decide) (by decide)
theorem witness_PrivilegedWrites_5 : ∃ c, Ready (.dbgctlWrite (f3 0x11 2 0)) (withS [(2, 0x88)] inHandler) c ∧
    c.spSrc / 2 ^ 4 % 2 ^ 4 ≤ 8 := meet (r := rh) (by decide) (by decide)

/-- A handler of an agent, beside a path that it has frozen, one that runs, and its own. -/
def agented (ctl : Word) : State := fixT (fun t => { t with
  dbgctl := ctl
  handler := t.handler.map fun h => { h with agent := true }
  paths := updAt (updAt t.paths 1 fun _ => some { newPath 9 0 2 with frozen := .halt }) 7 fun _ => some (newPath 10 0 4) }) inHandler
theorem witness_PrivilegedWrites_6 : ∀ x ∈ ([0, 1] : List Word), ∃ c, Ready (.dbgctlWrite (f3 0x11 2 0)) (withS [(2, x)] (agented 1)) c ∧
    c.spSrc / 2 ^ 4 % 2 ^ 4 ≤ 8 ∧ c.spSrc % 2 = x.toNat ∧ ∃ h, c.t.handler = some h ∧ h.agent = true ∧
      ∀ e ∈ [1, 7], e ≠ h.entry ∧ ∃ q, nth none c.t.paths e = some q := by
  intro x hx
  rcases (by simpa using hx : x = 0 ∨ x = 1) with rfl | rfl <;>
    refine meet (r := rh) (by decide) ⟨by decide, by decide, ⟨true, 0, false, 1, [some (newPath 9 0 1), none, none, none], List.replicate 16 none, 0, 0x0E, 0⟩, by decide, by decide, fun e he => ?_⟩ <;>
    (rcases (by simpa using he : e = 1 ∨ e = 7) with rfl | rfl <;> exact ⟨by decide, _, rfl⟩)

/-- A BRA on p1. -/
def braP1 : Instr := .bra ⟨0, 1, 0, 0, .l1 5 0⟩
theorem witness_BranchResults : ∃ c, Ready braP1 one c ∧ takenRule c = 0 := meet (r := r0) (by decide) (by decide)
theorem witness_BranchResults_2 : ∃ c, Ready braP1 (withPred 2 one) c ∧ takenRule c ≠ 0 ∧
    canonical (c.p.pc + 4 * dispOf c.f) = true ∧ takenRule c = c.p.mask := meet (r := r0) (by decide) (by decide)
theorem witness_BranchResults_3 : ∃ c, Ready braP1 (withPred 2 full) c ∧ takenRule c ≠ 0 ∧
    canonical (c.p.pc + 4 * dispOf c.f) = true ∧ takenRule c ≠ c.p.mask ∧ c.p.pc + 4 * dispOf c.f ≠ c.nextPc ∧
    c.p.pending = [] ∧ freeEntries c.t c.r.handler = 1 :: [2, 3, 4, 5, 6, 7] := meet (r := r0) (by decide) (by decide +kernel)
theorem witness_BranchResults_4 : ∃ c, Ready braP1 (withPred 2 full) c ∧ CanDivide (withPred 2 full) c (braGroups c) :=
  meet (r := r0) (by decide) (canDivide_of (by decide +kernel) (by decide +kernel))
theorem witness_BranchResults_5 : ∃ c, Ready braP1 (fixP (fun p => { p with pc := 0x007FFFFFFFFFFFEC }) (withPred 2 one)) c ∧
    takenRule c ≠ 0 ∧ canonical (c.p.pc + 4 * dispOf c.f) = false := meet (r := r0) (by decide) (by decide)

theorem witness_BranchResults_6 : ∃ c, Ready (.bra ⟨0, 1, 0, 0, .l1 2 0⟩) (withPred 2 full) c ∧ takenRule c ≠ 0 ∧
    takenRule c ≠ c.p.mask ∧ c.p.pc + 4 * dispOf c.f = c.nextPc ∧ canonical (c.p.pc + 4 * dispOf c.f) = true :=
  meet (r := r0) (by decide) (by decide +kernel)

theorem witness_TransferResults : ∃ c, Ready (.brx (f3 0 2 0)) (withV [(2, 8)] one) c ∧
    (∀ l ∈ c.act.toList, TargetOk (c.regTarget l)) ∧ CanDivide (withV [(2, 8)] one) c (brxGroups c) :=
  meet (r := r0) (by decide) ⟨by unfold TargetOk; decide, canDivide_of (by decide) (by decide)⟩
/-- Four frames; and a path that keeps three callers resident. -/
def framed : State := fixT (fun t => { t with winstack := 4 }) one
def deep : State := fixP (fun p => { p with wbase := mkWbase 3 3, xfers := [.spill 0 1] }) (fixT (fun t => { t with winstack := 5 }) one)
def callF : Fields := ⟨0, 0, 0, 0, .l1 16 0⟩
theorem witness_TransferResults_2 : ∃ c, Ready (.call callF) framed c ∧ c.p.pending = [] ∧ c.act ≠ 0 ∧
    (∀ l ∈ c.act.toList, TargetOk (callTarget c false l)) ∧ c.p.wbase.toNat % 2 ^ 16 + 1 < c.t.winstack.toNat % 2 ^ 16 ∧
    (∀ j ∈ callJobs c (callGroups c false), j ∈ c.p.xfers) ∧ CanDivide framed c (callGroups c false) :=
  meet (r := r0) (by decide) ⟨by decide, by decide, by unfold TargetOk; decide, by decide, by decide,
    canDivide_of (by decide) (by decide)⟩
theorem witness_TransferResults_3 : ∃ c, Ready (.callx (f3 0 2 0)) (fixP (fun p => { p with mode := 1 }) framed) c ∧
    c.p.pending = [] ∧ c.act = 0 := meet (r := r0) (by decide) (by decide)
theorem witness_TransferResults_4 : ∃ c, Ready (.call callF) deep c ∧ c.p.pending = [] ∧ c.act = c.p.mask ∧ c.act ≠ 0 ∧
    (∀ l ∈ c.act.toList, callTarget c false l = 64) ∧ TargetOk 64 ∧ depthOf c.p + 1 < framesOf c.t ∧ resOf c.p = 3 ∧
    .spill (depthOf c.p - 3) c.p.mask ∈ c.p.xfers := meet (r := r0) (by decide) (by unfold TargetOk; decide)
/-- A path one frame deep. -/
def called : State := fixP (fun p => { p with wbase := mkWbase 1 1 }) framed
theorem witness_TransferResults_5 : ∃ c, Ready (.ret (f3 0 0 0)) called c ∧ c.p.pending = [] ∧ c.act ≠ 0 ∧
    c.p.wbase.toNat % 2 ^ 16 ≠ 0 ∧ (∀ l ∈ c.act.toList, TargetOk (c.linkOf l)) ∧ (∀ j ∈ retJobs c, j ∈ c.p.xfers) ∧
    CanDivide called c (retGroups c) :=
  meet (r := r0) (by decide) ⟨by decide, by decide, by decide, by unfold TargetOk; decide, by decide,
    canDivide_of (by decide) (by decide)⟩
theorem witness_TransferResults_6 : ∃ c, Ready (.ret (f3 0 0 0)) (fixP (fun p => { p with mode := 1 }) called) c ∧ c.p.pending = [] ∧
    c.act = 0 := meet (r := r0) (by decide) (by decide)
/-- A path whose caller's frame has been filled. -/
def filled : State := fixP (fun p => { p with wbase := mkWbase 2 0, xfers := [.fill 1 1] }) framed
theorem witness_TransferResults_7 : ∃ c, Ready (.ret (f3 0 0 0)) filled c ∧ c.p.pending = [] ∧ c.act = c.p.mask ∧ c.act ≠ 0 ∧
    depthOf c.p ≠ 0 ∧ (∀ l ∈ c.act.toList, c.linkOf l = 0) ∧ TargetOk 0 ∧ resOf c.p = 0 ∧
    .fill (depthOf c.p - 1) c.p.mask ∈ c.p.xfers := meet (r := r0) (by decide) (by unfold TargetOk; decide)

theorem witness_WaitResults : ∃ c, Ready (.jset ⟨0, 0, 0, 15, .l1 4 0⟩) one c ∧ canonical (c.p.pc + 4 * dispOf c.f) = true :=
  meet (r := r0) (by decide) (by decide)
theorem witness_WaitResults_2 : ∃ c, Ready (.jwait ⟨0, 0, 0, 3, .s⟩) one c ∧ c.p.jids.getLsbD c.f.x.toNat = false :=
  meet (r := r0) (by decide) (by decide)
theorem witness_WaitResults_3 : ∃ c, Ready (.jwait ⟨0, 0, 0, 3, .s⟩) (fixP (fun p => { p with jids := 8 }) one) c ∧
    c.p.jids.getLsbD c.f.x.toNat = true ∧ c.p.pending = [] ∧ jwaitPeer c.t c.r.handler c.r.entry c.f.x.toNat = none :=
  meet (r := r0) (by decide) (by decide)
theorem witness_WaitResults_4 : ∀ i ∈ ([.waitl (f3 0 0 0), .wflush (f3 0 0 0)] : List Instr), ∃ c, Ready i one c ∧
    (c.p.pending.isEmpty && (flushJobs c.p c.p.mask).all fun j => c.p.xfers.contains j) = true := ready_all (r := r0) (by decide)

/-- A path whose s2:s3 names an object at 0x8000 whose WANT is given. -/
def objAt (want : Byte) : State := withMem 0x8008 [want] (paged (withS [(2, 0x8000)] one))
theorem witness_WaitResults_5 : ∃ c, Ready (.yield (f3 0 2 0)) (objAt 0) c ∧ c.p.pending = [] ∧
    ObjectAt (objAt 0) c (BitVec.ofNat 64 (c.s c.f.a true)) 0x8000 ∧ canonical c.nextPc = true ∧ Satisfied (objAt 0) 0x8000 :=
  meet (r := r0) (by decide) (by unfold ObjectAt Clean Satisfied; decide)
theorem witness_WaitResults_6 : ∃ c, Ready (.yield (f3 0 2 0)) (objAt 1) c ∧ c.p.pending = [] ∧ canonical c.nextPc = true ∧
    ObjectAt (objAt 1) c (BitVec.ofNat 64 (c.s c.f.a true)) 0x8000 ∧ ¬ Satisfied (objAt 1) 0x8000 :=
  meet (r := r0) (by decide) (by unfold ObjectAt Clean Satisfied; decide)

/-- Two carriers of id 3: the other is parked at its JWAIT, or runs. -/
def carriers (o : Path) (s : State) : State := fixT (fun t => { t with paths := updAt t.paths 1 fun _ => some o })
  (fixP (fun p => { p with jids := 8 }) s)
def atId : Path := { newPath 9 0 2 with jids := 8, pstate := .parked, wake := some (.jwait 3), stall := 0x10 }
theorem witness_WaitResults_7 : ∃ c, Ready (.jwait ⟨0, 0, 0, 3, .s⟩) (carriers { newPath 9 0 2 with jids := 8 } one) c ∧
    c.p.jids.getLsbD c.f.x.toNat = true ∧ c.p.pending = [] ∧ CarriedElsewhere c 3 c.r.entry ∧
    ∀ x ∈ (livePaths (pathsOf c.t c.r.handler)).filter fun x => x.1 != c.r.entry, ¬ ParkedAtId c.f.x.toNat x.2 :=
  meet (r := r0) (by decide) ⟨by decide, by decide, .inl ⟨1, { newPath 9 0 2 with jids := 8 }, by decide, by decide, by decide, by decide⟩, by unfold ParkedAtId; decide⟩
theorem witness_WaitResults_8 : ∃ c, Ready (.jwait ⟨0, 0, 0, 3, .s⟩) (carriers atId one) c ∧
    c.p.jids.getLsbD c.f.x.toNat = true ∧ c.p.pending = [] ∧ ¬ CarriedElsewhere c 3 1 ∧ ∃ e q,
      (e, q) ∈ (livePaths (pathsOf c.t c.r.handler)).filter (fun x => x.1 != c.r.entry) ∧ ParkedAtId c.f.x.toNat q ∧
      (∀ x ∈ (livePaths (pathsOf c.t c.r.handler)).filter (fun x => x.1 != c.r.entry), ParkedAtId c.f.x.toNat x.2 → x = (e, q)) ∧
      (∀ k ∈ mergeJobs c.p q, k ∈ c.p.xfers) ∧ c.p.mask.lowest.getD 96 < q.mask.lowest.getD 96 := by
  refine meet (r := r0) (by decide) ⟨by decide, by decide, ?_, 1, atId, by decide, by unfold ParkedAtId; decide, by unfold ParkedAtId; decide, by decide, by decide⟩
  rintro (⟨i, q, h, h1, h2, h3⟩ | ⟨-, ⟨d, h, -⟩ | ⟨d, h, -⟩⟩)
  · rw [show livePaths (pathsOf (ctxAt (carriers atId one) r0 (.jwait ⟨0, 0, 0, 3, .s⟩)).t
        (ctxAt (carriers atId one) r0 (.jwait ⟨0, 0, 0, 3, .s⟩)).r.handler) =
      [(0, (ctxAt (carriers atId one) r0 (.jwait ⟨0, 0, 0, 3, .s⟩)).p), (1, atId)] from by decide] at h
    rcases (by simpa using h : (i = 0 ∧ _) ∨ (i = 1 ∧ _)) with ⟨rfl, -⟩ | ⟨rfl, -⟩
    · exact h1 (by decide)
    · exact h2 rfl
  · exact absurd h (by decide +revert)
  · exact absurd h (by decide +revert)

theorem witness_RetireResults : ∀ i ∈ ([.exit ⟨0, 0, 0, 0, .l1 7 0⟩, .tail ⟨0, 0, 0, 0, .l1 7 0⟩] : List Instr), ∃ c,
    Ready i (fixP (fun p => { p with mode := 1 }) (withPred 2 full)) c ∧
    (c.p.pending.isEmpty && !c.r.handler && c.p.mask.diff c.act != 0 && c.act != 0) = true := ready_all (r := r0) (by decide +kernel)

theorem witness_TrapInstructionResults : one.sel = some r0 ∧ ∃ p, pathAt one r0 = some p ∧ issuable p = true :=
  ⟨by decide, (pathAt one r0).get (by decide), by simp, by decide⟩
theorem witness_TrapInstructionResults_2 : ∃ c, Ready (.trap ⟨0, 0, 0, 0, .l1 7 0⟩) one c ∧ c.act ≠ 0 :=
  meet (r := r0) (by decide) (by decide)
theorem witness_TrapInstructionResults_3 : ∃ c, Ready (.trap ⟨0, 0, 0, 0, .l1 7 0⟩) (fixP (fun p => { p with mode := 1 }) one) c ∧
    c.act = 0 := meet (r := r0) (by decide) (by decide)
theorem witness_TrapInstructionResults_4 : ∃ c, Ready (.brk ⟨0, 0, 0, 15, .s⟩) one c ∧ True := meet (r := r0) (by decide) trivial
theorem witness_TrapInstructionResults_5 : ∃ c, Ready (.eret (f3 0 0 0)) inHandler c ∧ ∃ h, c.t.handler = some h ∧
    c.p.pending = [] ∧ (livePaths h.paths).length = 1 ∧ c.p.mask = h.hmask ∧ TargetOk c.t.trapPc :=
  meet (r := rh) (by decide) ⟨⟨false, 0, false, 1, [some (newPath 9 0 1), none, none, none], List.replicate 16 none, 0, 0x0E, 0⟩,
    by unfold TargetOk; decide⟩
theorem witness_TrapInstructionResults_6 : ∃ c, Ready (.eret (f3 0 0 0)) (modPath inHandler rh fun p => { p with mask := 2 }) c ∧
    ∃ h, c.t.handler = some h ∧ c.p.pending = [] ∧ c.p.mask ≠ h.hmask :=
  meet (r := rh) (by decide) ⟨⟨false, 0, false, 1, [some (newPath 9 0 2), none, none, none], List.replicate 16 none, 0, 0x0E, 0⟩,
    by decide⟩
theorem witness_TrapInstructionResults_7 : (∃ c, Ready (.region (⟨63, 63, 31, 0, .w Ext0.zero 7⟩)) one c ∧ c.r.handler = false) ∧
    ∃ c, Ready (.region (⟨63, 63, 31, 0, .w Ext0.zero 7⟩)) inHandler c ∧ c.r.handler = true :=
  ⟨meet (r := r0) (by decide) (by decide), meet (r := rh) (by decide) (by decide)⟩

/-! ### Combining and tables, loads and stores -/

theorem witness_CombiningResults : ∀ i ∈ ([.reduce ⟨1, 2, 0, 0, .s⟩, .reduce ⟨1, 2, 0, 5, ofSub 1⟩, .scan ⟨1, 2, 0, 2, .s⟩,
    .scan ⟨1, 2, 0, 1, ofSub 1⟩] : List Instr), ∃ c, Ready i full c ∧ decide (c.f.x.toNat < 6) = true :=
  ready_all (r := r0) (by decide)
/-- Lanes 0 and 1 with +infinity and -infinity, and invalid enabled or not. -/
def infs (mode : Word) : State := fixP (fun p => { p with mask := 3, mode := mode }) (fixT (fun t => { t with
  lanes := t.lanes.mapIdx fun i ln => { ln with v := updAt ln.v 2 fun _ => if i = 0 then 0x7F800000 else 0xFF800000 } }) full)
theorem witness_CombiningResults_2 : ∃ c, Ready (.reduce ⟨1, 2, 0, 6, ofTy 9⟩) (infs 0) c ∧ (c.prefixes [96]).2.1 = 0 :=
  meet (r := r0) (by decide) (by decide +kernel)
theorem witness_CombiningResults_3 : ∃ c, Ready (.reduce ⟨1, 2, 0, 6, ofTy 9⟩) (infs 0x10000) c ∧ (c.prefixes [96]).2.1 ≠ 0 :=
  meet (r := r0) (by decide) (by decide +kernel)
theorem witness_CombiningResults_4 : ∃ c, Ready (.scan ⟨1, 2, 0, 6, ofTy 9⟩) (infs 0x10000) c ∧
    (c.prefixes (c.act.toList.map fun l => l + 1)).2.1 ≠ 0 := meet (r := r0) (by decide) (by decide +kernel)

theorem witness_TableResults : ∃ c, Ready (.ftab ⟨1, 2, 0, 0, ofTy 9⟩) one c ∧
    (nth ActBank.reset (coreAt one c.r.core).actBanks (coreAt one c.r.core).actCur).valid = false ∧ NoEnabled c fun _ => excInv :=
  meet (r := r0) (by decide) ⟨by decide, noEnabled (by decide)⟩
theorem witness_TableResults_2 : ∃ c, Ready (.ftab ⟨1, 2, 0, 0, ofTy 9⟩) (tabled 3 one) c ∧
    (nth ActBank.reset (coreAt (tabled 3 one) c.r.core).actBanks (coreAt (tabled 3 one) c.r.core).actCur).valid = true ∧
    (nth ActBank.reset (coreAt (tabled 3 one) c.r.core).actBanks (coreAt (tabled 3 one) c.r.core).actCur).asid ≠ c.t.asid ∧ c.act ≠ 0 :=
  meet (r := r0) (by decide) (by decide)
/-- A path with no atomic under way, nor any bytes that one acts on. -/
theorem noAtomic_of {s : State} {c : Ctx} (h : (coreAt s c.r.core).txns = []) : NoAtomic s c := by simp [NoAtomic, h]
theorem atomsApart_of {s : State} {c : Ctx} {keys : List (Nat × Nat)} (h : (coreAt s c.r.core).txns = []) : AtomsApart s c keys := by
  rintro cl q - txn a m - ⟨x, hx, -⟩
  simp [h] at hx
theorem witness_TableResults_3 : ∃ c, Ready (.tabld (f3 0 2 0)) (withS [(2, 16)] one) c ∧
    tabldFlying (withS [(2, 16)] one) c.r.core = false ∧ ftabBusy (coreAt (withS [(2, 16)] one) c.r.core) = false ∧
    NoAcquire (withS [(2, 16)] one) c ∧ NoAtomic (withS [(2, 16)] one) c ∧ c.tabAddr.toNat % 32 ≠ 0 ∧ 6 ≤ entriesFree (withS [(2, 16)] one) c.r ∧
    ∀ x ∈ tabWords (withS [(2, 16)] one) c, x.peer = false :=
  meet (r := r0) (by decide) (by unfold NoAcquire NoAtomic; decide +kernel)
/-- An image at 0x8000 with LO 0, HI 1 and INV 1. -/
def imaged : State := withMem 0x8000 (leBytes 4 0 ++ leBytes 4 0x3F800000 ++ leBytes 4 0x3F800000)
  (paged (fixK (fun k => { k with tlb := [⟨0, 0, 30, 0x1F⟩] }) (withS [(2, 0x8000)] one)))
/-- A state whose memory has no error. -/
theorem clean_of {s : State} {k n : Nat} (hp : s.poison = []) (hl : s.latent = []) (hc : s.l1 = []) : Clean s k n := by
  simp [Clean, hp, hl, hc]
/-- A state in which no write can still be missed. -/
theorem unmoved_of {s : State} {k n : Nat} (h : s.past = []) : Unmoved s k n := by simp [Unmoved, h]
/-- A state with nothing outstanding that a release waits for. -/
theorem released_of {s : State} {c : Ctx} (h1 : (coreAt s c.r.core).txns = []) (h2 : (coreAt s c.r.core).wc = [])
    (h3 : s.outWrites = []) : Released s c := by simp [Released, ReadsDone, EarlierDone, h1, h2, h3]
theorem witness_TableResults_4 : ∃ c, Ready (.tabld (f3 0 2 0)) imaged c ∧ tabldFlying imaged c.r.core = false ∧
    ftabBusy (coreAt imaged c.r.core) = false ∧ NoAcquire imaged c ∧ NoAtomic imaged c ∧ c.tabAddr.toNat % 32 = 0 ∧ 5 ≤ entriesFree imaged c.r ∧
    ∃ keys : List Nat, (tabWords imaged c).map (·.out) = keys.map LaneOut.ok ∧ (∀ k ∈ keys, Clean imaged k 4 ∧ Unmoved imaged k 4) ∧
      ImageOk fun i => memLe imaged.mem (nth 0 keys i) 4 :=
  meet (r := r0) (by decide) ⟨by decide, by decide, by unfold NoAcquire; decide, noAtomic_of rfl, by decide, by decide, (List.range 264).map fun i => 0x8000 + 4 * i,
    by decide +kernel, fun _ _ => ⟨clean_of rfl rfl rfl, unmoved_of rfl⟩, by unfold ImageOk; decide +kernel⟩

/-- A lane that reads zero, or bytes at an aligned key; a lane with a key. -/
def readsB (n : Nat) (x : LaneAcc) : Bool := match x.out with | .zero => true | .ok k => k % n == 0 | _ => false
def keyB (x : LaneAcc) : Bool := match x.out with | .ok _ => true | _ => false

/-- A load that meets every hypothesis of LoadResults. -/
def loadB (i : Instr) (s : State) : Bool :=
  let c := ctxAt s r0 i
  readyB i s r0 && (coreAt s c.r.core).txns.isEmpty && s.poison.isEmpty && s.latent.isEmpty && s.l1.isEmpty && s.past.isEmpty &&
  match loadRule i s c with
  | some (l, n, g, _) => (match g with | some g => (routeLines s c.r.core g).isEmpty | none => true) && l.all (readsB n) && decide (needOf false l ≤ entriesFree s c.r)
  | none => false
theorem meetsLoad {i : Instr} {s : State} (h : loadB i s = true) : ∃ c l n g sx, loadRule i s c = some (l, n, g, sx) ∧
    Ready i s c ∧ NoAcquire s c ∧ AtomsApart s c (localKeys n l) ∧ s.latent = [] ∧
    (∀ x ∈ l, x.out = .zero ∨ x.out = .idle ∨ LaneReads s n x) ∧ ReadsNow s c g l n ∧ needOf false l ≤ entriesFree s c.r := by
  simp only [loadB, Bool.and_eq_true, List.isEmpty_iff] at h
  obtain ⟨⟨⟨⟨⟨⟨h1, h2⟩, h3⟩, h4⟩, hc⟩, hq⟩, h5⟩ := h
  split at h5
  · rename_i l n g sx he
    simp only [Bool.and_eq_true, decide_eq_true_eq] at h5
    refine ⟨_, l, n, g, sx, he, ready h1, by simp [NoAcquire, h2], atomsApart_of h2, h4, fun x hx => ?_, ?_, h5.2⟩
    · have hx := List.all_eq_true.1 h5.1.2 x hx
      unfold readsB at hx
      split at hx
      · exact .inl ‹_›
      · exact .inr (.inr ⟨_, ‹_›, by simpa using hx, clean_of h3 h4 hc⟩)
      · cases hx
    · cases g with
      | none => exact fun _ _ _ _ => unmoved_of hq
      | some g => intro x hx; simp [List.isEmpty_iff.1 h5.1.1] at hx
  · cases h5

/-- Lane 0 with the address 0x8000 in v2:v3 and the tile's first element in v5, scalars with the address and a tile of 4 by 4;
and a shard table with one tensor of 4 elements. -/
def data : State := withMem (ctlBase + 0xF01000) (leBytes 8 0x20000 ++ leBytes 2 1)
  (withMem 0x20000 ([1, 2] ++ leBytes 2 1 ++ leBytes 4 4 ++ leBytes 4 1 ++ leBytes 4 1 ++ leBytes 4 1 ++ leBytes 4 1 ++
      leBytes 2 1 ++ leBytes 2 1 ++ leBytes 2 1 ++ leBytes 2 1 ++ leBytes 2 1 ++ leBytes 6 0 ++ leBytes 8 0x21000 ++ leBytes 4 1)
    (withMem 0x21000 (leBytes 8 0x8000 ++ leBytes 4 0 ++ leBytes 4 1)
      (paged (withS [(2, 0x8000), (4, 64), (6, 0x00040004)] (withV [(1, 0xAABBCCDD), (2, 0x8000), (5, 1)] one)))))
theorem witness_LoadResults : ∃ c l n g sx, loadRule (.ld .w128 ⟨4, 2, 48, 15, .s⟩) data c = some (l, n, g, sx) ∧
    Ready (.ld .w128 ⟨4, 2, 48, 15, .s⟩) data c ∧ NoAcquire data c ∧ AtomsApart data c (localKeys n l) ∧ data.latent = [] ∧
    (∀ x ∈ l, x.out = .zero ∨ x.out = .idle ∨ LaneReads data n x) ∧ ReadsNow data c g l n ∧
    needOf false l ≤ entriesFree data c.r := meetsLoad (by decide)
theorem witness_LoadResults_2 : loadB (.ldc .w8 ⟨1, 2, 48, 0, ofSub 32⟩) data = true ∧ loadB (.ldl .w32 ⟨1, 2, 5, 0,
    .l0 { Ext0.zero with c := 4 }⟩) data = true ∧ loadB (.ldt .w32 ⟨1, 5, 10, 0, .s⟩) data = true := by decide

/-- An LDI image of two FP32 entries at 0x8000. -/
def interp : State := withMem 0x8000 (leBytes 4 2 ++ leBytes 4 0 ++ leBytes 4 0x3F800000) data
theorem witness_LoadResults_3 : ∃ c, Ready (.ldi .w32 ⟨1, 2, 5, 0, .s⟩) interp c ∧
    interp.latent = [] ∧ RouteFresh interp c.r.core .sampler ∧ (∀ x ∈ ldiLanes .w32 interp c, x.bad = none ∧ LaneReads interp 16 x.acc ∧
      ∀ o ∈ x.keys, ∀ k, o = some k → k % 4 = 0 ∧ Clean interp k 4) ∧
    lineCount ((ldiLanes .w32 interp c).flatMap LdiLane.lines) ≤ entriesFree interp c.r := by
  refine meet (r := r0) (by decide) ⟨rfl, fun x hx => absurd hx (by decide +revert), ?_, by decide⟩
  have h : ((ldiLanes .w32 interp (ctxAt interp r0 (.ldi .w32 ⟨1, 2, 5, 0, .s⟩))).all fun x => x.bad.isNone &&
    (match x.acc.out with | .ok k => k % 16 == 0 | _ => false) && x.keys.all fun o => o.all fun k => k % 4 == 0) = true := by decide
  intro x hx
  have hx := List.all_eq_true.1 h x hx
  simp only [Bool.and_eq_true, Option.isNone_iff_eq_none] at hx
  refine ⟨hx.1.1, ?_, fun o ho k hk => ⟨?_, clean_of rfl rfl rfl⟩⟩
  · have h2 := hx.1.2
    split at h2
    · exact ⟨_, ‹_›, by simpa using h2, clean_of rfl rfl rfl⟩
    · cases h2
  · have := List.all_eq_true.1 hx.2 o ho
    subst hk
    simpa using this

/-- A cluster with an allocation of 4 KiB for the seated crew. -/
def alloted : State := fixC (fun k => { k with allocs := [⟨⟨0, 0⟩, 0, 4096⟩] }) (withV [(2, 4080)] one)
theorem witness_ScratchpadResults : ∃ c, Ready (.lds .w128 ⟨4, 2, 48, 0, .s⟩) alloted c ∧ NoAcquire alloted c ∧
    (coreAt alloted c.r.core).banksTo ≤ (clusterAt alloted (c.r.core / 6)).cycle.toNat ∧ alloted.past = [] ∧
    (∀ keys, AtomsApart alloted c keys) ∧ ∀ l ∈ c.act.toList, c.scrOff 16 l (c.lane l) % 16 = 0 ∧
      c.scrOff 16 l (c.lane l) + 16 ≤ (allocOf alloted (c.r.core / 6) c.t.crew).2 ∧
      chunkAt alloted (c.r.core / 6) c.t.crew (c.scrOff 16 l (c.lane l)) = none :=
  meet (r := r0) (by decide) ⟨by unfold NoAcquire; decide, by decide, rfl, fun _ => atomsApart_of rfl, by decide⟩
theorem witness_ScratchpadResults_2 : ∃ c, Ready (.sts .w32 ⟨4, 2, 48, 0, .s⟩) alloted c ∧ NoAcquire alloted c ∧
    Released alloted c ∧ c.r.core / 6 < alloted.clusters.length ∧
    (coreAt alloted c.r.core).banksTo ≤ (clusterAt alloted (c.r.core / 6)).cycle.toNat ∧
    ∀ l ∈ c.act.toList, c.scrOff 4 l (c.lane l) % 4 = 0 ∧
      c.scrOff 4 l (c.lane l) + 4 ≤ (allocOf alloted (c.r.core / 6) c.t.crew).2 ∧
      chunkAt alloted (c.r.core / 6) c.t.crew (c.scrOff 4 l (c.lane l)) = none :=
  meet (r := r0) (by decide) ⟨by unfold NoAcquire; decide, released_of rfl rfl rfl, by decide⟩

/-- A store that meets every hypothesis of StoreResults. -/
def storeB (i : Instr) (s : State) : Bool :=
  let c := ctxAt s r0 i
  readyB i s r0 && cellsWf s.mem && (coreAt s c.r.core).txns.isEmpty && s.latent.isEmpty && (coreAt s c.r.core).wc.isEmpty &&
  s.outWrites.isEmpty && match storeRule i s c with
  | some (l, _) => l.all keyB && !c.r.handler && decide (needOf true l ≤ entriesFree s c.r)
  | none => false
theorem meetsStore {i : Instr} {s : State} (h : storeB i s = true) : ∃ c l n, storeRule i s c = some (l, n) ∧ Ready i s c ∧
    Memory.wf s.mem ∧ NoAcquire s c ∧ Released s c ∧ s.latent = [] ∧ (∀ x ∈ l, x.out = .zero ∨ ∃ k, x.out = .ok k) ∧
    c.r.handler = false ∧ needOf true l ≤ entriesFree s c.r := by
  simp only [storeB, Bool.and_eq_true, List.isEmpty_iff] at h
  obtain ⟨⟨⟨⟨⟨⟨h1, h2⟩, h3⟩, h4⟩, h5⟩, h6⟩, h7⟩ := h
  split at h7
  · rename_i l n he
    simp only [Bool.and_eq_true, decide_eq_true_eq] at h7
    refine ⟨_, l, n, he, ready h1, h2, by simp [NoAcquire, h3], released_of h3 h5 h6, h4, fun x hx => ?_, ?_, h7.2⟩
    · have hx := List.all_eq_true.1 h7.1.1 x hx
      unfold keyB at hx
      split at hx
      · exact .inr ⟨_, ‹_›⟩
      · cases hx
    · simpa using h7.1.2
  · cases h7
theorem witness_StoreResults : ∃ c l n, storeRule (.st .w16 ⟨1, 2, 48, 0, .s⟩) data c = some (l, n) ∧
    Ready (.st .w16 ⟨1, 2, 48, 0, .s⟩) data c ∧ Memory.wf data.mem ∧ NoAcquire data c ∧ Released data c ∧
    data.latent = [] ∧ (∀ x ∈ l, x.out = .zero ∨ ∃ k, x.out = .ok k) ∧ c.r.handler = false ∧ needOf true l ≤ entriesFree data c.r :=
  meetsStore (by decide)
theorem witness_StoreResults_2 : storeB (.stt .w32 ⟨1, 5, 10, 0, .s⟩) data = true ∧
    storeB (.st .w64 ⟨2, 2, 48, 0, .l0 { Ext0.zero with od := 3, sc := 3 }⟩) data = true := by decide

theorem witness_AccessTraps : ∃ c, Ready (.ld .w32 ⟨1, 2, 48, 0, .l1 2 0⟩) data c ∧ NoAcquire data c ∧ NoAtomic data c ∧
    memLanes data c .read 4 (c.ea 4) = [⟨0, 0x8002, .trap 0x05⟩] ∧ needOf false (memLanes data c .read 4 (c.ea 4)) ≤ entriesFree data c.r :=
  meet (r := r0) (by decide) ⟨by unfold NoAcquire; decide, noAtomic_of rfl, by decide⟩
theorem witness_AccessTraps_2 : ∃ c, Ready (.st .w32 ⟨1, 2, 48, 0, .s⟩) (withV [(2, 0x80000000)] data) c ∧
    NoAcquire (withV [(2, 0x80000000)] data) c ∧ Released (withV [(2, 0x80000000)] data) c ∧
    needOf true (memLanes (withV [(2, 0x80000000)] data) c .write 4 (c.ea 4)) ≤ entriesFree (withV [(2, 0x80000000)] data) c.r ∧
    memLanes (withV [(2, 0x80000000)] data) c .write 4 (c.ea 4) = [⟨0, 0x80000000, .trap 0x09⟩] :=
  meet (r := r0) (by decide) ⟨by unfold NoAcquire; decide, released_of rfl rfl rfl, by decide, by decide⟩

/-! ### Atomics, WAITADDR, fences and caches, the stash, barriers -/

/-- An atomic that meets every hypothesis of AtomicIssue. -/
def atomB (i : Instr) (s : State) : Bool :=
  let c := ctxAt s r0 i
  readyB i s r0 && (coreAt s c.r.core).txns.isEmpty && (coreAt s c.r.core).wc.isEmpty && s.outWrites.isEmpty &&
  s.latent.isEmpty && decide ((coreAt s c.r.core).banksTo ≤ (clusterAt s (c.r.core / 6)).cycle.toNat) &&
  match atomRule i c with
  | some (n, disp, _, _, _) =>
    !c.r.handler && (atomLanes s c n disp).all (fun x => match x.out with
      | .ok k => decide ((atomHome s c k).1 < s.clusters.length) | _ => false) &&
    (c.sp? || decide (needOf false (atomLanes s c n disp) ≤ entriesFree s c.r))
  | none => false
theorem meetsAtom {i : Instr} {s : State} (h : atomB i s = true) : ∃ c n disp noReply dests req,
    atomRule i c = some (n, disp, noReply, dests, req) ∧ Ready i s c ∧ NoAcquire s c ∧ Released s c ∧
    s.latent = [] ∧ (c.sp? = true → (coreAt s c.r.core).banksTo ≤ (clusterAt s (c.r.core / 6)).cycle.toNat) ∧
    (c.r.handler = true → c.sp? = false → ∀ x ∈ atomLanes s c n disp, slotHeld s c x.ea n = false) ∧
    (∀ x ∈ atomLanes s c n disp, ∃ k, x.out = .ok k ∧ (atomHome s c k).1 < s.clusters.length) ∧
    (c.sp? = true ∨ needOf false (atomLanes s c n disp) ≤ entriesFree s c.r) := by
  simp only [atomB, Bool.and_eq_true, List.isEmpty_iff] at h
  obtain ⟨⟨⟨⟨⟨⟨h1, h2⟩, h3⟩, h4⟩, hl⟩, hb⟩, h5⟩ := h
  split at h5
  · rename_i n disp noReply dests req he
    simp only [Bool.and_eq_true, Bool.or_eq_true, decide_eq_true_eq] at h5
    refine ⟨_, n, disp, noReply, dests, req, he, ready h1, by simp [NoAcquire, h2], released_of h2 h3 h4, hl,
      fun _ => of_decide_eq_true hb, fun h => absurd h5.1.1 (by simp [h]), fun x hx => ?_, h5.2⟩
    have hx := List.all_eq_true.1 h5.1.2 x hx
    split at hx
    · exact ⟨_, ‹_›, by simpa using hx⟩
    · cases hx
  · cases h5
theorem witness_AtomicIssue : ∃ c n disp noReply dests req, atomRule (.atom ⟨1, 2, 5, 0, .s⟩) c = some (n, disp, noReply, dests, req) ∧
    Ready (.atom ⟨1, 2, 5, 0, .s⟩) data c ∧ NoAcquire data c ∧ Released data c ∧
    data.latent = [] ∧ (c.sp? = true → (coreAt data c.r.core).banksTo ≤ (clusterAt data (c.r.core / 6)).cycle.toNat) ∧
    (c.r.handler = true → c.sp? = false → ∀ x ∈ atomLanes data c n disp, slotHeld data c x.ea n = false) ∧
    (∀ x ∈ atomLanes data c n disp, ∃ k, x.out = .ok k ∧ (atomHome data c k).1 < data.clusters.length) ∧
    (c.sp? = true ∨ needOf false (atomLanes data c n disp) ≤ entriesFree data c.r) := meetsAtom (by decide)
theorem witness_AtomicIssue_2 : atomB (.red ⟨0, 2, 5, 0, .s⟩) data = true ∧ atomB (.cas ⟨1, 2, 5, 0, .s⟩) data = true ∧
    atomB (.fxadd ⟨1, 2, 4, 0, ofTy 15⟩) data = true ∧ atomB (.fxadd ⟨0, 2, 5, 0,
      .l0 { Ext0.zero with tov := true, ty := 9, sub := 4 }⟩) data = true ∧
    atomB (.atom ⟨1, 2, 5, 0, ofSub 2⟩) alloted = true := by decide

/-- A handler's path of lane 0 with an address of no window stack. -/
def handling : State := paged (withV [(1, 7), (2, 0x8000), (5, 1)] inHandler)
theorem witness_StoreResults_3 : ∃ c, Ready (.st .w16 ⟨1, 2, 48, 0, .s⟩) handling c ∧ c.r.handler = true ∧
    ∀ x ∈ memLanes handling c .write 2 (c.ea 2), slotHeld handling c x.ea 2 = false := meet (r := rh) (by decide) (by decide)
theorem witness_AtomicIssue_3 : ∃ c, Ready (.atom ⟨1, 2, 5, 0, .s⟩) handling c ∧ c.r.handler = true ∧ c.sp? = false ∧
    ∀ x ∈ atomLanes handling c 4 true, slotHeld handling c x.ea 4 = false := meet (r := rh) (by decide) (by decide)

/-- A request at the owner of its word. -/
def asked (q : SvcReq) : State := modCluster (paged one) 5 fun k => { k with svc := [q] }
theorem firstOfLine {s : State} {q : SvcReq} (h1 : (clusterAt s 5).svc[0]? = some q)
    (h2 : (s.clusters.all fun k => k.svc.all fun x => !earlierLane x q) = true) : FirstOfLine s 5 0 q :=
  ⟨h1, fun j hj => by omega, fun k hk x hx => by simpa using List.all_eq_true.1 (List.all_eq_true.1 h2 k hk) x hx⟩
/-- An atomic request on a word of memory or of a scratchpad. -/
def atomicOn (scr : Bool) (op n ty : Nat) : SvcReq :=
  .atomic 0x8000 scr op n ty 5 0 0 0 false 0 false 0 (some (r0, 7, 0, [.fixed 1])) 0 7 0x8000 1 (some 0)
theorem witness_AtomicPerforms : FirstOfLine (asked (atomicOn false 0 4 0)) 5 0 (atomicOn false 0 4 0) ∧
    5 < (asked (atomicOn false 0 4 0)).clusters.length ∧ Memory.wf (asked (atomicOn false 0 4 0)).mem ∧
    OwnedClean (asked (atomicOn false 0 4 0)) 5 false 0x8000 4 ∧
    (0 ≤ 8 ∧ tyBits (viewOf (ETy.ofCode 0)) = 8 * 4) ∧ (asked (atomicOn true 12 8 2)).clusters.length = 48 ∧
    FirstOfLine (asked (atomicOn true 13 8 15)) 5 0 (atomicOn true 13 8 15) ∧
    OwnedClean (asked (atomicOn true 13 8 15)) 5 true 0x8000 8 ∧ tyBits (viewOf (ETy.ofCode 2)) = 8 * 8 ∧
    (pathAt (asked (atomicOn false 0 4 0)) r0).isSome = true :=
  ⟨firstOfLine rfl (by decide), by decide, by decide, .inr ⟨rfl, by decide, clean_of rfl rfl rfl⟩, by decide, by decide,
    firstOfLine rfl (by decide), .inl ⟨rfl, by decide⟩, by decide, by decide⟩

theorem witness_WaitaddrResults : ∃ c, Ready (.waitaddr ⟨10, 2, 4, 0, .s⟩) data c ∧ NoAcquire data c ∧ 1 ≤ entriesFree data c.r ∧
    checkLane data c.r.core c.t.asid c.priv .read c.waSize c.waVa = .ok 0x8000 ∧ Clean data 0x8000 c.waSize ∧
    ownerCluster (0x8000 / 256 * 256) < data.clusters.length ∧ WaitMet c (memLe data.mem 0x8000 c.waSize) ∧
    ScalarFits c c.f.d.toNat c.waW :=
  meet (r := r0) (by decide) (by unfold NoAcquire Clean WaitMet ScalarFits; decide)
theorem witness_WaitaddrResults_2 : ∃ c, Ready (.waitaddr ⟨10, 2, 4, 0, .l0 { Ext0.zero with sub := 5, c := 8 }⟩) data c ∧
    NoAcquire data c ∧ checkLane data c.r.core c.t.asid c.priv .read c.waSize c.waVa = .ok 0x8000 ∧
    Clean data 0x8000 c.waSize ∧ ¬ WaitMet c (memLe data.mem 0x8000 c.waSize) :=
  meet (r := r0) (by decide) (by unfold NoAcquire Clean WaitMet; decide)
/-- A path parked in a WAITADDR whose line has been written and whose deadline has come. -/
def waiting (w : Wake) (s : State) : State := { fixP (fun p => { p with pstate := .parked, wake := some w }) s with sel := none }
def waitWake : Wake := .waitAddr 0x8000 0x8000 0 false false (some 0) 60 1 true false
theorem witness_WaitaddrResults_3 : ∃ p u, (∀ x ∈ (waiting waitWake data).remotes, x.use ≠ .waitAddr r0) ∧
    pathAt (waiting waitWake data) r0 = some p ∧ trainAt (waiting waitWake data) 0 0 = some u ∧
    p.pstate = .parked ∧ p.frozen = .none ∧ p.wake = some waitWake ∧
    checkLane (waiting waitWake data) 0 u.asid false .read 4 0x8000 = .ok 0x8000 ∧ 60 + 1 ≤ 61 ∧
    ownerCluster (0x8000 / 256 * 256) < (waiting waitWake data).clusters.length ∧ Clean (waiting waitWake data) 0x8000 4 ∧
    u.scalars.length = 64 ∧ 0 ≤ (waiting waitWake data).time :=
  ⟨_, _, by simp [show (waiting waitWake data).remotes = [] from rfl], rfl, rfl, by decide, by decide, by decide, by decide, by decide, by decide, clean_of rfl rfl rfl, by decide, by decide⟩

theorem witness_FenceResults : ∀ i ∈ ([.fence (f3 0 0 0), .rfence ⟨0, 0, 0, 0, ofSub 15⟩, .opfence (f3 0 0 0)] : List Instr),
    ∃ c, Ready i one c ∧ ((coreAt one c.r.core).txns.isEmpty && one.outWrites.isEmpty && (coreAt one c.r.core).wc.isEmpty &&
      c.p.reports.isEmpty && c.t.reports.isEmpty) = true := ready_all (r := r0) (by decide)
/-- A path and its train with a failure report each. -/
def reported : State := fixT (fun t => { t with reports := [⟨5, 9, 2, 1⟩] }) (fixP (fun p => { p with reports := [⟨5, 8, 2, 1⟩] }) one)
theorem witness_FenceResults_2 : ∃ c, Ready (.fence (f3 0 0 0)) reported c ∧ AllPerformed reported c ∧ c.act ≠ 0 ∧
    (⟨5, 8, 2, 1⟩ : Report) ∈ c.p.reports ++ c.t.reports ∧
    ∀ y ∈ c.p.reports ++ c.t.reports, y ≠ ⟨5, 8, 2, 1⟩ → 5 < y.peer ∨ (5 = y.peer ∧ 8 < y.line) :=
  meet (r := r0) (by decide) (by unfold AllPerformed; decide)

/-- A handler on a core that holds a translation, beside a core whose path is parked at a page. -/
def stale : State := fixK (fun k => { k with tlb := [⟨0, 0, 30, 0x1F⟩] }) (withS [(2, 0x8000)] inHandler)
theorem witness_TlbiResults : ∀ i ∈ ([.tlbiPage (f3 0 2 4), .tlbiAsid ⟨0, 0, 4, 1, .s⟩, .tlbiAll ⟨0, 0, 0, 2, .s⟩] : List Instr), ∃ c,
    Ready i stale c ∧ ((coreAt stale c.r.core).txns.isEmpty && stale.outWrites.isEmpty && (coreAt stale c.r.core).wc.isEmpty) = true :=
  ready_all (r := rh) (by decide)
theorem witness_TlbiResults_2 : ∃ u p, trainAt (waiting (.pageFault 1 false) stale) 0 0 = some u ∧
    pathAt (waiting (.pageFault 1 false) stale) r0 = some p ∧ p.wake = some (.pageFault 1 false) ∧ u.asid = 0 :=
  ⟨_, _, rfl, rfl, by decide, by decide⟩

/-- A shootdown of a translation of ASID 0 that waited for an access since performed, while the seated path is parked for a page; and
a TLBI that must wait for such an access. -/
def shot : Shootdown := ⟨some rh, some 0, none, [0], [5]⟩
def shooting : State := { waiting (.pageFault 1 false) (paged one) with shoots := [shot] }
theorem witness_TlbiResults_3 : 3 < 4 ∧ shooting.boot ≠ .off ∧ shot ∈ shooting.shoots ∧
    (∀ n ∈ shot.left, n ∉ accessesOf shooting shot.cores shot.asid) ∧ ∃ u p, r0.core ∈ shot.cores ∧ trainAt shooting 0 0 = some u ∧
    (∀ n, shot.asid = some n → u.asid = n) ∧ pathAt shooting r0 = some p ∧ p.wake = some (.pageFault 1 false) :=
  ⟨by decide, by decide, by decide, by decide, _, _, by decide, rfl, fun n h => by cases h; decide, rfl, by decide⟩
def flying : State := fixK (fun k => { k with txns := [⟨7, .load, 0, 1, [8], none, false, false⟩] }) stale
theorem witness_TlbiResults_4 : ∃ c, Ready (.tlbiAll ⟨0, 0, 0, 2, .s⟩) flying c ∧ AllPerformed flying c ∧
    accessesOf (charged (.tlbiAll ⟨0, 0, 0, 2, .s⟩) flying c) (coresIn flying (inScope c.r.core c.sc)) none ≠ [] :=
  meet (r := rh) (by decide) ⟨by unfold AllPerformed; decide, by decide +kernel⟩

theorem witness_CacheResults : ∀ i ∈ ([.pref (⟨0, 2, 48, 0, .s⟩), .pref (⟨0, 2, 48, 0, ofSub 8⟩)] : List Instr), ∃ c,
    Ready i data c ∧ (data.latent.isEmpty && decide (1 ≤ entriesFree data c.r) && decide (4 ≤ data.dies.length)) = true := ready_all (r := r0) (by decide)
theorem witness_CacheResults_2 : ∀ i ∈ ([.cacheopWb (⟨0, 2, 48, 0, .s⟩), .cacheopEvict (⟨0, 2, 48, 0, ofSub 8⟩)] : List Instr), ∃ c,
    Ready i data c ∧ ((memLanes data c .read 1 (c.ea 4)).all keyB && data.latent.isEmpty) = true := ready_all (r := r0) (by decide)
theorem witness_CacheResults_3 : ∃ c, Ready (.cacheopZero (⟨0, 2, 48, 0, ofSub 16⟩)) data c ∧ Memory.wf data.mem ∧
    NoAcquire data c ∧ Released data c ∧ memLanes data c .write 1 (c.ea 4) = [⟨0, 0x8000, .ok 0x8000⟩] ∧
    data.latent = [] ∧ (∀ x ∈ memLanes data c .write 1 (c.ea 4), ∃ k, x.out = .ok k) ∧ c.r.handler = false ∧
    needOf true (memLanes data c .write 1 (c.ea 4)) ≤ entriesFree data c.r ∧
    ∀ x ∈ memLanes data c .write 1 (c.ea 4), ∀ y ∈ memLanes data c .write 1 (c.ea 4), ∀ k j, x.out = .ok k → y.out = .ok j →
      (x.ea.toNat / 256 = y.ea.toNat / 256 ↔ k / 256 = j / 256) := by
  have h : memLanes data (ctxAt data r0 (.cacheopZero (⟨0, 2, 48, 0, ofSub 16⟩))) .write 1
    ((ctxAt data r0 (.cacheopZero (⟨0, 2, 48, 0, ofSub 16⟩))).ea 4) = [⟨0, 0x8000, .ok 0x8000⟩] := by decide
  refine meet (r := r0) (by decide) ⟨by decide, by unfold NoAcquire; decide, released_of rfl rfl rfl, h, rfl, ?_, by decide, by decide, ?_⟩
  · rw [h]
    intro x hx
    obtain rfl := List.mem_singleton.1 hx
    exact ⟨0x8000, rfl⟩
  · rw [h]
    intro x hx y hy k j hk hj
    obtain rfl := List.mem_singleton.1 hx
    obtain rfl := List.mem_singleton.1 hy
    cases hk; cases hj
    simp

/-- One page to map, and the page mapped as a chunk with two filled granules and a masked byte. -/
def mappable : State := paged (fixC (fun k => { k with allocs := [⟨⟨0, 0⟩, 0, 8192⟩] }) (withS [(2, 0x8000), (4, 1), (6, 4096)] one))
def chunk : StashChunk := ⟨⟨0, 0⟩, 4096, 0x8000, 0x8000, 3, [4095]⟩
def mapped : State := fixC (fun k => { k with stash := [chunk] }) mappable
theorem witness_StashResults : ∃ c, Ready (.smap (f3 6 2 4)) mappable c ∧ NoAcquire mappable c ∧
    mappable.latent = [] ∧ c.r.core / 6 < mappable.clusters.length ∧ 1 ≤ c.stashN ∧ c.stashN ≤ 256 ∧ c.stashOff % 4096 = 0 ∧ c.stashVa.toNat % 4096 = 0 ∧
    (∀ i < c.stashN, c.stashOff + 4096 * i + 4096 ≤ (allocOf mappable (c.r.core / 6) c.t.crew).2 ∧
      chunkAt mappable (c.r.core / 6) c.t.crew (c.stashOff + 4096 * i) = none) ∧
    (clusterAt mappable (c.r.core / 6)).stash.length + c.stashN ≤ 256 ∧ SmapPages mappable c [0x8000] ∧ [0x8000].Nodup ∧
    ∀ k ∈ [0x8000], chunkOfKey mappable k = none := by
  refine meet (r := r0) (by decide) ⟨by unfold NoAcquire; decide, rfl, by decide, by decide, by decide, by decide, by decide,
    by decide, by decide, ⟨by decide, fun i k hk => ?_⟩, by decide, by decide⟩
  match i, hk with
  | 0, hk =>
    obtain rfl : 0x8000 = k := by simpa using hk
    have hx : xlate mappable (ctxAt mappable r0 (.smap (f3 6 2 4))).r.core (ctxAt mappable r0 (.smap (f3 6 2 4))).t.asid
      ((ctxAt mappable r0 (.smap (f3 6 2 4))).stashVa + BitVec.ofNat 64 (4096 * 0)) = .leaf 0x1F 30 := by decide
    exact ⟨by decide, by decide, fun w bits h => by rw [hx] at h; cases h; decide⟩
  | n + 1, hk => simp at hk
theorem witness_StashResults_2 : ∃ c, Ready (.sunmap (f3 6 0 4)) mapped c ∧ NoAcquire mapped c ∧
    c.r.core / 6 < mapped.clusters.length ∧ c.stashN = 1 ∧ c.stashOff % 4096 = 0 ∧
    chunkAt mapped (c.r.core / 6) c.t.crew c.stashOff = some chunk ∧ chunk.off = c.stashOff ∧ mapped.latent = [] :=
  meet (r := r0) (by decide) ⟨by unfold NoAcquire; decide, by decide, by decide, by decide, by decide, by decide, rfl⟩

/-- A crew that belongs to roster 3, whose word is at 0x8000, and an allocation with a barrier word. -/
def roster : Launch := ⟨0, { noPacket with rosters := [(3, 0x8000, [0])] }, some 0, 1, [], none, false, none, false, []⟩
def barWordCells : List Host.Cell := (List.range 8).map fun i => (i, if i = 2 then 2 else 0)
def rostered : State :=
  let s := paged (fixC (fun k => { k with allocs := [⟨⟨0, 0⟩, 0, 4096⟩], scratch := barWordCells }) one)
  { s with launches := [roster] }
theorem witness_BarrierResults : ∀ i ∈ ([.bararv ⟨60, 0, 0, 0, .l1 0 0⟩, .barsync ⟨0, 0, 0, 0, .l1 0 0⟩, .barwt ⟨0, 0, 4, 0, .l1 0 0⟩]
    : List Instr), ∃ c, Ready i rostered c ∧ (decide ((livePaths c.t.paths).length ≤ 1) && c.t.deferred.isEmpty &&
      c.t.refills.isEmpty && (coreAt rostered c.r.core).txns.isEmpty && rostered.latent.isEmpty && rostered.outWrites.isEmpty &&
      (coreAt rostered c.r.core).wc.isEmpty && decide (c.barOperand % 8 = 0) &&
      decide (c.barOperand + 8 ≤ (allocOf rostered (c.r.core / 6) c.t.crew).2) &&
      decide ((barHome false rostered c c.barOperand).1 < rostered.clusters.length)) = true := ready_all (r := r0) (by decide)
theorem witness_BarrierResults_2 : ∀ i ∈ ([.rbarArv ⟨60, 0, 0, 1, .l1 3 0⟩, .rbarSync ⟨0, 0, 0, 0, .l1 3 0⟩, .rbarWt ⟨0, 0, 4, 2, .l1 3 0⟩]
    : List Instr), ∃ c, Ready i rostered c ∧ (rosterWord rostered c == some 0x8000 &&
      checkLane rostered c.r.core c.t.asid c.priv .write 8 0x8000 == .ok 0x8000 &&
      decide ((barHome true rostered c 0x8000).1 < rostered.clusters.length)) = true := ready_all (r := r0) (by decide)
/-- A train with a second live path. -/
def twoPaths : State := fixT (fun t => { t with paths := updAt t.paths 1 fun _ => some (newPath 9 0 2) }) rostered
theorem witness_BarrierResults_3 : ∀ i ∈ ([.bararv ⟨60, 0, 0, 0, .l1 0 0⟩, .rbarSync ⟨0, 0, 0, 0, .l1 3 0⟩] : List Instr), ∃ c,
    Ready i twoPaths c ∧ (decide (1 < (livePaths c.t.paths).length) && decide (i ∈ ([.bararv ⟨60, 0, 0, 0, .l1 0 0⟩] : List Instr) ∨
      rosterWord twoPaths c = some 0x8000)) = true := ready_all (r := r0) (by decide)

/-- An arrival at a word of memory whose COUNT is given of two, by the seated path. -/
def arriving (count : Byte) : State := withMem 0x8000 [count, 0, 2, 0, 0xFF, 0xFF]
  (modCluster (waiting (.arrive 0x8000 0x8000 (some 60) true false false) (paged one)) 5 fun k => { k with svc := [.arrive 0x8000 false r0] })
theorem witness_BarrierArrival : ∀ count ∈ ([0, 1] : List Byte), FirstOfLine (arriving count) 5 0 (.arrive 0x8000 false r0) ∧
    5 < (arriving count).clusters.length ∧ Memory.wf (arriving count).mem ∧ OwnedClean (arriving count) 5 false 0x8000 8 ∧
    (∃ p, pathAt (arriving count) r0 = some p ∧ p.wake = some (.arrive 0x8000 0x8000 (some 60) true false false)) ∧
    ownedWord (arriving count) 5 false 0x8000 8 / 2 ^ 16 % 2 ^ 16 = 2 ∧ ownedWord (arriving count) 5 false 0x8000 8 % 2 ^ 16 < 2 ∧
    ownedWord (arriving count) 5 false 0x8000 8 / 2 ^ 48 = 0 ∧ (∃ u, trainAt (arriving count) 0 0 = some u ∧ u.scalars.length = 64) := by
  intro count hc
  have : count = 0 ∨ count = 1 := by simpa using hc
  rcases this with rfl | rfl <;>
    exact ⟨firstOfLine rfl (by decide), by decide, by decide, .inr ⟨rfl, by decide, clean_of rfl rfl rfl⟩, ⟨_, rfl, by decide⟩, by decide,
      by decide, by decide, ⟨_, rfl, by decide⟩⟩

/-- An update of an object at 0x8000 whose WANT is given, for which the seated path waits. -/
def updating (w : Option Wake) (want : Byte) : State := withMem 0x8008 [want] (modCluster (fixP (fun p => { p with
  pstate := .parked, wake := w }) (paged one)) 5 fun k => { k with svc := [.complete 0x8000 1 1 7 0x44 0 []] })
theorem witness_CompletionUpdates : FirstOfLine (updating none 0) 5 0 (.complete 0x8000 1 1 7 0x44 0 []) ∧
    5 < (updating none 0).clusters.length ∧ Memory.wf (updating none 0).mem ∧ Clean (updating none 0) 0x8000 32 ∧
    findPaths (updating none 0) (List.range 288) (waitsOn 0x8000) = [] :=
  ⟨firstOfLine rfl (by decide), by decide, by decide, clean_of rfl rfl rfl, by decide +kernel⟩
theorem witness_CompletionUpdates_2 : ∀ want ∈ ([1, 2] : List Byte), findPaths (updating (some (.cwait 0x8000 1 0x8000)) want) (List.range 288)
      (waitsOn 0x8000) = [r0] ∧ (∃ p, pathAt (updating (some (.cwait 0x8000 1 0x8000)) want) r0 = some p ∧ p.wake = some (.cwait 0x8000 1 0x8000)) ∧
    ∃ u, trainAt (updating (some (.cwait 0x8000 1 0x8000)) want) 0 0 = some u ∧ u.engFail = none := by
  intro want hw
  have : want = 1 ∨ want = 2 := by simpa using hw
  rcases this with rfl | rfl <;> exact ⟨by decide +kernel, ⟨_, rfl, by decide⟩, ⟨_, rfl, by decide⟩⟩

/-! ### Engines, near-memory commands, lists and launches -/

/-- An allocation of 64 KiB with the words of a descriptor in s8 to s14: A at 0 with a pitch of 128, B at 4096 with one of 128. -/
def matrices : State := fixC (fun k => { k with allocs := [⟨⟨0, 0⟩, 0, 65536⟩] })
  (withS [(8, 0), (9, 128), (10, 4096), (11, 128)] one)
def mmaRow : Instr := .mma ⟨1, 0, 0, 0, .l0 { Ext0.zero with c := 8 }⟩
theorem witness_MatrixIssue : ∃ c, Ready mmaRow matrices c ∧ ∃ ok, matrixRule mmaRow matrices c =
      some (.mma 0 false false false, 1, c.desc8, none, ok) ∧ matrices.latent = [] ∧ ok ∧ ObjPasses matrices c none none ∧ c.r.core % 2 = 0 ∧
    c.r.core % 6 / 2 < (clusterAt matrices (c.r.core / 6)).pairs.length ∧ 1 ≤ entriesFree matrices c.r ∧ c.r.core / 6 < matrices.clusters.length :=
  meet (r := r0) (by decide) ⟨_, rfl, rfl, ⟨by decide, by unfold DescOk; decide, by decide +kernel, by decide,
    by decide +kernel, fun h => absurd h (by decide)⟩, .inl ⟨rfl, rfl⟩, by decide, by decide, by decide, by decide⟩
theorem witness_MatrixIssue_2 : ∃ c, Ready (.accwrZero ⟨7, 0, 0, 2, .s⟩) matrices c ∧
    matrixRule (.accwrZero ⟨7, 0, 0, 2, .s⟩) matrices c = some (.accwr 2, 7, [], none, True) :=
  meet (r := r0) (by decide) rfl
/-- The same on a follower core. -/
def r1 : PathRef := ⟨1, 0, 0, false⟩
def follower : State := { modCore full 1 (fun _ => coreAt full 0) with sel := some r1 }
theorem witness_MatrixIssue_3 : ∃ c, Ready (.accwrZero ⟨7, 0, 0, 2, .s⟩) follower c ∧ c.r.core % 2 = 1 ∧
    matrixRule (.accwrZero ⟨7, 0, 0, 2, .s⟩) follower c = some (.accwr 2, 7, [], none, True) :=
  meet (r := r1) (by decide) ⟨by decide, rfl⟩

theorem witness_CopyIssue : ∃ c, Ready (.cpy ⟨2, 4, 6, 0, .s⟩) data c ∧
    copyRule (.cpy ⟨2, 4, 6, 0, .s⟩) c = some (0x00040004, 1, 0, 0) ∧ data.latent = [] ∧ ObjPasses data c none none ∧ 1 ≤ entriesFree data c.r ∧
    c.r.core / 6 < data.clusters.length :=
  meet (r := r0) (by decide) ⟨by decide, rfl, .inl ⟨rfl, rfl⟩, by decide, by decide⟩
theorem witness_CopyIssue_2 : ∃ c, Ready (.cpy ⟨2, 4, 8, 0, .s⟩) data c ∧ copyRule (.cpy ⟨2, 4, 8, 0, .s⟩) c = some (0, 1, 0, 0) :=
  meet (r := r0) (by decide) (by decide)
/-- s2 with a base of 256, s4 with two slots of 256 bytes. -/
def bindable : State := withS [(2, 256), (4, 0x201)] matrices
theorem witness_CopyIssue_3 : ∃ c, Ready (.qbind ⟨0, 2, 4, 7, .s⟩) bindable c ∧ 1 ≤ entriesFree bindable c.r ∧
    nth none (clusterAt bindable (c.r.core / 6)).bufs c.f.x.toNat = none ∧ c.s c.f.a false = 256 ∧ c.s c.f.b false = 0x201 ∧
    256 + 2 * 256 ≤ (allocOf bindable (c.r.core / 6) c.t.crew).2 := meet (r := r0) (by decide) (by decide)
/-- The buffer that this binds. -/
def bound : Buffer := ⟨⟨0, 0⟩, 0, 256, 0x201, 256, 0, 0, [.empty, .empty], [], false⟩
def buffered : State := fixC (fun k => { k with bufs := updAt k.bufs 7 fun _ => some bound }) bindable
theorem witness_CopyIssue_4 : ∃ c, Ready (.qfree ⟨0, 0, 0, 7, .s⟩) buffered c ∧ 1 ≤ entriesFree buffered c.r ∧
    nth none (clusterAt buffered (c.r.core / 6)).bufs c.f.x.toNat = some bound ∧ bound.crew = c.t.crew ∧ bound.tix = c.t.tix :=
  meet (r := r0) (by decide) (by decide)

theorem witness_EngineWaitResults : ∀ i ∈ ([.mwait (f3 1 0 0), .mwaitAll ⟨0, 0, 0, 1, .s⟩, .cwaitAll ⟨0, 0, 0, 1, .s⟩] : List Instr), ∃ c,
    Ready i matrices c ∧ ((ownMats matrices c).isEmpty && c.t.engFail.isNone &&
      (clusterAt matrices (c.r.core / 6)).copies.isEmpty) = true := ready_all (r := r0) (by decide)
theorem witness_EngineWaitResults_2 : ∀ i ∈ ([.mwait (f3 1 0 0), .cwaitAll ⟨0, 0, 0, 1, .s⟩] : List Instr), ∃ c,
    Ready i (fixT (fun t => { t with engFail := some (6, 0x8000) }) matrices) c ∧ (c.t.engFail == some (6, 0x8000)) = true :=
  ready_all (r := r0) (by decide)
/-- An operation of the seated train in its pair's queue, and one in its cluster's copy queue. -/
def matOp : MatOp := ⟨0, 0, r0, ⟨0, 0⟩, 0, 1, .accwr 2, 7, [], none, none, [], [], [], [], [], [], [], 0, false, false, false⟩
def queued : State := fixC (fun k => { k with pairs := updAt k.pairs 0 fun p => { p with queue := [matOp] } }) matrices
theorem witness_EngineWaitResults_3 : namesAcc matOp 7 ∧ ∀ i ∈ ([.mwait (f3 7 0 0), .mwaitAll ⟨0, 0, 0, 1, .s⟩] : List Instr), ∃ c,
    Ready i queued c ∧ (ownMats queued c == [matOp]) = true := ⟨.inl rfl, ready_all (r := r0) (by decide)⟩
theorem witness_EngineWaitResults_4 : ∃ c, Ready (.cwait (f3 0 2 0)) data c ∧ NoAcquire data c ∧ ObjectAt data c c.waitObj 0x8000 :=
  meet (r := r0) (by decide) (by unfold NoAcquire ObjectAt Clean; decide)
theorem witness_EngineWaitResults_5 : ∃ c, Ready (.ctest (f3 6 2 0)) data c ∧ NoAcquire data c ∧ ObjectAt data c c.waitObj 0x8000 ∧
    ScalarFits c c.f.d.toNat false := meet (r := r0) (by decide) (by unfold NoAcquire ObjectAt Clean ScalarFits; decide)

/-- A command on one word of memory, in s8 to s15. -/
def commanding : State := withS [(8, 0x8000), (12, 1)] (paged one)
theorem witness_NearMemoryIssue : ∃ c, Ready (.nmc ⟨0, 0, 0, 0, .l0 { Ext0.zero with c := 8 }⟩) commanding c ∧
    (rdS c.t c.p ((ext0Of c.f).c.toNat + 7) = 0 ∧ rdS c.t c.p ((ext0Of c.f).c.toNat + 4) = 1) ∧
    commanding.latent = [] ∧ ObjPasses commanding c none none ∧ 1 ≤ entriesFree commanding c.r :=
  meet (r := r0) (by decide) ⟨by decide, rfl, .inl ⟨rfl, rfl⟩, by decide⟩
theorem witness_NearMemoryIssue_2 : ∃ c, Ready (.nmfence (f3 0 0 0)) one c ∧ AllPerformed one c ∧
    (∀ q ∈ one.nmcs, c.p.uid ∉ q.paths) ∧ c.p.reports ++ c.t.reports = [] ∧ c.t.engFail = none :=
  meet (r := r0) (by decide) (by unfold AllPerformed; decide)

/-- Lane 0 with list 3 in v2, of ASID 0, whose ring of four items lies at 0x9000; empty, with an item, and full. -/
def listed (head tail : Nat) : State :=
  let s := paged (withV [(2, 3)] one)
  { s with lists := [⟨3, 0, 0x9000, 2, head, tail⟩] }
theorem witness_WorkListResults : ∃ c, Ready (.wlpush ⟨1, 2, 4, 0, .s⟩) (listed 0 0) c ∧ AllPerformed (listed 0 0) c ∧
    ∀ l ∈ c.act.toList, ∃ x, listAt (listed 0 0) (c.listId l) = some x ∧ x.asid = c.t.asid :=
  meet (r := r0) (by decide) ⟨by unfold AllPerformed; decide, fun l hl => by
    obtain rfl : l = 0 := by revert hl; revert l; decide
    exact ⟨_, rfl, by decide⟩⟩
theorem witness_WorkListResults_2 : ∃ c, Ready (.wlpop ⟨4, 2, 0, 0, .s⟩) (listed 0 1) c ∧ c.act.toList = [0] ∧
    ∃ x, listAt (listed 0 1) (c.listId 0) = some x ∧ x.asid = c.t.asid ∧ x.head ≠ x.tail ∧ ∃ ln, c.t.lanes[0]? = some ln ∧
      regOfCode c.depth c.f.d.toNat = some (.fixed 4) ∧ ln.v.length = 16 ∧ ln.ring.length = 104 ∧ subOf c.f < 64 :=
  meet (r := r0) (by decide) ⟨by decide, _, rfl, by decide, by decide, _, rfl, by decide, by decide, by decide, by decide⟩
theorem witness_WorkListResults_3 : ∀ x ∈ ([0, 2] : List (BitVec 4)), ∃ c, Ready (.wlpop ⟨4, 2, 0, x, .s⟩) (listed 4 4) c ∧
    ∀ l ∈ c.act.toList, ∃ y, listAt (listed 4 4) (c.listId l) = some y ∧ y.asid = c.t.asid ∧ y.head = y.tail := by
  intro x hx
  have : x = 0 ∨ x = 2 := by simpa using hx
  rcases this with rfl | rfl <;>
    exact meet (r := r0) (by decide) fun l hl => by
      obtain rfl : l = 0 := by revert hl; revert l; decide
      exact ⟨_, rfl, by decide⟩
theorem witness_WorkListResults_4 : ∀ i ∈ ([.wlpopDone ⟨0, 0, 0, 4, .s⟩, .quiesce (f3 6 0 0), .quiesceTest ⟨6, 0, 0, 1, .s⟩]
    : List Instr), ∃ c, Ready i (listed 0 0) c ∧ ((holdsEnded (listed 0 0) c).lists.all (fun l => l.tail == l.head)) = true :=
  ready_all (r := r0) (by decide)
theorem witness_WorkListResults_5 : ¬ NoWork (listed 0 1) 0 := fun h => absurd (h.1 ⟨3, 0, 0x9000, 2, 0, 1⟩ (by decide) rfl) (by decide)
theorem witness_WorkListResults_6 : listAt (listed 0 3) 3 = some ⟨3, 0, 0x9000, 2, 0, 3⟩ ∧ Memory.wf (listed 0 3).mem ∧ 3 - 0 < 2 ^ 2 ∧
    Clean (listed 0 3) (0x9000 + 8 * (3 % 2 ^ 2)) 8 ∧ 2 ^ 2 ≤ 4 - 0 := ⟨by decide, by decide, by decide, clean_of rfl rfl rfl, by decide⟩

/-- A packet of one crew of one train at 0x8000. -/
def packed : State := withMem 0x8000 (leBytes 2 1 ++ [0, 1] ++ leBytes 2 0 ++ leBytes 2 8)
  (withMem 0x8010 (leBytes 2 1 ++ leBytes 2 1 ++ leBytes 2 1) data)
/-- A context without the LAUNCH right. -/
def noRights (x : AsidCtx) : AsidCtx := ⟨x.asid, updAt x.bytes 44 fun _ => 0⟩
def unlaunched : State := { data with ctxs := data.ctxs.map noRights }
def thePacket : Packet := { noPacket with frames := 8, deps := [0, 0, 0, 0] }
theorem witness_LaunchResults : ∃ c, Ready (.launch (f3 0 2 0)) packed c ∧ ctxLaunch packed c.t.asid = true ∧ AllPerformed packed c ∧
    c.packet packed = .ok thePacket ∧ (packed.launches.filter fun l => !l.freed).length < 256 :=
  meet (r := r0) (by decide) ⟨by decide, by unfold AllPerformed; decide, by rfl, by decide⟩
theorem witness_LaunchResults_2 : ∃ c, Ready (.launch (f3 0 2 0)) unlaunched c ∧ ctxLaunch unlaunched c.t.asid = false :=
  meet (r := r0) (by decide) (by decide)

/-! ### Tokens, shard versions, the fabric and groups -/

theorem witness_TokenAndShardResults : ∀ i ∈ ([.tokqBal ⟨6, 0, 0, 0, .s⟩, .tokqRate ⟨6, 0, 0, 1, .s⟩, .tokqChg ⟨6, 0, 0, 2, .s⟩,
    .tokqRsv ⟨6, 0, 0, 3, .s⟩, .curq ⟨6, 0, 0, 0, .s⟩] : List Instr), ∃ c, Ready i one c ∧ (tokenRule i one c).isSome = true :=
  ready_all (r := r0) (by decide)
/-- s2 with a directory address, s4 with the count of its entries. -/
def publishing : State := withS [(2, 0x9000), (4, 4096)] (paged inHandler)
theorem witness_TokenAndShardResults_2 : ∃ c, Ready (.shsyncPub ⟨6, 2, 4, 0, .l0 { Ext0.zero with sub := 1 }⟩) publishing c ∧
    AllPerformed publishing c ∧ Memory.wf publishing.mem ∧ publishing.latent = [] ∧ c.s c.f.a true % 4096 = 0 ∧ c.s c.f.b false ≤ 4096 ∧
    ScalarFits c c.f.d.toNat false :=
  meet (r := rh) (by decide) (by unfold AllPerformed ScalarFits; decide)
theorem witness_TokenAndShardResults_3 : ∃ c, Ready (.shsyncWait (f3 6 0 0)) one c ∧ ScalarFits c c.f.d.toNat false ∧
    (∀ k ∈ one.cores, ∀ e ∈ k.wc, ∀ b ∈ e.shver, ¬ OlderBinding c.t.asid (shardVerOf one c.t.asid) b) ∧
    ¬ OldLanes one c.t.asid (shardVerOf one c.t.asid) := by
  have h : one.cores.all (fun k => k.wc.isEmpty && k.txns.isEmpty) = true := by decide +kernel
  refine meet (r := r0) (by decide) ⟨by unfold ScalarFits; decide, fun k hk e he => ?_, ?_⟩
  · have := List.all_eq_true.1 h k hk
    simp_all
  · rintro (⟨k, hk, x, hx, -⟩ | ⟨w, hw, -⟩)
    · have := List.all_eq_true.1 h k hk
      simp_all
    · exact absurd hw (by simp [show one.outWrites = [] from rfl])
/-- An LDT of the shard version before the present one that has not performed. -/
def olderTxn : Txn := ⟨7, .load, 0, 1, [], some (0, 4), false, false⟩
def older : State := { fixK (fun k => { k with txns := [olderTxn] }) one with shardVer := [(0, 5)] }
theorem witness_TokenAndShardResults_4 : ∃ c, Ready (.shsyncWait (f3 6 0 0)) older c ∧ OldLanes older c.t.asid (shardVerOf older c.t.asid) :=
  meet (r := r0) (by decide) (.inl ⟨coreAt older 0, by decide +kernel, olderTxn, by decide, rfl, (0, 4), rfl, by decide, by decide, by decide⟩)
/-- An INTENT of one watt that the governor may take, with room and with eight held; and of group 7. -/
def intending (held : List Intent) : State :=
  { withS [(2, 1000), (4, 1), (6, 7)] one with rampset := 0x10000100#32, intents := held }
theorem witness_TokenAndShardResults_5 : ∀ n ∈ [0, 8], ∃ c, Ready (.intent (f3 0 2 4)) (intending (List.replicate n ⟨1, 0, 0, 1⟩)) c ∧
    c.s c.f.b false = 1 ∧ c.s c.f.a true = 1000 := by
  intro n hn
  rcases (by simpa using hn : n = 0 ∨ n = 8) with rfl | rfl <;> exact meet (r := r0) (by decide) (by decide)
theorem witness_TokenAndShardResults_6 : (intending []).time = 0 ∧ (intending []).rampset.getLsbD 28 = true ∧
    1 ≤ 4 * ((intending []).rampset.toNat / 2 ^ 8 % 2 ^ 10) := by decide

/-- Group 9 of two members for ASID 0, in a view. -/
def groupOf (v : ViewState) : Group :=
  ⟨9, 2, 0, 0, 0, 0, 1, 0, v, 3, [true, true], 0, [], 0, 0, 0, 0, [], 0, [], 0, [], [], none, none⟩
/-- Over a state, s2 with 0x8000, s4 with the group, s6 with 0x8100, and from s8 on the words of a COLL that receives one element at 0x8200. -/
def groupedOn (base : State) (v : ViewState) : State :=
  { withS [(2, 0x8000), (4, 9), (6, 0x8100), (8, 0x8200), (10, 1), (12, 7)] (paged base) with
    groups := [groupOf v], groupRoutes := [(9, 0x102)] }
def grouped (v : ViewState) : State := groupedOn one v
theorem witness_TokenAndShardResults_7 : ∃ c, Ready (.intentG ⟨0, 2, 10, 1, .l0 { Ext0.zero with c := 4 }⟩) (grouped .stable) c ∧
    c.s c.f.b false < 2 ^ 16 ∧ c.intentGroup = 9 ∧ groupAt (grouped .stable) c.intentGroup = some (groupOf .stable) ∧ c.t.asid = 0 :=
  meet (r := r0) (by decide) (by decide)

/-- Lane 0 with the last word of a line of peer 5 in v2:v3. -/
def afar : State := paged (withV [(2, 0x400000FC)] one)
theorem witness_NotifyAndMulticast : ∃ c, Ready (.stn ⟨1, 2, 48, 0, .w { Ext0.zero with sub := 16 } 0xFFFF0FFF⟩) afar c ∧ NoAcquire afar c ∧
    ReadsDone afar c ∧ afar.latent = [] ∧ (∀ e ∈ (coreAt afar c.r.core).wc, c.p.uid ∉ e.paths) ∧ c.stnSize = 4 ∧ routeLost afar 5 = false ∧
    memLanes afar c .write c.stnSize c.stnEa = [⟨0, 0x400000FC, .peer 5 252 false⟩] :=
  meet (r := r0) (by decide) ⟨by unfold NoAcquire; decide, by unfold ReadsDone; decide, rfl, by decide, by decide, by decide, by decide⟩
/-- A core that holds no translation and no table. -/
theorem current_of {s : State} {c : Ctx} (h : (coreAt s c.r.core).tlb = []) (hu : (coreAt s c.r.core).upper = []) :
    XlateCurrent s c := by
  intro va x hx
  simpa [xlatForms, lanePage, walkKept, h, hu, uniq] using hx
theorem witness_NotifyAndMulticast_2 : ∃ c, Ready (.mcst ⟨6, 2, 4, 0, .l0 { Ext0.zero with c := 12 }⟩) (grouped .stable) c ∧
    NoAcquire (grouped .stable) c ∧ c.block.toNat % 64 = 0 ∧ ObjPasses (grouped .stable) c (some c.block) (some 0x8100) ∧
    checkLane (grouped .stable) c.r.core c.t.asid c.priv .read 256 c.mcSrc = .ok 0x8000 ∧ Clean (grouped .stable) 0x8000 256 ∧
    ((grouped .stable).groupRoutes.find? fun x => x.1 == 9) = some (9, 0x102) ∧ c.s c.f.b false = 9 ∧
    (nth ⟨false, 0, false⟩ (grouped .stable).ports (0x102 % 16)).failed = false ∧ c.priv = false ∧
    pendingAccesses (grouped .stable) c = [] ∧ XlateCurrent (grouped .stable) c :=
  meet (r := r0) (by decide) ⟨by unfold NoAcquire; decide, by decide, .inr ⟨_, _, rfl, rfl, by decide, by decide, by decide⟩,
    by decide, clean_of rfl rfl rfl, by decide, by decide, by decide, by decide, by decide, current_of (by decide) (by decide)⟩

def reducing : Instr := .collAr ⟨6, 2, 4, 0, .l0 { Ext0.zero with c := 8 }⟩
/-- The receive buffer of `reducing`. -/
theorem recvAt_reducing {a : Nat} (h : RecvAt (grouped .stable) (ctxAt (grouped .stable) r0 reducing) (groupOf .stable) a) :
    0x8200 ≤ a ∧ a < 0x8204 := by
  obtain ⟨-, i, hi, ha⟩ := h
  have key : ∀ i < 4, (match checkLane (grouped .stable) 0 0 false .write 1 (0x8200 + BitVec.ofNat 64 i) with
      | .ok k => decide (0x8200 ≤ k ∧ k < 0x8204) | _ => true) = true := by decide +kernel
  have := key i hi
  rw [show checkLane (grouped .stable) 0 0 false .write 1 (0x8200 + BitVec.ofNat 64 i) = .ok a from ha] at this
  simpa using this
theorem apart_reducing : RecvApart (grouped .stable) (ctxAt (grouped .stable) r0 reducing) (groupOf .stable) := fun m va hm =>
  walk_paged rfl rfl fun a _ _ => hm a fun hr => by
    have := recvAt_reducing hr
    omega
theorem witness_GroupResults : ∃ c, Ready reducing (grouped .stable) c ∧ MemberOf (grouped .stable) c (groupOf .stable) ∧
    CollArgs c 2 ∧ c.block.toNat % 64 = 0 ∧ ObjPasses (grouped .stable) c (some c.block) (some 0x8100) ∧
    1 ≤ entriesFree (grouped .stable) c.r ∧ Memory.wf (grouped .stable).mem ∧ NoErrors (grouped .stable) ∧
    pendingAccesses (grouped .stable) c = [] ∧ XlateCurrent (grouped .stable) c ∧ RecvApart (grouped .stable) c (groupOf .stable) ∧
    (∀ k ∈ [0x8000, 0x8001, 0x8002, 0x8003], ¬ RecvAt (grouped .stable) c (groupOf .stable) k) ∧
    collBytes c (groupOf .stable) = 4 ∧ SendKeys (grouped .stable) c 4 [0x8000, 0x8001, 0x8002, 0x8003] := by
  refine meet (r := r0) (by decide) ⟨by unfold MemberOf; decide, by unfold CollArgs; decide, by decide,
    .inr ⟨_, _, rfl, rfl, by decide, by decide, by decide⟩, by decide, by decide, by unfold NoErrors; decide, by decide,
    current_of (by decide) (by decide), apart_reducing, fun k hk hr => ?_, by decide, rfl, fun i k h => ?_⟩
  · have := recvAt_reducing hr
    simp only [List.mem_cons, List.not_mem_nil, or_false] at hk
    omega
  match i, h with
  | 0, h => obtain rfl : 0x8000 = k := by simpa using h
            exact ⟨by decide, clean_of rfl rfl rfl⟩
  | 1, h => obtain rfl : 0x8001 = k := by simpa using h
            exact ⟨by decide, clean_of rfl rfl rfl⟩
  | 2, h => obtain rfl : 0x8002 = k := by simpa using h
            exact ⟨by decide, clean_of rfl rfl rfl⟩
  | 3, h => obtain rfl : 0x8003 = k := by simpa using h
            exact ⟨by decide, clean_of rfl rfl rfl⟩
  | n + 4, h => simp at h
theorem witness_GroupResults_2 : ∃ c, Ready reducing (grouped .changing) c ∧ MemberOf (grouped .changing) c (groupOf .changing) ∧
    CollArgs c 2 ∧ (groupOf .changing).colls = [] ∧ NoErrors (grouped .changing) ∧ XlateCurrent (grouped .changing) c :=
  meet (r := r0) (by decide) ⟨by unfold MemberOf; decide, by unfold CollArgs; decide, rfl, by unfold NoErrors; decide,
    current_of (by decide) (by decide)⟩
theorem witness_GroupResults_3 : ∃ c, Ready (.fbar (f3 0 0 4)) (grouped .stable) c ∧ MemberOf (grouped .stable) c (groupOf .stable) ∧
    EarlierDone (grouped .stable) c ∧ (livePaths c.t.paths).length ≤ 1 ∧ c.t.deferred = [] ∧ c.t.refills = [] :=
  meet (r := r0) (by decide) (by unfold MemberOf EarlierDone; decide)
def divided : State := fixT (fun t => { t with paths := updAt t.paths 1 fun _ => some (newPath 9 0 2) }) (grouped .stable)
theorem witness_GroupResults_4 : ∃ c, Ready (.fbar (f3 0 0 4)) divided c ∧ 1 < (livePaths c.t.paths).length :=
  meet (r := r0) (by decide) (by decide)
theorem witness_GroupResults_5 : ∀ i ∈ ([.viewqTag ⟨6, 0, 4, 0, .s⟩, .viewqState ⟨6, 0, 4, 0, ofSub 1⟩, .viewqLive ⟨6, 12, 4, 0, ofSub 2⟩,
    .viewqSeq ⟨6, 0, 4, 0, ofSub 3⟩] : List Instr), ∃ c, Ready i (grouped .stable) c ∧ ((viewqRule i (grouped .stable) c).isSome &&
      decide (c.groupWord < 4096) && memLe (grouped .stable).mem (ctlBase + 0xF10000 + 64 * c.groupWord + 4) 2 == c.t.asid) = true :=
  ready_all (r := r0) (by decide)
theorem witness_GroupResults_6 : ∀ v ∈ ([.stable, .joining] : List ViewState), ∃ c, Ready (.vjoin (f3 6 0 4)) (groupedOn inHandler v) c ∧
    c.groupWord < 4096 ∧ groupAt (groupedOn inHandler v) c.groupWord = some (groupOf v) ∧ ScalarFits c c.f.d.toNat false := by
  intro v hv
  rcases (by simpa using hv : v = .stable ∨ v = .joining) with rfl | rfl <;>
    exact meet (r := rh) (by decide) (by unfold ScalarFits; decide)

/-! ### The steps of the package itself: cores, the Tender, trains and crews -/

def unchosen : State := { one with sel := none }
theorem witness_IssueCycle : CoreOn unchosen 0 ∧ CoreOn unchosen 287 ∧ unchosen.sel = none ∧ (∃ x ∈ rivals unchosen 0, CanGo x) ∧
    ∀ x ∈ rivals unchosen 5, ¬ CanGo x := by
  have h : (rivals unchosen 0).any (fun x => match x.v with | .ready _ => true | _ => false) = true := by decide +kernel
  refine ⟨by unfold CoreOn; decide +kernel, by unfold CoreOn; decide +kernel, by decide, ?_, by
    rw [show rivals unchosen 5 = [] from by decide +kernel]; simp⟩
  obtain ⟨x, hx, hv⟩ := List.any_eq_true.1 h
  refine ⟨x, hx, ?_⟩
  split at hv
  · exact ⟨_, ‹_›⟩
  · cases hv

/-- A train with no pending trap. -/
theorem untrapped {u : Train} (h : (u.paths.all fun o => match o with
    | some p => p.trapDue.isNone | none => true) = true) : Untrapped u := fun p hp => by
  simpa using List.all_eq_true.1 h _ hp

/-- The seated path with its instruction not yet fetched; at the last cycle of a redirect delay; with a result that is due. -/
def unfetched : State := fixP (fun p => { p with fetched := none }) (paged one)
def delayed : State := fixP (fun p => { p with delay := 1 }) one
def dueWith (ws : List RegWrite) (errs : List LaneErr) : State :=
  fixP (fun p => { p with pending := [⟨7, 0, .count 1, ws, ws.map (·.reg), [], errs, none⟩] }) one
theorem witness_CoreSteps : (∃ t, trainAt unfetched 0 0 = some t ∧ t.asid = 0) ∧ (∃ p, pathAt unfetched r0 = some p ∧ MayIssue p ∧
    p.fetched = none ∧ p.pc = 0) ∧ (clusterAt unfetched 0).gate = .on ∧ checkLane unfetched 0 0 false .fetch 4 0 = .ok 0 ∧
    Clean unfetched 0 4 ∧ RouteFresh unfetched 0 .instr ∧ (BitVec.ofNat 32 (memLe unfetched.mem 0 4)).toNat % 4 = 0 :=
  ⟨⟨_, rfl, by decide⟩, ⟨_, rfl, by unfold MayIssue; decide, by decide, by decide⟩, by decide, by decide, clean_of rfl rfl rfl,
    fun x hx => absurd hx (by decide +revert), by decide⟩
theorem witness_CoreSteps_2 : ∃ p, pathAt delayed r0 = some p ∧ p.delay = 1 := ⟨_, rfl, by decide⟩
theorem witness_CoreSteps_3 : ∀ x ∈ ([(⟨.scalar 60, 0, 5⟩, []), (⟨.fixed 15, 0, 5⟩, []), (⟨.pred 63, 0, 1⟩, [⟨0, 0x0B, 0x8000⟩])]
    : List (RegWrite × List LaneErr)), ∃ u p q, trainAt (dueWith [x.1] x.2) 0 0 = some u ∧ pathAt (dueWith [x.1] x.2) r0 = some p ∧
      Untrapped u ∧ p.trapDue = none ∧ workPaid (dueWith [x.1] x.2) 0 = true ∧ p.pending = [q] ∧ q.awaiting = [] ∧ q.flip = none ∧ q.errs = x.2 ∧ q.writes = [x.1] ∧
      u.scalars.length = 64 ∧ u.retired.has 0 = false ∧ (u.lanes[0]?).isSome = true := by
  intro x hx
  have hx : x = (⟨.scalar 60, 0, 5⟩, []) ∨ x = (⟨.fixed 15, 0, 5⟩, []) ∨ x = (⟨.pred 63, 0, 1⟩, [⟨0, 0x0B, 0x8000⟩]) := by
    simpa using hx
  rcases hx with rfl | rfl | rfl <;>
    exact ⟨_, _, _, rfl, rfl, untrapped (by decide), by decide, by decide, rfl, rfl, rfl, rfl, rfl, by decide, by decide, by decide⟩
/-- A result that brings a table. -/
def dueBank : State :=
  fixP (fun p => { p with pending := [⟨7, 0, .count 1, [], [], [], [], some (.bank ActBank.reset)⟩] }) one
theorem witness_CoreSteps_11 : (∃ u p, trainAt dueBank 0 0 = some u ∧ pathAt dueBank r0 = some p ∧ p.trapDue = none ∧
    p.pending = [⟨7, 0, .count 1, [], [], [], [], some (.bank ActBank.reset)⟩]) ∧ workPaid dueBank 0 = true ∧ (coreAt dueBank 0).actCur ≤ 1 ∧
    (coreAt dueBank 0).actBanks.length = 2 := ⟨⟨_, _, rfl, rfl, by decide, rfl⟩, by decide, by decide⟩
def storing : State := fixK (fun k => { k with txns := [⟨7, .store, 0, 1, [], none, false, false⟩] }) one
theorem witness_CoreSteps_4 : ⟨7, .store, 0, 1, [], none, false, false⟩ ∈ (coreAt storing 0).txns := by decide
theorem witness_CoreSteps_5 : (∃ t, trainAt (paged one) 0 0 = some t ∧ t.asid = 0) ∧ canonical 0x8000 = true ∧
    (paged one).l1 = [] ∧ (coreAt (paged one) 0).tlb = [] ∧ xlatForms (paged one) 0 none 0 0x8000 = [.leaf 0x1F 30] :=
  ⟨⟨_, rfl, by decide⟩, by decide⟩
/-- A fault record that waits for a queue of one entry that has room. -/
def faulted : State :=
  let s := paged one
  { s with faults := [⟨0, List.replicate 32 1⟩] }
theorem witness_CoreSteps_6 : (faulted.faults.find? fun x => x.asid == 0) = some ⟨0, List.replicate 32 1⟩ ∧ Memory.wf faulted.mem ∧ faulted.latent = [] ∧
    (List.replicate 32 (1 : Byte)).length = 32 ∧ ctxFqsize faulted 0 = 64 ∧ (memLe faulted.mem (ctxFaultq faulted 0) 4 + 2 ^ 32 - memLe faulted.mem (ctxFaultq faulted 0 + 4) 4) % 2 ^ 32
      < 64 := by decide
theorem witness_CoreSteps_7 : ∀ unf ∈ ([0, 1] : List LaneSet), ∃ t p, trainAt (waiting (.pageFault unf true) one) 0 0 = some t ∧
    pathAt (waiting (.pageFault unf true) one) r0 = some p ∧ p.wake = some (.pageFault unf true) ∧ p.pstate = .parked ∧
    p.frozen = .none ∧ p.stop = .running ∧ t.refills = [] := by
  intro unf h
  rcases (by simpa using h : unf = 0 ∨ unf = 1) with rfl | rfl <;>
    exact ⟨_, _, rfl, rfl, by decide, by decide, by decide, by decide, by decide⟩
/-- A handler that began a millisecond ago. -/
def overdue : State := { inHandler with time := 1000000 }
theorem witness_CoreSteps_8 : ∃ t h, trainAt overdue 0 0 = some t ∧ t.handler = some h ∧ h.started + 1000000 ≤ overdue.time ∧
    h.agent = false := ⟨_, _, rfl, rfl, by decide, by decide⟩
/-- An agent's, with a path that is not in a WAITADDR. -/
theorem witness_CoreSteps_12 : ∃ t h p, trainAt { agented 1 with time := 1000000 } 0 0 = some t ∧ t.handler = some h ∧
    h.started + 1000000 ≤ 1000000 ∧ h.agent = true ∧ some p ∈ h.paths ∧ p.wake = none :=
  ⟨_, _, newPath 9 0 1, rfl, rfl, by decide, by decide, by decide, rfl⟩
/-- A halt that pends at an entry. -/
def halting (ctl : Word) : State := fixT (fun t => { t with pendHalt := true, dbgctl := ctl }) one
theorem witness_CoreSteps_9 : ∃ t, trainAt (halting 0x70) 0 0 = some t ∧ t.pendHalt = true ∧ t.handler = none ∧ t.ended = none ∧
    (coreAt (halting 0x70) 0).relock = false ∧ t.dbgctl.toNat / 2 ^ 4 % 2 ^ 4 = 7 ∧ t.refills = [] ∧ nth none t.paths 7 = none :=
  ⟨_, rfl, by decide, by decide, by decide, by decide, by decide, by decide, by decide⟩
theorem witness_CoreSteps_10 : ∃ t p, trainAt (halting 0) 0 0 = some t ∧ t.pendHalt = true ∧ t.handler = none ∧ t.ended = none ∧
    (coreAt (halting 0) 0).relock = false ∧ HaltNames t 0 ∧ nth none t.paths 0 = some p ∧ p.pstate = .active ∧ p.frozen = .none ∧ Untrapped t ∧ p.stop = .running :=
  ⟨_, _, rfl, by decide, by decide, by decide, by decide, .inl (by decide), rfl, by decide, by decide, untrapped (by decide), by decide⟩

/-- A transfer at the head of the Tender's queue, for a window stack at 2 GiB. -/
def transferring (k : TenderKind) (started : Bool) : State :=
  fixK (fun c => { c with tender := [⟨r0, k, started⟩], tlb := [⟨0, 2, 30, 0x4000002F⟩] }) (fixT (fun t => { t with winstack := 0x80000008 }) (paged one))
/-- The key of an address of that page. -/
def stackKey (va : DWord) : Nat := va.toNat - 0x40000000
theorem witness_TenderSteps : (coreAt (transferring (.spill 0 1) false) 0).relock = false ∧
    (coreAt (transferring (.spill 0 1) false) 0).tender = [⟨r0, .spill 0 1, false⟩] ∧
    6000 ≤ tokensFor (transferring (.spill 0 1) false) r0 := by decide
/-- The same on a core without tokens. -/
def tokenless : State := fixK (fun c => { c with balance := 0 }) (transferring (.fill 0 1) false)
theorem witness_TenderSteps_2 : (coreAt tokenless 0).relock = false ∧ (coreAt tokenless 0).tender = [⟨r0, .fill 0 1, false⟩] ∧ tokensFor tokenless r0 < 6000 ∧
    (pathAt tokenless r0).isSome = true := by decide
/-- What a list without its repeats holds, the list holds. -/
theorem of_mem_uniq {α : Type} [DecidableEq α] {l : List α} {x : α} (h : x ∈ uniq l) : x ∈ l := by
  have k : ∀ (l acc : List α), x ∈ l.foldl (fun acc y => if acc.contains y then acc else acc ++ [y]) acc → x ∈ acc ∨ x ∈ l := by
    intro l
    induction l with
    | nil => exact fun acc h => .inl h
    | cons y l ih =>
      intro acc h
      rcases ih _ h with h | h
      · dsimp only at h
        split at h
        · exact .inl h
        · rcases List.mem_append.1 h with h | h
          · exact .inl h
          · exact .inr (by simp_all)
      · exact .inr (List.mem_cons_of_mem _ h)
  simpa using k l [] h
/-- The registers of one frame of lane 0 have their places on that page, which the core's TLB holds. -/
theorem places {s : State} {core : Nat} {u : Train} {frame : Nat} (he : NoErrors s) (hu : u.asid = 0) (hs : s.mem = tables)
    (hr : ctxRoot s 0 = 0x100000) (hv : ctxValid s 0 = true) (ht : (coreAt s core).tlb = [⟨0, 2, 30, 0x4000002F⟩])
    (hk : (coreAt s core).upper = []) (h3 : walkEntry s (some core) 0x80000000 0x100000 3 = .inr 0x200000)
    (h2 : walkEntry s (some core) 0x80000000 0x200000 2 = .inl (.leaf 0x4000002F 30))
    (h : (List.range 24).all (fun k => decide (0x201000 ≤ stackKey (slotRegVa u frame k 0)) &&
      tenderPlace s core u.asid (slotRegVa u frame k 0) 4 == .key (stackKey (slotRegVa u frame k 0)) &&
      (coreAt s core).tlb.any (·.covers u.asid (slotRegVa u frame k 0)) &&
      (List.range 24).all fun j => k == j || decide (stackKey (slotRegVa u frame k 0) + 4 ≤ stackKey (slotRegVa u frame j 0)) ||
        decide (stackKey (slotRegVa u frame j 0) + 4 ≤ stackKey (slotRegVa u frame k 0))) = true) :
    FramePlaces s core u frame 1 fun k l => stackKey (slotRegVa u frame k l) := by
  have l0 : ∀ l ∈ LaneSet.toList 1, l = 0 := by decide
  simp only [List.all_eq_true, List.mem_range, Bool.and_eq_true, decide_eq_true_eq, beq_iff_eq, Bool.or_eq_true] at h
  refine ⟨he, fun m va x hm hx => ?_, fun k hk l hl => ?_⟩
  · rw [hu] at *
    have hw : walkOf { s with mem := m } (some core) 0 va = walkOf s (some core) 0 va := walk_paged hs hr fun a _ hb => hm a (by
      rintro ⟨k, hk, l, hl, h1, -⟩
      obtain rfl := l0 l hl
      have := (h k hk).1.1.1
      have h1 : stackKey (slotRegVa u frame k 0) ≤ a := h1
      omega)
    simp only [xlatForms, lanePage, Option.bind_none, Option.toList_none, List.filter_nil] at hx
    rw [show walkKept { s with mem := m } core 0 va = none by simp [walkKept, show (coreAt { s with mem := m } core).upper = [] from hk],
      show (coreAt { s with mem := m } core).tlb = [⟨0, 2, 30, 0x4000002F⟩] from ht, hw] at hx
    by_cases hc : va.toNat / 2 ^ 30 = 2
    · have e : walkOf s (some core) 0 va = .leaf 0x4000002F 30 := walk_stack hr hv h3 h2 hc
      rw [List.find?_cons_of_pos (by simpa [TlbEntry.covers] using hc)] at hx
      have hx := of_mem_uniq hx
      rw [e] at hx ⊢
      simp at hx
      rcases hx with hx | hx <;> simp_all
    · rw [List.find?_cons_of_neg (by simpa [TlbEntry.covers] using hc), List.find?_nil] at hx
      simpa using of_mem_uniq hx
  · obtain rfl := l0 l hl
    obtain ⟨⟨⟨-, h1⟩, h4⟩, h5⟩ := h k hk
    refine ⟨h1, h4, fun k' hk' l' hl' hne => ?_⟩
    obtain rfl := l0 l' hl'
    rcases h5 k' hk' with (rfl | h) | h
    · exact absurd rfl hne
    · exact .inl h
    · exact .inr h
theorem witness_TenderSteps_3 : ∀ k ∈ ([.spill 7 1, .fill 7 1] : List TenderKind), (coreAt (transferring k true) 0).relock = false ∧
    Memory.wf (transferring k true).mem ∧ ∃ u p, trainAt (transferring k true) 0 0 = some u ∧ pathAt (transferring k true) r0 = some p ∧
      FramePlaces (transferring k true) 0 u 7 1 (fun i l => stackKey (slotRegVa u 7 i l)) := by
  intro k hk
  rcases (by simpa using hk : k = .spill 7 1 ∨ k = .fill 7 1) with rfl | rfl <;>
    exact ⟨by decide, by decide, _, _, rfl, rfl, places (by unfold NoErrors; decide) rfl rfl (by decide) (by decide) (by decide)
      (by decide) (by decide) (by decide) (by decide +kernel)⟩
theorem witness_TenderSteps_4 : ∃ u p, trainAt (transferring (.record 1 0 0 0) true) 0 0 = some u ∧
    pathAt (transferring (.record 1 0 0 0) true) r0 = some p ∧ Memory.wf (transferring (.record 1 0 0 0) true).mem ∧
    tenderPlace (transferring (.record 1 0 0 0) true) 0 u.asid (recordVa u 0) 64 = .key 0x40012000 ∧
    (coreAt (transferring (.record 1 0 0 0) true) 0).relock = false ∧ (transferring (.record 1 0 0 0) true).latent = [] :=
  ⟨_, _, rfl, rfl, by decide, by decide, by decide, by decide⟩
/-- A refill of entry 1, with lanes 0 and 1, whose record is in memory. -/
def refilling : State :=
  let s := fixT (fun t => { t with refills := [⟨1, ⟨9, 3, 0, 0⟩, false⟩] })
    (fixK (fun c => { c with tender := [⟨⟨0, 0, 1, false⟩, .refill, true⟩] }) (transferring .refill true))
  withMem (0x40012008) [3] s
theorem witness_TenderSteps_5 : (coreAt refilling 0).relock = false ∧ ∃ u, (coreAt refilling 0).tender = [⟨⟨0, 0, 1, false⟩, .refill, true⟩] ∧ trainAt refilling 0 0 = some u ∧
    u.handler = none ∧ Untrapped u ∧ (u.refills.find? fun y => y.entry == 1) = some ⟨1, ⟨9, 3, 0, 0⟩, false⟩ ∧ 1 < u.paths.length ∧
    tenderPlace refilling 0 u.asid (recordVa u 0) 64 = .key 0x40012000 ∧ Clean refilling 0x40012000 64 ∧ memLe refilling.mem (0x40012000 + 8) 12 = 3 ∧
    memLe refilling.mem (0x40012000 + 28) 2 = 0 ∧ memLe refilling.mem (0x40012000 + 24) 4 = 0 ∧ memLe refilling.mem (0x40012000 + 20) 4 = 0 ∧ RmodeLegal 0 ∧
    memLe refilling.mem (0x40012000 + 30) 34 = 0 :=
  ⟨by decide, _, by decide, rfl, by decide, untrapped (by decide), by decide, by decide, by decide, clean_of rfl rfl rfl, by decide, by decide, by decide, by decide,
    by unfold RmodeLegal; decide, by decide⟩

/-- A launch of crews of one train each with 8 frames, whose window stacks lie at 2 GiB. -/
def onePacket : Packet := { noPacket with
  frames := 8, wsBase := 0x80000000, saveBase := 0x80100000, crecBase := 0x7000, doneObj := 0x8000, grid := (2, 1, 1), prio := 1 }
def entered : Launch := ⟨4, onePacket, none, 0, [], none, false, none, false, [(1, 0, 0)]⟩
def aCrew : Crew := ⟨⟨4, 0⟩, 0, 0, 0, 2, false, none, 0, 0, 0, 0, 0⟩
/-- The seated train as one of a crew, with that crew and its launch. -/
def manned (f : Train → Train) : State :=
  let s := fixT f (fixT (fun t => { t with crew := ⟨4, 0⟩ }) (paged one))
  { s with launches := [entered], crews := [aCrew], time := 1000000 }
theorem witness_CrewSteps : ∃ u, trainAt (manned fun t => { t with ended := some .byExit }) 0 0 = some u ∧ u.ended.isSome = true ∧
    drained (manned fun t => { t with ended := some .byExit }) 0 0 u = true ∧ u.crew = aCrew.ref ∧ 2 ≤ aCrew.left :=
  ⟨_, rfl, by decide, by decide +kernel, by decide, by decide⟩
/-- A tracker with a train that has drained. -/
def aTracker : Tracker := ⟨0, newTrain 7 noPacket ⟨0, 0⟩ 0 0 0 0⟩
def tracking : State := fixK (fun k => { k with trackers := updAt k.trackers 3 fun _ => some aTracker }) one
theorem witness_CrewSteps_2 : nth none (coreAt tracking 0).trackers 3 = some aTracker ∧ drained tracking 0 12 aTracker.train = true := by
  decide +kernel
theorem witness_CrewSteps_3 : launchAt (manned id) 4 = some entered ∧ entered.updates = [(1, 0, 0)] ∧
    leafCheck (manned id) true .write 32 entered.pk.doneObj (walkAsid (manned id) entered.pk.asid entered.pk.doneObj) = .ok 0x8000 ∧
    ownerOf (manned id) 0x8000 < (manned id).clusters.length := by decide
/-- A dependence on an object that is done. -/
def dependent : Launch := { entered with pk := { onePacket with deps := [0, 0x8000] } }
def depending : State :=
  let s := paged one
  { s with launches := [dependent] }
theorem witness_CrewSteps_4 : launchAt depending 4 = some dependent ∧ dependent.ready = none ∧ dependent.freed = false ∧
    ∀ va ∈ dependent.pk.deps, DepMet depending dependent.pk.asid va := by
  refine ⟨by decide, by decide, by decide, fun va h => ?_⟩
  rcases (by simpa [dependent] using h : va = 0 ∨ va = 0x8000) with rfl | rfl
  · exact .inl rfl
  · exact .inr ⟨0x8000, by decide, by decide, clean_of rfl rfl rfl, by decide, by decide⟩
/-- The launch when it is ready; with more scratchpad than a cluster has; and one that has waited beside a lesser crew. -/
def placeable : Launch := { entered with ready := some 0 }
def tooLarge : Launch := { placeable with pk := { onePacket with scratch := 2 ^ 23 } }
def placing (l : Launch) : State :=
  let s := paged one
  { s with launches := [l] }
theorem witness_CrewSteps_5 : launchAt (placing tooLarge) 4 = some tooLarge ∧ nextCrew tooLarge = some 0 ∧
    firstInLine (placing tooLarge) tooLarge = true ∧ tooLarge.waitPage = false ∧ chooseCluster (placing tooLarge) tooLarge 0 = none ∧
    (placing tooLarge).latent = [] ∧
    tooLarge.waitFrom = none := by decide +kernel
theorem witness_CrewSteps_6 : launchAt (placing placeable) 4 = some placeable ∧ nextCrew placeable = some 0 ∧
    firstInLine (placing placeable) placeable = true ∧ placeable.waitPage = false ∧
    chooseCluster (placing placeable) placeable 0 = some (0, [(0, 0, 1)], 0) ∧ (placing placeable).cores.length = 288 ∧
    (placing placeable).saved = [] ∧ (placing placeable).latent = [] := by decide +kernel
theorem witness_CrewSteps_7 : StackByte (placing placeable) 0 (stackVa onePacket 0 0) ∧
    StackByte (placing placeable) 0 (stackVa onePacket 0 0 + BitVec.ofNat 64 (stackBytes onePacket - 1)) :=
  ⟨⟨by decide, 0x4000002F, 30, by decide, by decide, by decide⟩, ⟨by decide, 0x4000002F, 30, by decide, by decide, by decide⟩⟩
/-- The launch after it has waited, and the seated crew of another launch of lesser priority. -/
def waited : Launch := { placeable with waitFrom := some 0 }
def lesser : Launch := ⟨5, { onePacket with prio := 0 }, some 0, 2, [], none, false, none, false, []⟩
def victim : Crew := ⟨⟨5, 0⟩, 0, 0, 0, 1, false, none, 0, 0, 0, 0, 0⟩
def contested (f : Train → Train) : State :=
  let s := fixT f (fixT (fun t => { t with crew := ⟨5, 0⟩ }) (paged one))
  { s with launches := [waited, lesser], crews := [victim], time := 1000000 }
theorem witness_CrewSteps_8 : launchAt (contested id) 4 = some waited ∧ nextCrew waited = some 0 ∧ waited.waitFrom = some 0 ∧
    0 + 50000 ≤ (contested id).time ∧ victimFor (contested id) waited 0 = some victim ∧ asks (contested id) waited = false := by
  decide +kernel
def stopping : State := fixP (fun p => { p with stop := .awaitingRegion }) (contested fun t => { t with preempt := some 0 })
theorem witness_CrewSteps_9 : ∃ u p, trainAt stopping 0 0 = some u ∧ pathAt stopping r0 = some p ∧ u.preempt = some 0 ∧
    0 + 100000 ≤ stopping.time ∧ p.stop = .awaitingRegion := ⟨_, _, rfl, rfl, by decide, by decide, by decide⟩
def stopped : State := fixP (fun p => { p with stop := .inFull }) (contested fun t => { t with preempt := some 0, allStopped := some 0 })
theorem witness_CrewSteps_10 : (stopped.crews.find? fun x => x.ref == ⟨5, 0⟩) = some victim ∧ launchAt stopped 5 = some lesser ∧
    trainsOf stopped ⟨5, 0⟩ = [(0, 0)] ∧ crewEngines stopped victim = false ∧
    (match trainAt stopped 0 0 with | some u => trainSettled stopped 0 0 u | none => false) = true ∧
    (stopped.cores.all fun k => k.trackers.all fun o => o.isNone) = true := by decide +kernel
/-- The same crew with a matrix-queue operation that has not started. -/
def crewOp : MatOp := { matOp with crew := ⟨5, 0⟩ }
def unstarted : State := fixC (fun k => { k with pairs := updAt k.pairs 0 fun p => { p with queue := [crewOp] } }) stopped
theorem witness_CrewSteps_11 : (unstarted.crews.find? fun x => x.ref == ⟨5, 0⟩) = some victim ∧ trainsOf unstarted ⟨5, 0⟩ = [(0, 0)] ∧
    (match trainAt unstarted 0 0 with | some u => u.allStopped == some 0 && u.ended.isNone &&
      (u.paths.all fun o => match o with | some p => p.region.hit.isEmpty | none => true) | none => false) = true ∧
    crewUnstarted unstarted victim = true ∧ 0 + 100000 ≤ unstarted.time := by decide +kernel
def heldOff : Crew := { victim with holdoff := some 0 }
theorem witness_CrewSteps_12 : (({ contested id with crews := [heldOff] } : State).crews.find? fun x => x.ref == ⟨5, 0⟩) = some heldOff ∧
    heldOff.holdoff = some 0 ∧ 0 + 1000000 ≤ (contested id).time := by decide
theorem witness_CrewSteps_13 : quiesceWaiters (waiting (.quiesce 60) one) 0 = [r0] ∧ (∃ u, trainAt (waiting (.quiesce 60) one) 0 0 = some u ∧
    u.scalars.length = 64) ∧ (∃ p, pathAt (waiting (.quiesce 60) one) r0 = some p ∧ p.pstate = .parked ∧ p.frozen = .none ∧
    p.wake = some (.quiesce 60)) := ⟨by decide +kernel, ⟨_, rfl, by decide⟩, ⟨_, rfl, by decide, by decide, by decide⟩⟩
/-- No lane holds an item, no list has one and no notify waits. -/
theorem noWork {s : State} {asid : Nat} (hl : s.lists = []) (hs : s.saved = []) (hn : s.notifies = [])
    (hk : (s.cores.all fun k => k.slots.all fun o => match o with | some t => t.lanes.all (·.hold.isNone) | none => true) = true) :
    NoWork s asid := by
  refine ⟨by simp [hl], fun k hk' t ht _ ln hln => ?_, by simp [hs], by simp [hn]⟩
  have := List.all_eq_true.1 (List.all_eq_true.1 hk k hk') _ ht
  simpa using List.all_eq_true.1 this ln hln
theorem witness_CrewSteps_14 : NoWork (waiting (.quiesce 60) one) 0 := noWork rfl rfl rfl (by decide +kernel)

/-- The last train of its crew, whose lanes 0 and 95 have a status. -/
def lastOne : State :=
  { manned (fun t => { t with ended := some .byExit, lanes := t.lanes.mapIdx fun i ln => if i = 0 ∨ i = 95 then { ln with status := 3 } else ln }) with
    crews := [{ aCrew with left := 1 }] }
theorem witness_CrewSteps_15 : ∃ u, trainAt lastOne 0 0 = some u ∧ u.ended.isSome = true ∧ drained lastOne 0 0 u = true ∧
    (lastOne.crews.find? fun x => x.ref == u.crew) = some { aCrew with left := 1 } ∧ aCrew.maxst = 0 ∧ u.lanes.length = 96 ∧
    launchAt lastOne aCrew.ref.launch = some entered ∧ launchKey lastOne entered.pk.asid (crecVa entered.pk aCrew.ref.crew) 32 = some 0x7000 ∧
    lastOne.latent = [] ∧ Memory.wf lastOne.mem ∧ ∀ x ∈ (clusterAt lastOne aCrew.cluster).stash, x.crew ≠ aCrew.ref :=
  ⟨_, rfl, by decide, by decide +kernel, by decide, by decide, by decide, by decide, by decide, by decide, by decide, by decide⟩

/-- The bytes from 0x80100000 on, 2 MiB at most, are on the window-stack page, whatever they hold. -/
theorem area_of {s : State} {m0 : List Host.Cell} {n : Nat} (hs : s.mem = tables) (hr : ctxRoot s 0 = 0x100000) (hv : ctxValid s 0 = true)
    (h3 : walkEntry s none 0x80000000 0x100000 3 = .inr 0x200000)
    (h2 : walkEntry s none 0x80000000 0x200000 2 = .inl (.leaf 0x4000002F 30)) (hn : n ≤ 0x200000)
    (hm0 : ∀ a, a < 0x201000 → memRead m0 a = memRead tables a) :
    AreaAt { s with mem := m0 } 0 0x80100000 n fun i => 0x40100000 + i := by
  have same : ∀ m v, (∀ a, a < 0x201000 → memRead m a = memRead tables a) → walkAsid { s with mem := m } 0 v = walkAsid s 0 v :=
    fun m v hm => walk_paged hs hr fun a _ h => by rw [hm a h, hs]
  have hb : (0x80100000 : DWord).toNat = 0x80100000 := rfl
  refine ⟨by omega, fun i _ j _ h => by simpa using h, fun off k hk ho _ => ⟨?_, fun j _ => by simp only; omega⟩, fun m v hm => ?_⟩
  · have ha : (0x80100000 + BitVec.ofNat 64 off : DWord).toNat = 0x80100000 + off := by
      rw [BitVec.toNat_add]; simp; omega
    have hw : walkAsid { s with mem := m0 } 0 (0x80100000 + BitVec.ofNat 64 off) = .leaf 0x4000002F 30 :=
      (same m0 _ hm0).trans (walk_stack hr hv h3 h2 (by rw [ha]; omega))
    have hc : canonical (0x80100000 + BitVec.ofNat 64 off) = true := by
      simp [canonical, bitsOf, Nat.shiftRight_eq_div_pow]; omega
    have hl : leafKey 0x4000002F 30 (0x80100000 + BitVec.ofNat 64 off) = 0x40100000 + off := by
      simp only [leafKey, ha]
      rw [show bitsOf 0x4000002F 51 30 = 1 from by decide, show Nat.testBit 0x4000002F 9 = false from by decide]
      simp; omega
    have hp : physOk { s with mem := m0 } (0x40100000 + off) k = true := by
      have : tierBase = 2 ^ 52 := rfl
      rw [physOk, if_pos (by omega)]
      simp; omega
    unfold wsKey
    rw [hw, hc]
    simp only [hl, hp]
    rfl
  · rw [same m0 v hm0]
    exact same m v fun a h => by rw [← hm0 a h]; exact hm a fun i hi => by simp only; omega

/-- The seated train as saved, whose area holds one Active path of lanes 0 and 95 at 0x40; the header lists no chunk. -/
def savedTrain : Train := { newTrain 7 onePacket ⟨4, 0⟩ 0 0 0 0 with asid := 0 }
def savedMem : List Host.Cell := tables ++ [(0x401001C0, 0x40), (0x401001C8, 1), (0x401001D3, 0x80), (0x401001DE, 2)] ++
  [(0x40105608, 0xFF), (0x40105609, 0xFF), (0x4010560A, 0xFF), (0x4010560B, 0xFF)]
def awaited : Launch := { placeable with savedCrews := [0], next := 1 }
def keptCrew : SavedCrew := ⟨aCrew, [savedTrain], List.replicate 3 Pair.reset⟩
def returned : State := { placing awaited with saved := [keptCrew], mem := savedMem }
def areaKey (i : Nat) : Nat := 0x40100000 + i
/-- Whether a train is of the size that the specification gives it, with no region's breach. -/
def plainB (u : Train) : Bool :=
  u.paths.length == 8 && u.lanes.length == 96 && u.scalars.length == 64 && u.jtab.length == 16 && (u.lanes.all (·.v.length == 16)) &&
  u.paths.all fun o => match o with | some p => !p.region.breach && p.region.hit.isEmpty | none => true
theorem plain_of {u : Train} (h : plainB u = true) : PlainTrain u := by
  simp only [plainB, Bool.and_eq_true, beq_iff_eq, List.all_eq_true] at h
  obtain ⟨⟨⟨⟨⟨h1, h2⟩, h3⟩, h4⟩, h5⟩, h6⟩ := h
  exact ⟨h1, h2, h3, h4, h5, fun p hp => by simpa using h6 _ hp⟩
theorem memRead_append {l m : List Host.Cell} {a : Nat} (h : ∀ x ∈ m, a < x.1) : memRead (l ++ m) a = memRead l a := by
  induction l with
  | nil => cases m with
    | nil => rfl
    | cons x m =>
      have := h x List.mem_cons_self
      simp [memRead, this, show ¬ x.1 = a by omega]
  | cons x l ih => simp only [List.cons_append, memRead, ih]
theorem savedMem_low : ∀ a, a < 0x201000 → memRead savedMem a = memRead tables a := fun a h => by
  rw [savedMem, List.append_assoc]
  exact memRead_append fun x hx => by simp at hx; rcases hx with rfl | rfl | rfl | rfl | rfl | rfl | rfl | rfl <;> simp <;> omega
theorem witness_CrewSteps_16 : launchAt returned 4 = some awaited ∧ nextCrew awaited = some 0 ∧ firstInLine returned awaited = true ∧
    awaited.waitPage = false ∧ chooseCluster returned awaited 0 = some (0, [(0, 0, 1)], 0) ∧ returned.cores.length = 288 ∧
    returned.clusters.length = 48 ∧ (returned.saved.find? fun x => x.crew.ref == ⟨awaited.id, 0⟩) = some keptCrew ∧ NoErrors returned ∧
    (∀ g ∈ returned.groups, g.gone = []) ∧
    AreaAt returned awaited.pk.asid (crewSaveVa awaited.pk 0) (crewSaveSize awaited.pk) areaKey := by
  refine ⟨by decide +kernel, by decide, by decide +kernel, by decide, by decide +kernel, by decide +kernel, by decide +kernel, by decide +kernel,
    by unfold NoErrors; decide, by decide, ?_⟩
  exact area_of (s := placing awaited) (m0 := savedMem) rfl (by decide) (by decide) (by decide) (by decide) (by decide) savedMem_low
theorem witness_CrewSteps_17 : headerOk ((List.range 4096).map fun i => memRead returned.mem (areaKey (20992 * awaited.pk.trains + i))) = true ∧
    areaOk ((List.range 20992).map fun i => memRead returned.mem (areaKey (20992 * savedTrain.tix + i))) = true := by decide +kernel
theorem witness_CrewSteps_18 : ∀ u ∈ keptCrew.trains, u.crew = ⟨awaited.id, 0⟩ ∧ u.asid = awaited.pk.asid ∧ u.tix < awaited.pk.trains ∧
    PlainTrain u ∧ allDeferred u = [] ∧ ∀ e < 8, wakeOk ((((List.range 20992).map fun i =>
      memRead returned.mem (areaKey (20992 * u.tix + i))).drop (448 + 64 * e)).take 64) ((nth none u.paths e).bind (·.wake)) = true := by
  intro u hu
  obtain rfl : u = savedTrain := by simpa [keptCrew] using hu
  exact ⟨by decide, by decide, by decide, plain_of (by decide), by decide, by decide +kernel⟩
theorem witness_CrewSteps_19 : ∀ x ∈ ([(0, 0, 1)] : List (Nat × Nat × Nat)), StackByte returned 0 (stackVa awaited.pk 0 x.1) ∧
    StackByte returned 0 (stackVa awaited.pk 0 x.1 + BitVec.ofNat 64 (stackBytes awaited.pk - 1)) := by
  intro x hx
  obtain rfl := List.mem_singleton.1 hx
  exact ⟨⟨by decide, 0x4000002F, 30, by decide, by decide, by decide⟩, ⟨by decide, 0x4000002F, 30, by decide, by decide, by decide⟩⟩

/-- The places of the save area of the crew that has stopped. -/
theorem witness_CrewSteps_20 : AreaAt stopped victim.asid (crewSaveVa lesser.pk 0) (crewSaveSize lesser.pk) areaKey ∧ NoErrors stopped ∧
    Memory.wf stopped.mem ∧ (allocOf stopped victim.cluster ⟨5, 0⟩).2 = lesser.pk.scratch ∧
    (engineImage (clusterAt stopped victim.cluster)).length = 409600 ∧
    ∀ x ∈ (clusterAt stopped victim.cluster).stash, x.crew ≠ ⟨5, 0⟩ := by
  refine ⟨area_of (s := stopped) (m0 := tables) rfl (by decide) (by decide) (by decide) (by decide) (by decide) fun _ _ => rfl,
    by unfold NoErrors; decide, by decide, by decide, ?_, by decide⟩
  have hb : ∀ n x, (leBytes n x).length = n := fun n => by
    induction n with
    | zero => exact fun _ => rfl
    | succ n ih => exact fun x => by simp [leBytes, ih]
  have hw : ∀ l : List Word, (wordBytes l).length = 4 * l.length := fun l => by
    simp [wordBytes, List.length_flatMap, hb, Nat.mul_comm]
  have hk : ∀ k : Cluster, (engineImage k).length = let p := nth Pair.reset k.pairs 0
      (p.accs.map fun a => (a.rows.map fun r => 4 * r.length).sum).sum + (p.latch.rows.map List.length).sum +
        (p.latch.scales.map List.length).sum + 12 + 4 + 2 + 3310 := fun k => by
    simp only [engineImage, List.length_append, List.length_flatMap, List.length_flatten, hw, hb]
  rw [hk]
  decide +kernel
theorem witness_CrewSteps_21 : ∀ x ∈ trainsOf stopped ⟨5, 0⟩, ∀ u, trainAt stopped x.1 x.2 = some u → u.asid = victim.asid ∧
    u.tix < lesser.pk.trains ∧ PlainTrain u ∧ ∀ y ∈ trainsOf stopped ⟨5, 0⟩, ∀ v, trainAt stopped y.1 y.2 = some v → v.tix = u.tix → y = x := by
  rw [show trainsOf stopped ⟨5, 0⟩ = [(0, 0)] from by decide +kernel]
  intro x hx u hu
  obtain rfl := List.mem_singleton.1 hx
  have h : (match trainAt stopped 0 0 with | some u => u.asid == 0 && u.tix == 0 && plainB u | none => false) = true := by decide +kernel
  rw [show trainAt stopped 0 0 = some u from hu] at h
  simp only [Bool.and_eq_true, beq_iff_eq] at h
  exact ⟨h.1.1, by rw [h.1.2]; decide, plain_of h.2, fun y hy _ _ _ => List.mem_singleton.1 hy⟩

/-! ### Engines, power and the governor -/

/-- A member that a list gives by its number. -/
theorem nth_mem {α : Type} {d x : α} {l : List α} {n : Nat} (h : nth d l n = x) (hd : x ≠ d) : x ∈ l := by
  revert n
  induction l with
  | nil => exact fun h => absurd h.symm hd
  | cons a l ih => intro n h; cases n with
    | zero => exact h ▸ List.mem_cons_self
    | succ n => exact List.mem_cons_of_mem _ (ih h)
/-- Whether no path of a table waits. -/
def calm (l : List (Option Path)) : Bool := l.all fun o => match o with | some p => p.wake.isNone | none => true
def calmTrain (o : Option Train) : Bool := match o with
  | some t => calm t.paths && (match t.handler with | some h => calm h.paths | none => true)
  | none => true
/-- Where no path waits, none does. -/
theorem noWake {s : State} (h : (s.cores.all fun k => k.slots.all calmTrain) = true) {r : PathRef} {p : Path}
    (hp : pathAt s r = some p) : p.wake = none := by
  have calmP : ∀ l n, calm l = true → nth none l n = some p → p.wake = none := fun l n hc hn => by
    simpa using List.all_eq_true.1 hc _ (nth_mem hn (by simp))
  have slotsCalm : ((coreAt s r.core).slots.all calmTrain) = true := by
    by_cases hk : coreAt s r.core = Core.reset
    · rw [hk]; decide
    · exact List.all_eq_true.1 h _ (nth_mem rfl hk)
  unfold pathAt at hp
  split at hp
  · rename_i t ht
    have hc := List.all_eq_true.1 slotsCalm _ (nth_mem ht (by simp))
    simp only [calmTrain, Bool.and_eq_true] at hc
    unfold pathsOf at hp
    split at hp
    · split at hp
      · rename_i x hx
        rw [hx] at hc
        exact calmP _ _ hc.2 hp
      · exact absurd hp (by cases r.entry <;> simp [nth])
    · exact calmP _ _ hc.1 hp
  · cases hp

theorem noWaiter {s : State} {id : Nat} (h : (s.cores.all fun k => k.slots.all calmTrain) = true) : NoWaiter s id := fun _ _ hp => by
  rw [noWake h hp]
  rfl

/-- A granted MMA with its operands in the scratchpad, as it starts; and when it has started with one row and one column. -/
def toStart : MatOp := ⟨4, 0, r0, ⟨0, 0⟩, 0, 1, .mma 0 true false false, 1, [0, 128, 4096, 128, 0, 0, 0, 0], none, none, [], [], [], [], [], [], [], 0, false, true, false⟩
def begun : MatOp := { toStart with started := true, rows := [⟨0, 0, 0, List.replicate 128 1, []⟩], cols := [⟨0, 4096, 0, List.replicate 128 1, []⟩] }
def owned : List Acc := updAt Pair.reset.accs 1 fun a => { a with owner := some ⟨0, 0⟩ }
def working (o : MatOp) (accs : List Acc) : State :=
  fixC (fun k => { k with pairs := updAt k.pairs 0 fun p => { p with queue := [o], accs := accs } }) matrices
theorem witness_EngineSteps : ∃ p, matOpAt (working toStart Pair.reset.accs) 0 4 = some (p, toStart) ∧ toStart.granted = true ∧
    toStart.started = false ∧ matReady (clusterAt (working toStart Pair.reset.accs) 0) p toStart = true ∧
    (clusterAt (working toStart Pair.reset.accs) 0).stash = [] ∧ accTaken p toStart = false ∧ toStart.accs = [1] ∧ toStart.maybe = [] :=
  ⟨_, rfl, by decide, by decide, by decide, by decide, by decide, by decide, rfl⟩
theorem witness_EngineSteps_2 : ∃ p, matOpAt (working begun owned) 0 4 = some (p, begun) ∧ begun.started = true ∧ begun.dirty = [] ∧ begun.ahead = [] ∧
    (∀ x ∈ p.queue, x.started = true → x.train ≠ begun.train → ∀ a ∈ x.accs, a ∉ begun.accs) ∧
    ownsAccs p begun = true ∧ (begun.rows.map (·.ix)).Nodup ∧ begun.acc < p.accs.length ∧
    0 < (nth Acc.reset p.accs begun.acc).rows.length := ⟨_, rfl, by decide, by decide, by decide, by decide, by decide, by decide, by decide, by decide⟩

/-- A copy of two bytes from 0x8000 to 0x9000, and one into slot 0 of a buffer. -/
def copying : CopyOp := ⟨4, 0, r0, 0, ⟨0, 0⟩, 0, 0x9000, 0x8000, false, false, none, 0, 2, 1, 0, 0, none, 0, true, true, false, true,
  false, [], 0, [], false, [], false, none⟩
def pushing : CopyOp := { copying with queue := some 7, arrived := false, started := false }
def copiesOf (l : List CopyOp) (s : State) : State := fixC (fun k => { k with copies := l }) (paged s)
theorem witness_EngineSteps_3 : ∃ b, copyAt (copiesOf [pushing] buffered) 0 4 = some pushing ∧ pushing.arrived = false ∧
    bufAt (clusterAt (copiesOf [pushing] buffered) 0) 7 = some b ∧ pushing.queue = some 7 ∧ b.slots = [.empty, .empty] :=
  ⟨_, by decide, by decide, rfl, by decide, by decide⟩
theorem witness_EngineSteps_4 : let o : CopyOp := { pushing with arrived := true }
    copyAt (copiesOf [o] buffered) 0 4 = some o ∧ o.granted = true ∧ o.started = false ∧
    slotFree (clusterAt (copiesOf [o] buffered) 0) o = true := by decide
theorem witness_EngineSteps_5 : copyAt (copiesOf [copying] one) 0 4 = some copying ∧ copying.started = true ∧ copying.atPage = false ∧
    copying.failed = none ∧ copying.moved = false ∧ copyAfterDone (copiesOf [copying] one) copying = true ∧
    copyAnswered (copiesOf [copying] one) copying = true ∧ -(2 ^ 26 : Int) < (dieAt (copiesOf [copying] one) 0).bucket ∧
    CopyPlaces (copiesOf [copying] one) 0 copying [(0x8000, 0x9000), (0x8001, 0x9001)] ∧
    (∀ x ∈ [(0x8000, 0x9000), (0x8001, 0x9001)], Unmoved (copiesOf [copying] one) x.1 1) ∧ NoWaiter (copiesOf [copying] one) 4 ∧
    Memory.wf (copiesOf [copying] one).mem :=
  ⟨by decide, by decide, by decide, by decide, by decide, by decide, by decide, by decide, ⟨by decide, by decide, by decide, fun x _ => clean_of rfl rfl rfl⟩, fun _ _ => unmoved_of rfl,
    noWaiter (by decide +kernel), by decide⟩
def freedBuf : Buffer := { bound with freed := true }
def freed : State := fixC (fun k => { k with bufs := updAt k.bufs 7 fun _ => some freedBuf }) bindable
theorem witness_EngineSteps_6 : bufAt (clusterAt freed 0) 7 = some freedBuf ∧ freedBuf.freed = true ∧ (clusterAt freed 0).copies = [] ∧
    SlotState.reading ∉ freedBuf.slots := by decide
/-- The signal box with an older request for a copy, and one to raise a band. -/
def signalled : MatOp := { toStart with id := 9, granted := false }
def signalling (l : List SbReq) : State := fixC (fun k => { k with
    sbq := l
    copies := [{ copying with granted := false }]
    pairs := updAt k.pairs 2 fun p => { p with queue := [signalled] } }) one
theorem witness_EngineSteps_7 : ∀ k ∈ ([.copy 4, .band 0, .matrix 2 9] : List SbKind), let l : List SbReq := [⟨0, 0, k⟩, ⟨0, 1, .band 1⟩]
    (⟨0, 0, k⟩ : SbReq) ∈ (clusterAt (signalling l) 0).sbq ∧ (∀ x ∈ (clusterAt (signalling l) 0).sbq, x ≠ ⟨0, 0, k⟩ → AsksFirst ⟨0, 0, k⟩ x) ∧
    unitsHeld (signalling l) 0 + unitsOf k ≤ (clusterAt (signalling l) 0).curbud ∧
    (∃ o, copyAt (signalling l) 0 4 = some o) ∧ ∃ p, matOpAt (signalling l) 2 9 = some (p, signalled) := by
  unfold AsksFirst
  intro k hk
  rcases (by simpa using hk : k = .copy 4 ∨ k = .band 0 ∨ k = .matrix 2 9) with rfl | rfl | rfl <;>
    exact ⟨by decide +kernel, by decide +kernel, by decide +kernel, ⟨_, rfl⟩, _, rfl⟩
/-- A command that adds one word of 0x8400 to 0x8000, one that fills 0x8000, and one that is done. -/
def command (op : Nat) (left : List Nat) : NmcCmd :=
  ⟨4, 0, r0, ⟨0, 0⟩, 0, [], op, 0, 0x8000, 0x8400, 1, 0, 0, some 0x9000, 0, left, [], none, []⟩
def commanded (op : Nat) (left : List Nat) : State :=
  let s := fixK (fun k => { k with tlb := [⟨0, 0, 30, 0x1F⟩] }) (paged one)
  { s with nmcs := [command op left] }
theorem witness_EngineSteps_8 : ∀ op ∈ [0, 2], let q := command op [0]
    nmcAt (commanded op [0]) 4 = some q ∧ -(2 ^ 26 : Int) < (dieAt (commanded op [0]) 2).bucket ∧ 0 ∈ q.left ∧ 0x8000 / 256 % 12 = 8 ∧
    q.left.Nodup ∧ Clean (commanded op [0]) 0x8000 4 ∧ nmOverlap q 0 = false ∧ Memory.wf (commanded op [0]).mem ∧
    HeldAt (commanded op [0]) 0 0 (q.d 0) ∧ HeldAt (commanded op [0]) 0 0 (q.s 0) ∧ Clean (commanded op [0]) 0x8400 4 ∧
    0x8000 % 4 = 0 ∧ 0x8400 % 4 = 0 := by
  intro op h
  rcases (by simpa using h : op = 0 ∨ op = 2) with rfl | rfl <;>
    exact ⟨by decide, by decide, by decide, by decide, by decide, clean_of rfl rfl rfl, by decide, by decide, by unfold HeldAt; decide,
      by unfold HeldAt; decide, clean_of rfl rfl rfl, by decide, by decide⟩
/-- Whether a place is a key. -/
def isKey (p : NmPlace) (k : Nat) : Bool := match p with | .key n => n == k | _ => false
theorem witness_EngineSteps_9 : ∀ op ∈ [0, 2], isKey (nmPlace (commanded op [0]) (command op [0]) (command op [0]).need
      ((command op [0]).d 0)) 0x8000 = true ∧
    isKey (nmPlace (commanded op [0]) (command op [0]) .read ((command op [0]).s 0)) 0x8400 = true := by decide
theorem witness_EngineSteps_10 : nmcAt (commanded 0 []) 4 = some (command 0 []) ∧ (command 0 []).left = [] ∧ (command 0 []).failed = none ∧
    NoWaiter (commanded 0 []) 4 ∧ ownerOf (commanded 0 []) 0x9000 < (commanded 0 []).clusters.length :=
  ⟨by decide, by decide, by decide, noWaiter (by decide +kernel), by decide⟩

/-- A GATHER of two rows at offsets 0 and 256 by v5, to start; and as it completes. -/
def gathering (x : Nat) : MatOp := { toStart with kind := .gather x, act := 3, desc := [0, 256, 0, 0, 4096, 0, 0, 0], vb := some (.fixed 5), ixs := [0, 1] }
def gathered (x : Nat) : MatOp := { gathering x with started := true, rows := [⟨0, 0, 0, List.replicate 128 1, List.replicate 8 2⟩, ⟨95, 256, 0, List.replicate 128 3, []⟩] }
/-- Lane 1 with 1 in v5, the other lanes with 0. -/
def indexed (o : MatOp) : State := fixT (fun t => { t with lanes := updAt t.lanes 1 fun ln => { ln with v := updAt ln.v 5 fun _ => 1 } })
  (working o Pair.reset.accs)
theorem witness_EngineSteps_11 : ∀ x ∈ [0, 1, 2], let o := gathering x
    ∃ p, matOpAt (indexed o) 0 4 = some (p, o) ∧ o.granted = true ∧ o.started = false ∧ matReady (clusterAt (indexed o) 0) p o = true ∧
      (clusterAt (indexed o) 0).stash = [] ∧ o.maybe = [] ∧
      ∀ l ∈ o.act.toList, o.w 0 + (nth 0 o.ixs l).toNat * o.w 1 + (if x = 1 then 64 else 128) ≤ (allocOf (indexed o) 0 o.crew).2 ∧
        (x = 2 → o.w 4 + 8 * (nth 0 o.ixs l).toNat + 8 ≤ (allocOf (indexed o) 0 o.crew).2) := by
  intro x hx
  rcases (by simpa using hx : x = 0 ∨ x = 1 ∨ x = 2) with rfl | rfl | rfl <;>
    exact ⟨_, rfl, by decide, by decide, by decide, by decide, by decide, by decide⟩
theorem witness_EngineSteps_12 : IndexHeld (indexed (gathering 0)) (gathering 0) := by
  intro g t hg ht l ln hl
  obtain rfl : Reg.fixed 5 = g := by simpa [gathering] using hg
  have key : (match anyTrain (indexed (gathering 0)) 0 with
      | some t => t.lanes.length == 96 && (List.range 96).all fun l => match t.lanes[l]? with
        | some ln => laneReg ln (.fixed 5) == nth 0 (gathering 0).ixs l | none => false
      | none => false) = true := by decide +kernel
  rw [show anyTrain (indexed (gathering 0)) 0 = some t from ht] at key
  simp only [Bool.and_eq_true, beq_iff_eq, List.all_eq_true, List.mem_range] at key
  have := key.2 l (key.1 ▸ (List.getElem?_eq_some_iff.1 hl).1)
  rw [hl] at this
  simpa using this
theorem witness_EngineSteps_13 : ∀ x ∈ [0, 1, 2], let o := gathered x
    ∃ p, matOpAt (working o owned) 0 4 = some (p, o) ∧ o.started = true ∧ o.dirty = [] ∧ (o.rows.map (·.ix)).Nodup ∧
      (∀ r ∈ o.rows, r.ix < 96) ∧ p.latch.rows.length = 96 ∧ p.latch.scales.length = 96 ∧ 0 < (clusterAt (working o owned) 0).pairs.length := by
  intro x hx
  rcases (by simpa using hx : x = 0 ∨ x = 1 ∨ x = 2) with rfl | rfl | rfl <;>
    exact ⟨_, rfl, by decide, by decide, by decide, by decide, by decide, by decide, by decide⟩
/-- An ACCRD of each element type, and an ACCWR of each operation, as it completes. -/
def moving (k : MatKind) (pitch : Word) : MatOp := { begun with kind := k, desc := [0, pitch, 0, 0, 0, 0, 0, 0], rows := [], cols := [] }
theorem witness_EngineSteps_14 : ∀ x ∈ ([(0, 4), (1, 2), (2, 2), (3, 1), (4, 1), (5, 8)] : List (Nat × Nat)),
    let o := moving (.accrd x.1 0 true) (BitVec.ofNat 32 (128 * x.2))
    ∃ p, matOpAt (working o owned) 0 4 = some (p, o) ∧ o.started = true ∧ o.ahead = [] ∧ (clusterAt (working o owned) 0).stash = [] ∧
      (∀ y ∈ p.queue, y.started = true → y.train ≠ o.train → ∀ a ∈ y.accs, a ∉ o.accs) ∧ x.1 < 6 ∧ 128 * x.2 ≤ o.w 1 := by
  intro x hx
  rcases (by simpa using hx : x = (0, 4) ∨ x = (1, 2) ∨ x = (2, 2) ∨ x = (3, 1) ∨ x = (4, 1) ∨ x = (5, 8)) with
    rfl | rfl | rfl | rfl | rfl | rfl <;> exact ⟨_, rfl, by decide, by decide, by decide, by decide, by decide, by decide⟩
/-- Accumulators 1 and 2 of the crew. -/
def ownedBoth : List Acc := updAt owned 2 fun a => { a with owner := some ⟨0, 0⟩ }
theorem witness_EngineSteps_15 : ∀ op ∈ [0, 1, 2, 3], let o := moving (.accwr op) 1024
    ∃ p, matOpAt (working o ownedBoth) 0 4 = some (p, o) ∧ o.started = true ∧ o.ahead = [] ∧ o.dirty = [] ∧ o.maybe = [] ∧
      (clusterAt (working o ownedBoth) 0).stash = [] ∧ ownsAccs p o = true ∧ o.acc < p.accs.length ∧ o.acc + 1 < p.accs.length ∧
      (∀ y ∈ p.queue, y.started = true → y.train ≠ o.train → ∀ a ∈ y.accs, a ∉ o.accs) ∧ ∀ a ∈ p.accs, a.rows.length = 96 := by
  intro op h
  rcases (by simpa using h : op = 0 ∨ op = 1 ∨ op = 2 ∨ op = 3) with rfl | rfl | rfl | rfl <;>
    exact ⟨_, rfl, by decide, by decide, by decide, by decide, by decide, by decide, by decide, by decide, by decide, by decide⟩
/-- AXPBY and an FP32 ADD, whose words of memory are zeros. -/
theorem witness_EngineSteps_16 : ∀ op ∈ [1, 2], let q := { command op [0] with ty := 9 }
    q.ty = ETy.fp32.code ∧ ∃ n, decF .fp32 0 = .fin false 0 n ∧ decF .fp32 q.alpha.toNat = .fin false 0 n ∧ decF .fp32 q.beta.toNat = .fin false 0 n ∧
      memLe (commanded op [0]).mem 0x8000 4 = 0 ∧ memLe (commanded op [0]).mem 0x8400 4 = 0 := by
  intro op h
  rcases (by simpa using h : op = 1 ∨ op = 2) with rfl | rfl <;> exact ⟨by decide, _, rfl, by decide, by decide, by decide, by decide⟩
theorem witness_PowerSteps : 287 < (modCore one 287 fun k => { k with renewIn := 0 }).cores.length ∧ 287 < 288 ∧
    (coreAt (modCore one 287 fun k => { k with renewIn := 0 }) 287).renewIn = 0 := by decide +kernel
theorem witness_PowerSteps_2 : 3 < 4 ∧ one.boot ≠ .off ∧ 3 < one.dies.length ∧ one.rampset.toNat % 2 ^ 8 = 80 ∧ one.govAt ≤ one.time := by
  decide
/-- A core whose sample is due, with a ring of one record at 0x9000. -/
def sampling : State := fixK (fun k => { k with sampctl := 1, sampIn := 0, ring := some (0x9000, 1), sampSlot := 11 }) one
theorem witness_PowerSteps_3 : (coreAt sampling 0).sampctl.getLsbD 0 = true ∧ (coreAt sampling 0).sampIn = 0 ∧
    (coreAt sampling 0).ring = some (0x9000, 1) ∧ (memLe sampling.mem 0x9000 4 + 2 ^ 32 - memLe sampling.mem 0x9004 4) % 2 ^ 32 < 1 ∧
    Memory.wf sampling.mem ∧ trainAt sampling 0 11 = none ∧ nth none (coreAt sampling 0).lastEnd 11 = none ∧ (coreAt sampling 0).issued = none ∧ sampling.latent = [] := by
  decide
theorem witness_PowerSteps_4 : 4 % 6 ≠ 5 ∧ (coreAt one 4).winEnd ≤ 100000 ∧ (coreAt (fixK (fun k => { k with relock := true }) one) 0).relock = true := by
  decide
/-- A cluster that has been idle for long on a die that gates, beside none of its crews; and in the states that follow. -/
def quietDie : Die := { Die.reset with power := 0x01001480 }
def quiet (g : Gate) : State :=
  let s := modCluster one 47 fun k => { k with gate := g, idleFrom := some 0 }
  { s with time := 20000, dies := List.replicate 4 quietDie }
theorem witness_PowerSteps_5 : (clusterAt (quiet .on) 47).gate = .on ∧ (clusterAt (quiet .on) 47).idleFrom = some 0 ∧
    (dieAt (quiet .on) (47 / 12)).power.toNat.testBit 24 = true ∧
    0 + 1000 * ((dieAt (quiet .on) (47 / 12)).power.toNat / 2 ^ 8 % 2 ^ 16) ≤ (quiet .on).time ∧ (quiet .on).crews = [] ∧
    (quiet .on).l1 = [] ∧ (clusterAt (quiet .gating) 47).gate = .gating ∧ (clusterAt (quiet .ungating) 47).gate = .ungating := by decide
/-- A hint that has run out, and one that has not. -/
def hinted : State := { one with dies := updAt one.dies 3 fun d => { d with hints := [(7, 0), (8, 1)] }, time := 100001 }
theorem witness_PowerSteps_6 : (7, 0) ∈ (dieAt hinted 3).hints ∧ (7, 0).2 + 100000 < hinted.time ∧ hinted.time ≤ (8, 1).2 + 100000 := by decide
theorem witness_PowerSteps_7 : 287 < 288 ∧ 95 < 96 ∧ (clusterAt one (287 / 6)).gate = .on := by decide
/-- A pin that ends: the leaf at 1 GiB has bit 8. -/
def pinned : State :=
  let s := paged one
  { s with thrash := [⟨0, 0x80000000, [], some 0⟩], time := 1000000000, mem := memPut s.mem 0x200011 [1] }
theorem witness_PowerSteps_8 : (pinned.thrash.find? fun y => y.asid == 0 && y.page == (0x80000000 : DWord).toNat && y.pinned.isSome) =
      some ⟨0, 0x80000000, [], some 0⟩ ∧ 0 + 1000000 * (pinned.migCtl.toNat / 2 ^ 16) ≤ pinned.time ∧ Memory.wf pinned.mem ∧
    ∃ k w bits, leafOf pinned 0 0x80000000 = some (k, w, bits) ∧ w.testBit 8 = true ∧ Clean pinned k 8 :=
  ⟨by decide, by decide, by decide, 0x200010, 0x4000012F, 30, by decide, by decide, clean_of rfl rfl rfl⟩
/-- What the conductor reads at start-up. -/
def booting (a b : Bool) : BootInfo := ⟨a, b, 7, [(5, 0x102)], [], List.replicate 8 0, 63, 4096, 8192, 0, 0⟩
theorem witness_PowerSteps_9 : ∀ a ∈ [true, false], ∀ b ∈ [true, false], one.boot ≠ .off ∧ bootOk (booting a b) = true := by decide

/-- The same core when its sample is of the slot of the seated train; which has issued, has ended, or has left the slot. -/
def watching (s : State) : State := fixK (fun k => { k with sampSlot := 0 }) s
def sampled : State := watching (fixP (fun p => { p with stall := 0x05 }) sampling)
theorem witness_PowerSteps_10 : UserSlot sampled 0 0 ∧ sampled.latent = [] ∧ (coreAt sampled 0).issued = none ∧ ∃ u p, trainAt sampled 0 0 = some u ∧
    u.ended = none ∧ Reported u 0 false p ∧ p.stall = 5 := by
  refine ⟨by unfold UserSlot; decide, by decide, by decide, _, _, rfl, by decide, ⟨⟨rfl, by decide, by decide⟩, fun e' h' q hq hne => ?_⟩, by decide⟩
  cases h' with
  | true =>
    obtain ⟨x, hx, -⟩ := hq
    exact absurd hx (by decide +revert)
  | false =>
    obtain ⟨hq, -, -⟩ := hq
    match e', hne with
    | 0, hne => exact absurd rfl hne
    | 1, _ => exact absurd hq (by decide +revert)
    | 2, _ => exact absurd hq (by decide +revert)
    | 3, _ => exact absurd hq (by decide +revert)
    | 4, _ => exact absurd hq (by decide +revert)
    | 5, _ => exact absurd hq (by decide +revert)
    | 6, _ => exact absurd hq (by decide +revert)
    | 7, _ => exact absurd hq (by decide +revert)
    | n + 8, _ => exact absurd (show (none : Option Path) = some q from hq) (by simp)
theorem witness_PowerSteps_11 : (coreAt (fixK (fun k => { k with issued := some (r0, 4, 1) }) sampled) 0).issued = some (r0, 4, 1) ∧ r0.slot = 0 := by decide
def report : EndReport := ⟨8, 1, 3⟩
theorem witness_PowerSteps_12 : ∃ u, trainAt (fixT (fun t => { t with ended := some .byTail, endReport := some report }) sampled) 0 0 = some u ∧
    u.ended = some .byTail ∧ u.endReport = some report := ⟨_, rfl, by decide, by decide⟩
theorem witness_PowerSteps_13 : let s := fixK (fun k => { k with lastEnd := updAt k.lastEnd 11 fun _ => some report }) sampling
    trainAt s 0 11 = none ∧ nth none (coreAt s 0).lastEnd 11 = some report := by decide
/-- No train of a core has a trap that waits. -/
def untrappedB (s : State) (core : Nat) : Bool := (coreAt s core).slots.all fun o => match o with
  | some u => (u.paths.all fun o => match o with | some p => p.trapDue.isNone | none => true) &&
    (match u.handler with | some h => h.paths.all fun o => (match o with | some p => p.trapDue.isNone | none => true) | none => true)
  | none => true
theorem witness_PowerSteps_14 : ∀ slot u, trainAt (fixK (fun k => { k with relock := true }) one) 0 slot = some u → Untrapped u ∧
    ∀ h p, u.handler = some h → some p ∈ h.paths → p.trapDue = none := by
  intro slot u hu
  have h : untrappedB (fixK (fun k => { k with relock := true }) one) 0 = true := by decide
  have h := List.all_eq_true.1 h _ (nth_mem hu (by simp))
  simp only [Bool.and_eq_true] at h
  refine ⟨untrapped h.1, fun x p hx hp => ?_⟩
  have h := h.2
  rw [hx] at h
  simpa using List.all_eq_true.1 h _ hp
/-- No ring of the error log, and a granule with an error that the scrub finds. -/
theorem witness_PowerSteps_15 : 0 < one.dies.length ∧ one.control.errLog = none ∧
    nextScrub (dieAt one 0) 0 ∈ ({ one with latent := [nextScrub (dieAt one 0) 0] } : State).latent := by decide +kernel
/-! ### The fabric -/

def near : State := { paged one with fabCtl := 63, time := 15750 }
theorem witness_FabricSteps : Reaches near 5 ∧ homeRefuses near (2 ^ 44 - 1) 2 = some .refused := by
  unfold Reaches PortOpen
  decide
/-- Export entry 255: 64 KiB at 0x10000 with every right, for ASID 0, beside list 3 of that ASID with one place left. -/
def exporting : State := withMem (ctlBase + 0xF00FF0) (leBytes 8 0x10000 ++ leBytes 4 1 ++ leBytes 2 0 ++ [15])
  { near with lists := [⟨3, 0, 0x9000, 2, 0, 3⟩] }
theorem witness_FabricSteps_2 : Reaches exporting 5 ∧ (∀ line ∈ [0x1FF], line < 2 ^ 44 ∧ homeRefuses exporting line 2 = none ∧
    homeRefuses exporting line 4 = none ∧ homeRefuses exporting line 12 = none) ∧ Memory.wf exporting.mem ∧ LineClean exporting 0x1FF := by
  unfold Reaches PortOpen LineClean
  decide +kernel
theorem witness_FabricSteps_3 : ∃ x, exportFor exporting 0x1FF = some (255, x) ∧ x.perm.testBit 3 = true ∧ listOk exporting x.asid 3 = true ∧
    exporting.notifies = [] := ⟨⟨0x10000, 0x10000, 0, 15⟩, by decide +kernel, by decide, by decide, by decide⟩
theorem witness_FabricSteps_4 : exportFor near 0x1FF = none := by decide +kernel
/-- A whole notify of peer 5. -/
def notified : State := { exporting with notifies := [⟨5, 9, 2, 0, 3, 0x1234, true, true, true, 0x1FF, .performed⟩] }
theorem witness_FabricSteps_5 : (notified.notifies.find? fun x => x.src == 5 && x.stn == 9) =
      some ⟨5, 9, 2, 0, 3, 0x1234, true, true, true, 0x1FF, .performed⟩ ∧ listAt notified 3 = some ⟨3, 0, 0x9000, 2, 0, 3⟩ ∧
    3 - 0 < 2 ^ 2 ∧ Clean notified (0x9000 + 8 * (3 % 2 ^ 2)) 8 ∧ Memory.wf notified.mem ∧ routeLost notified 5 = false :=
  ⟨by decide, by decide, by decide, clean_of rfl rfl rfl, by decide +kernel, by decide⟩
theorem witness_FabricSteps_6 : PortOpen exporting 15 ∧ exportAt exporting 0 = none ∧
    exportAt exporting 255 = some ⟨0x10000, 0x10000, 0, 15⟩ ∧ 256 * 255 + 256 ≤ 0x10000 ∧
    homeRefuses exporting (0x10000 / 256 + 255) 4 = none ∧ exporting.latent = [] := by
  unfold PortOpen
  decide +kernel
def multicasting : McstOp := ⟨4, 0, r0, ⟨0, 0⟩, 0, 9, 0x8000, 0, 0x8100, none, 2, [], true, false⟩
theorem witness_FabricSteps_7 : (({ near with mcsts := [multicasting] } : State).mcsts.find? fun x => x.id == 4) = some multicasting ∧
    multicasting.sent = true ∧ -(2 ^ 26 : Int) < (dieAt near (multicasting.port / 4)).bucket ∧ 1 ≤ [(0 : Nat)].length ∧ [(0 : Nat)].length ≤ 4096 := by decide
/-- A load of the last word of a line of peer 5, whose lane 0 waits. -/
def remoteLoad : RemoteReq := ⟨4, 5, 3, 0b1010, 2, 0, 6, .load r0 7 [⟨0, 0x400003FC, 252, false⟩] [.fixed 1] 4 false⟩
def remoteAtom : RemoteReq := ⟨4, 5, 3, 0b1000, 2, 0, 6, .atomic r0 7 0 [.fixed 1] 0x400003FC⟩
def asking (q : RemoteReq) : State :=
  { fixP (fun p => { p with pending := [⟨7, 0, .count 1, [], [.fixed 1], [4], [], none⟩] }) near with remotes := [q] }
theorem witness_FabricSteps_8 : ((asking remoteLoad).remotes.find? fun x => x.id == 4) = some remoteLoad ∧ remoteLoad.isAtomic = false ∧
    ((List.range 4).filter fun i => remoteLoad.sectors.getLsbD i).length = 2 ∧ ((asking remoteLoad).clusters.all fun k => k.svc.isEmpty) = true ∧
    (pathAt (asking remoteLoad) r0).isSome = true ∧ 252 / 64 < 4 ∧ remoteLoad.sectors.getLsbD (252 / 64) = true ∧ 252 % 64 + 4 ≤ 64 ∧
    ((asking remoteAtom).remotes.find? fun x => x.id == 4) = some remoteAtom ∧ remoteAtom.isAtomic = true ∧
    (∀ o ∈ ([.performed, .refused, .poisoned, .lost] : List RemoteOutcome), AnswerComes (asking remoteLoad) 5 2 o) := by
  unfold AnswerComes
  decide
/-- A write-combining entry that is old, and one that has been sent, with the seated path among its holders. -/
def combining (sent : Bool) : WcEntry := ⟨4, 5, 3, 1, List.replicate 256 0, [], [0, 1, 2], [], 0, sent, sent, []⟩
def combined (sent : Bool) : State := fixK (fun k => { k with wc := [combining sent] }) near
theorem witness_FabricSteps_9 : ((coreAt (combined false) 0).wc.find? fun x => x.id == 4) = some (combining false) ∧
    (combining false).draining = false ∧ (combining false).created + 250 * ((combined false).fabCtl.toNat % 2 ^ 6) ≤ (combined false).time ∧
    ((coreAt (combined true) 0).wc.find? fun x => x.id == 4) = some (combining true) ∧ (combining true).sent = true ∧
    failReason .lost = some 0 ∧ AnswerComes (combined true) 5 (routePort (combined true) 5) .lost ∧ (∃ p, pathAt (combined true) r0 = some p ∧ p.uid ∈ (combining true).holders) :=
  ⟨by rfl, by decide, by decide, by rfl, by decide, by decide, by unfold AnswerComes; decide, ⟨_, rfl, by decide⟩⟩
def outWrite (kind : Nat) : OutWrite := ⟨4, 5, 3, 2, kind, 0, 0, 0, [], [0, 1, 2], none⟩
theorem witness_FabricSteps_10 : ∀ kind ∈ [0, 1], (({ near with outWrites := [outWrite kind] } : State).outWrites.find? fun x => x.id == 4) =
    some (outWrite kind) ∧ AnswerComes near 5 2 .refused ∧ ∃ p, pathAt near r0 = some p ∧ p.uid ∈ (outWrite kind).holders := by
  intro kind h
  rcases (by simpa using h : kind = 0 ∨ kind = 1) with rfl | rfl <;> exact ⟨by decide, by unfold AnswerComes; decide, ⟨_, rfl, by decide⟩⟩
/-- Port 2 down for 10 microseconds, with routes through it: one has another port left, one has none. -/
def cut : State := { near with ports := updAt near.ports 2 fun _ => ⟨false, 0, false⟩, routes := [(5, 0x102), (6, 0x332)] }
theorem witness_FabricSteps_11 : 15 < near.ports.length ∧ (portAt near 15).up = true ∧ 2 < cut.ports.length ∧ (portAt cut 2).up = false ∧
    (portAt cut 2).failed = false ∧ (portAt cut 2).downAt + 10000 ≤ cut.time ∧ (6, (0x332 : Word)) ∈ cut.routes ∧
    (0x332 : Word).getLsbD 8 = true ∧ (0x332 : Word).toNat % 2 ^ 4 = 2 ∧ (0x332 : Word).getLsbD 9 = true ∧ (0x102 : Word).getLsbD 9 = false := by
  decide
def lostPeer : State := { near with routes := [(5, 0x502)] }
theorem witness_FabricSteps_12 : routeValid lostPeer 5 = true ∧ routeLost lostPeer 5 = true ∧
    PortOpen lostPeer (routePort lostPeer 5) := by
  unfold PortOpen
  decide

/-- A first packet, not the last, for a list that is not there. -/
theorem witness_FabricSteps_13 : Reaches exporting 5 ∧ listAt exporting 4 = none ∧ (∃ x, exportFor exporting 0x1FF = some (255, x)) ∧
    ∀ n ∈ exporting.notifies, n.src = 5 → n.stn ≠ 9 := by
  refine ⟨by unfold Reaches PortOpen; decide, by decide, ⟨⟨0x10000, 0x10000, 0, 15⟩, by decide +kernel⟩, by decide⟩
/-- A notify whose first packet has been taken, or refused. -/
def begunNotify (ok : Bool) : NotifyIn := ⟨5, 9, 2, 0, 3, 0x1234, ok, false, ok, 0x1FE, if ok then .performed else .refused⟩
def notifying (ok : Bool) : State := { exporting with notifies := [begunNotify ok] }
theorem witness_FabricSteps_14 : ∀ ok ∈ [true, false], Reaches (notifying ok) 5 ∧ (begunNotify ok).list < 4096 ∧
    ((notifying ok).notifies.find? fun x => x.src == 5 && x.stn == 9) = some (begunNotify ok) ∧ (begunNotify ok).last = false ∧
    (begunNotify ok).line < 0x1FF ∧ (begunNotify ok).ok = ok ∧ (begunNotify ok).all = ok ∧ homeRefuses (notifying ok) 0x1FF 12 = none ∧
    LineClean (notifying ok) 0x1FF ∧ Memory.wf (notifying ok).mem := by
  unfold Reaches PortOpen LineClean
  decide +kernel
/-- A CAS of peer 5 on the last word of an exported line, and one on a line that is not. -/
def comesIn (addr : Nat) : RemoteAtomic := ⟨5, 3, addr, 12, 8, 2, 0, 7, 0, false, 0, false, 0⟩
theorem witness_FabricSteps_15 : ∀ addr ∈ [0x1FFF8, 0x8000], let a := comesIn addr
    Reaches exporting a.src ∧ a.addr < tierBase ∧ a.op ≤ 13 ∧ a.bytes = 8 ∧ a.addr % a.bytes = 0 ∧
    (clusterAt exporting (ownerOf exporting a.addr)).svc = [] ∧ Clean exporting a.addr a.bytes ∧ Memory.wf exporting.mem ∧
    (homeRefuses exporting (a.addr / 256) 4 = none ↔ addr = 0x1FFF8) := by
  unfold Reaches PortOpen Clean
  decide +kernel
theorem witness_FabricSteps_16 : (((coreAt (combined false) 0).wc.take 64).find? fun x => x.id == 4) = some (combining false) := by rfl
theorem witness_FabricSteps_17 : cut.remotes = [] ∧ (cut.cores.all fun k => k.wc.isEmpty) = true ∧ cut.outWrites = [] ∧ cut.mcsts = [] ∧
    cut.groups = [] ∧ (0x332 : Word).toNat / 2 ^ 4 % 2 ^ 4 = 3 ∧ (portAt cut 3).failed = false := by decide +kernel
/-- The depots route peer 5 by port 4, with port 3 as the other one. -/
theorem witness_FabricSteps_18 : Reaches near 5 ∧ choiceOk near [(5, 0x334)] [] = true ∧ choiceOk lostPeer [(5, 0x334)] [] = true ∧
    ∀ s ∈ [near, lostPeer], PortsWork s := by
  refine ⟨by unfold Reaches PortOpen; decide, by decide +kernel, by decide +kernel, fun s hs p => ?_⟩
  have h : s.ports = List.replicate 16 ⟨true, 0, false⟩ := by
    rcases (by simpa using hs : s = near ∨ s = lostPeer) with rfl | rfl <;> rfl
  rw [portAt, h]
  by_cases hp : nth (⟨false, 0, false⟩ : Port) (List.replicate 16 ⟨true, 0, false⟩) p = ⟨false, 0, false⟩
  · rw [hp]
  · have := nth_mem rfl hp
    rw [List.eq_of_mem_replicate this]
/-! ### Groups and the host -/

/-- An entry for group 9 that waits to take effect: M is 2, the rank 1, ASID 3, valid. -/
def entryBytes : List Byte := [2, 0, 1, 0, 3, 0, 0, 0, 0, 1, 0, 0, 1, 0, 0, 0]
def entering : State :=
  let s := paged one
  { s with applying := [(9, 0, entryBytes)] }
theorem witness_GroupSteps : (entering.applying.find? fun x => x.1 == 9) = some (9, 0, entryBytes) ∧ entering.latent = [] ∧ groupAt entering 9 = none ∧
    (match exec (.groupEntryApply 9) entering with | .next t => entryValid t 9 | _ => false) = true := by decide
/-- A COLL of this package, the first of two ranks, that has sent its word; and what the other sent. -/
def sent (m : Nat) : CollSend := ⟨m, 0, 0, 0, 1, 0, [1, 0, 0, 0], false⟩
def collective : CollOp := ⟨4, 0, r0, ⟨0, 0⟩, 0, 0, 0, 0, 0x8000, 0x8200, 1, 0, 0x8100, none, 0, 0, 3, true, true, [], false, none, some (sent 2), none, [], []⟩
def collecting : Group := { groupOf .stable with colls := [collective] }
def member (g : Group) : State :=
  let s := paged one
  { s with groups := [g], time := 10000000 }
theorem witness_GroupSteps_2 : groupAt (member collecting) 9 = some collecting ∧ GroupOpen (member collecting) collecting ∧
    (collecting.colls.find? fun x => x.started && x.sent && x.seq == 0 && x.tag == 3 && x.result.isNone) = some collective ∧
    (depotRefuses 2 (viewSends collecting collective [none, some (sent 3)])).isSome = true ∧
    ∀ r < 2, (nth none (viewSends collecting collective [none, some (sent 2)]) r).isSome = true := by
  unfold GroupOpen
  decide
theorem witness_GroupSteps_3 : ∀ v ∈ ([.stable, .changing] : List ViewState), groupAt (member (groupOf v)) 9 = some (groupOf v) ∧ GroupOpen (member (groupOf v)) (groupOf v) ∧
    (groupOf v).inside = true ∧ 1 < (groupOf v).m ∧ 1 ≠ (groupOf v).rank := by
  unfold GroupOpen
  decide
/-- Rank 0 of two, with rank 1 lost or not, to which rank 1 proposes a view of both. -/
def proposedTo (lost : List Nat) : Group := { groupOf .stable with lost := lost }
theorem witness_GroupSteps_4 : ∀ lost ∈ ([[], [1]] : List (List Nat)), groupAt (member (proposedTo lost)) 9 = some (proposedTo lost) ∧ GroupOpen (member (proposedTo lost)) (proposedTo lost) ∧
    [true, true].length = (proposedTo lost).m ∧ nth false [true, true] (proposedTo lost).rank = true ∧ nth false [true, true] 1 = true ∧
    1 ≠ (proposedTo lost).rank := by
  unfold GroupOpen
  decide
/-- This package leads and has proposed a view of both ranks, with its own acknowledgement or without. -/
def leading (acks : List Nat) : Group := { groupOf .changing with proposed := 7, propMask := [true, true], acks := acks }
theorem witness_GroupSteps_5 : ∀ acks ∈ ([[], [0]] : List (List Nat)), groupAt (member (leading acks)) 9 = some (leading acks) ∧ GroupOpen (member (leading acks)) (leading acks) ∧
    (leading acks).leader = (leading acks).rank ∧ (leading acks).proposed = 7 ∧ nth false (leading acks).propMask 1 = true ∧
    1 ∉ (leading acks).acks ∧ (∀ r ∈ [1], r < (leading acks).m ∧ r ≠ (leading acks).rank) := by
  unfold GroupOpen
  decide
theorem witness_GroupSteps_6 : ∀ r, nth false (leading [0]).propMask r = true → r ∈ 1 :: (leading [0]).acks := by
  rintro (_ | _ | _ | r) h
  · decide
  · decide
  · exact absurd h (by decide)
  · exact absurd h (by simp [leading, nth])
/-- This package has acknowledged the view that rank 1 proposed. -/
def committing : Group := { groupOf .changing with proposed := 7, propMask := [true, true], leader := 1, ackedAt := some 0 }
theorem witness_GroupSteps_7 : groupAt (member committing) 9 = some committing ∧ GroupOpen (member committing) committing ∧ committing.ackedAt.isSome = true ∧ committing.proposed = 7 ∧
    committing.propMask = [true, true] ∧ nth false [true, true] committing.rank = true ∧ committing.leader ≠ committing.rank ∧
    committing.colls = [] ∧ committing.joiner = none ∧ (∀ r p, pathAt (member committing) r = some p → ∀ k, p.wake ≠ some (.fbar 9 k)) ∧
    0 + 1000000 ≤ (member committing).time :=
  ⟨by decide, by unfold GroupOpen; decide, by decide, by decide, by decide, by decide, by decide, by decide, by decide, fun r p hp k => by
    rw [noWake (by decide +kernel) hp]; simp, by decide⟩
/-- Rank 1 is outside the view, and asks to join. -/
def alone : Group := { groupOf .stable with live := [true, false] }
theorem witness_GroupSteps_8 : groupAt (member alone) 9 = some alone ∧ GroupOpen (member alone) alone ∧ alone.inside = true ∧ leads alone = true ∧ 1 < alone.m ∧
    alone.alive 1 = false ∧ alone.joiner = none := by
  unfold GroupOpen
  decide
/-- A phase whose arrival has been sent, with the seated path in it. -/
def phased : Group := { groupOf .stable with arrPhase := 0, phase := 65535 }
def inPhase : State := { waiting (.fbar 9 65535) one with groups := [phased] }
theorem witness_GroupSteps_9 : groupAt inPhase 9 = some phased ∧ phased.inside = true ∧ phased.arrPhase ≠ phased.phase ∧
    ∃ p, pathAt inPhase r0 = some p ∧ p.wake = some (.fbar 9 phased.phase) := ⟨by decide, by decide, by decide, _, rfl, by decide⟩
theorem witness_GroupSteps_10 : groupAt (member (groupOf .stable)) 9 = some (groupOf .stable) ∧ GroupOpen (member (groupOf .stable)) (groupOf .stable) ∧ (groupOf .stable).inside = true ∧
    ({ member (groupOf .stable) with rampset := 0 } : State).rampset.getLsbD 28 = false := by
  unfold GroupOpen
  decide
def joining : State := { waiting (.vjoin 9 60 0) one with time := 10000000 }
theorem witness_GroupSteps_11 : (∃ p u, pathAt joining r0 = some p ∧ trainAt joining 0 0 = some u ∧ p.wake = some (.vjoin 9 60 0) ∧
    u.scalars.length = 64) ∧ 0 + 10000000 ≤ joining.time := ⟨⟨_, _, rfl, rfl, by decide, by decide⟩, by decide⟩

theorem witness_GroupResults_7 : ∃ c, Ready reducing (grouped .stable) c ∧ RecvMeets (grouped .stable) c (groupOf .stable) ∧
    (nth ⟨false, 0, false⟩ (grouped .stable).ports (groupPort (grouped .stable) (groupOf .stable).dgrp)).failed = false := by
  refine meet (r := r0) (by decide) ⟨.inr ?_, by decide⟩
  have h : ∀ i < 4, (match checkLane (grouped .stable) 0 0 false .write 1 (BitVec.ofNat 64 0x8200 + BitVec.ofNat 64 i) with
      | .trap _ => false | .peer _ _ _ => false | _ => true) = true := by decide +kernel
  intro i hi
  have := h i hi
  refine ⟨fun cause hc => ?_, fun id pa kill hc => ?_⟩
  · rw [show checkLane (grouped .stable) 0 0 false .write 1 (BitVec.ofNat 64 0x8200 + BitVec.ofNat 64 i) = .trap cause from hc] at this
    cases this
  · rw [show checkLane (grouped .stable) 0 0 false .write 1 (BitVec.ofNat 64 0x8200 + BitVec.ofNat 64 i) = .peer id pa kill from hc] at this
    cases this
/-- A group with a JOIN that waits, and one that expects two arrivals. -/
def grouping (g : Group) : State := { grouped .stable with groups := [g] }
def joinedBy : Group := { groupOf .stable with joiner := some (1, false) }
def pairing : Group := { groupOf .stable with fbexp := 2 }
theorem witness_GroupResults_8 : ∀ g ∈ [joinedBy, pairing], ∃ c, Ready (.fbar (f3 0 0 4)) (grouping g) c ∧ MemberOf (grouping g) c g ∧
    EarlierDone (grouping g) c ∧ (livePaths c.t.paths).length ≤ 1 ∧ c.t.deferred = [] ∧ c.t.refills = [] := by
  intro g hg
  rcases (by simpa using hg : g = joinedBy ∨ g = pairing) with rfl | rfl <;>
    exact meet (r := r0) (by decide) (by unfold MemberOf EarlierDone; decide)
theorem witness_GroupResults_9 : joinedBy.joiner ≠ none ∧ joinedBy.arrivals = 0 ∧ pairing.joiner = none ∧ pairing.arrivals + 1 < pairing.fbexp ∧
    (groupOf .stable).fbexp ≤ (groupOf .stable).arrivals + 1 := by decide

/-- The entry of a group that is there, and idle. -/
theorem witness_GroupSteps_12 : let s := { entering with groups := [groupOf .stable] }
    (s.applying.find? fun x => x.1 == 9) = some (9, 0, entryBytes) ∧ s.latent = [] ∧ groupAt s 9 = some (groupOf .stable) ∧
    (groupOf .stable).colls = [] ∧ (groupOf .stable).arrivals = 0 ∧ (groupOf .stable).arrPhase = (groupOf .stable).phase ∧
    (groupOf .stable).held = 0 ∧ (groupOf .stable).view ≠ .changing ∧ (groupOf .stable).ackedAt = none ∧ (groupOf .stable).joiner = none := by
  decide
/-- A COLL whose send bytes are zeros, beside a contribution of 1 from the other rank, for an object. -/
def zeroSend : CollSend := ⟨2, 0, 0, 0, 1, 0, [0, 0, 0, 0], false⟩
def summing : CollOp := { collective with mine := some zeroSend, obj := some 0x9000 }
def summed : Group := { groupOf .stable with colls := [summing] }
theorem witness_GroupSteps_13 : groupAt (member summed) 9 = some summed ∧ GroupOpen (member summed) summed ∧ summed.joiner = none ∧
    summing.started = true ∧ summing.sent = true ∧ summing.tag = summed.tag ∧ summing.result = none ∧ summing.atPage = false ∧
    summing.failed = none ∧ (∀ r < summed.m, summed.alive r = true) ∧ summed.rank = 0 ∧ summed.m = 2 ∧
    (∀ x ∈ [zeroSend, sent 2], x.poisoned = false ∧ x.m = 2 ∧ x.kind = summing.kind ∧ x.red = summing.red ∧ x.ty = summing.ty ∧
      x.count = summing.count ∧ x.root = summing.root) ∧
    (∀ i < sendLen summed summing, sendChanged (member summed) summing i = false) ∧ (member summed).meddled = [] ∧
    rangesMeet summing.send (sendLen summed summing) summing.recv (recvLen summed summing) = false ∧
    ownerOf (member summed) 0x9000 < (member summed).clusters.length ∧ Memory.wf (member summed).mem := by
  unfold GroupOpen
  decide +kernel
/-- Over these tables, and on a core that holds no translation, writes to other bytes move no walk. -/
theorem steady_of {s : State} {core : Nat} {written : Nat → Prop} (hs : s.mem = tables) (hr : ctxRoot s 0 = 0x100000)
    (ht : (coreAt s core).tlb = []) (hu : (coreAt s core).upper = []) (hw : ∀ a, written a → a < 0x100000) : Steady s core 0 written := by
  intro m va x hm hx
  have hx : x = walkOf { s with mem := m } (some core) 0 va := by
    simpa [xlatForms, lanePage, walkKept, show (coreAt { s with mem := m } core).tlb = [] from ht,
      show (coreAt { s with mem := m } core).upper = [] from hu, uniq] using hx
  exact hx.trans (walk_paged hs hr fun a h _ => hm a fun ha => absurd (hw a ha) (by omega))
theorem witness_GroupSteps_14 : NoWaiter (member summed) summing.id ∧
    RecvPlaces (member summed) summing (recvLen summed summing) (fun i => 0x8200 + i) 0x8120 := by
  have hn : recvLen summed summing = 4 := by decide
  refine ⟨noWaiter (by decide +kernel), by unfold NoErrors; decide, steady_of rfl (by decide) (by rfl) (by rfl) fun a ha => ?_, by decide +kernel,
    fun i _ j _ h => by simpa using h, fun i _ => by simp only; omega, by decide +kernel⟩
  rw [hn] at ha
  rcases ha with ⟨i, hi, rfl⟩ | ⟨-, h⟩
  · simp only; omega
  · omega
theorem witness_GroupSteps_15 : committing.held = 0 := by decide
/-- An intent of one watt in group 9 that the governor accepts, and one that it holds already. -/
def accepting (held : List Intent) : State := { member (groupOf .stable) with rampset := 0x10000100#32, intents := held }
def heldIntent : Intent := ⟨5, 10001000, 10001000, 1⟩
theorem witness_GroupSteps_16 : ∀ held ∈ [[], [heldIntent]], let s := accepting held
    groupAt s 9 = some (groupOf .stable) ∧ GroupOpen s (groupOf .stable) ∧ (groupOf .stable).inside = true ∧ s.rampset.getLsbD 28 = true ∧
    1 ≤ 4 * (s.rampset.toNat / 2 ^ 8 % 2 ^ 10) ∧ s.time + 1000 ≤ 10001000 ∧ 10001000 ≤ s.time + 10000000 ∧
    s.intents.filter (fun x => decide ((s.time : Int) ≤ x.start + 20000)) = held := by
  unfold GroupOpen
  decide
/-- The control window with a message of 64 bytes at the conductor, a reply ring of 64 records, on a page of its own. -/
def told (b : List Byte) (s : State) : State := withMem ctlBase (leBytes 4 1 ++ leBytes 4 0 ++ leBytes 4 64)
  (withMem (ctlBase + 64) b (withMem (ctlBase + 0x100008) (leBytes 4 64) { s with control := { s.control with awake := true } }))
/-- A message of a TYPE whose bytes from 8 on are given. -/
def msg (ty : Byte) (body : List Byte) : List Byte := (leBytes 4 77 ++ [ty, 0, 0, 0] ++ body ++ List.replicate 64 0).take 64
theorem witness_HostSteps : ∀ lane < 2, near.boot = .running ∧ near.control.expect.length = 2 ∧ nth 0 near.control.expect lane = 0 ∧
    Memory.wf near.mem := by decide
/-- A push that is not acknowledged, and one of the other lane. -/
def pushed : State := { near with control := { near.control with unacked := [(0, 9, 64, [1]), (1, 9, 64, [2])] } }
theorem witness_HostSteps_2 : pushed.control.unacked.find? (fun x => x.1 == 1 && x.2.1 == 9) = some (1, 9, 64, [2]) := by decide
def toLaunch (va : Nat) : List Byte := msg 1 (leBytes 8 0 ++ leBytes 8 va)
theorem witness_HostSteps_3 : ∀ va ∈ [0x8000, 0x8001, 0x100000000], let b := toLaunch va
    Asks (told b packed) 1 b ∧ leAt b 8 2 = 0 ∧ leAt b 10 6 = 0 ∧ leAt b 24 40 = 0 ∧ leAt b 16 8 = va ∧
    (told b packed).control.waits = false ∧ (told b packed).latent = [] ∧ pendingLaunches (told b packed) < 256 := by
  unfold Asks MessageOf MessageAt RecordAt RingsFit
  decide +kernel
/-- What the conductor reads at a launch message's packet. -/
def gotAt (va : Nat) : Got Packet :=
  readPacket (told (toLaunch va) packed) ⟨none, walkAsid (told (toLaunch va) packed) 0, 0, true, []⟩
    (fun a => ⟨none, walkAsid (told (toLaunch va) packed) a, a, true, []⟩) none (BitVec.ofNat 64 va)
theorem witness_HostSteps_4 : (match gotAt 0x8000 with | .ok p => p == thePacket | _ => false) = true ∧
    (match gotAt 0x8001 with | .trap c va e => c == 7 && va == 0x8001 && e.isNone | _ => false) = true ∧
    (match gotAt 0x100000000 with | .park _ _ _ => true | _ => false) = true := by decide +kernel
/-- A message that writes bytes 0 to 7 of context 1023: a root, and one that is out of place. -/
def toContext (root : Nat) : List Byte := msg 2 (leBytes 2 1023 ++ [0, 8] ++ leBytes 4 0 ++ leBytes 8 root)
theorem witness_HostSteps_5 : ∀ root ∈ [0x100000, 1], let b := toContext root
    let s := told b near
    Asks s 2 b ∧ leAt b 8 2 = 1023 ∧ leAt b 10 1 = 0 ∧ leAt b 11 1 = 8 ∧ leAt b 12 4 = 0 ∧ s.control.ctxBase + 2 ^ 18 ≤ 2 ^ 52 ∧
    (ctxOk (mergeBytes ((ctxOf s 1023 ++ List.replicate 256 0).take 256) 0 ((b.drop 16).take 8)) = true ↔ root = 0x100000) := by
  unfold Asks MessageOf MessageAt RecordAt RingsFit
  decide +kernel
theorem witness_HostSteps_6 : ∀ kind ∈ ([0, 1, 2, 3] : List Byte), let b := msg 3 [kind]
    Asks (told b near) 3 b ∧ leAt b 8 1 = kind.toNat ∧ leAt b 9 1 = 0 ∧ leAt b 10 2 = 0 ∧ leAt b 12 4 = 0 ∧ leAt b 16 8 = 0 ∧
    leAt b 24 40 = 0 := by
  unfold Asks MessageOf MessageAt RecordAt RingsFit
  decide +kernel
/-- Each configuration word, with values at its limits and outside. -/
def toConfig (word v : Nat) : List Byte := msg 4 (leBytes 2 word ++ leBytes 2 0 ++ leBytes 4 v)
theorem witness_HostSteps_7 : ∀ x ∈ ([(0, 0x1064640A), (0, 9), (1, 0x01001480), (4, 0), (5, 24), (8, 25), (9, 0x0184C040), (56, 0),
    (57, 0x00640A08), (57, 0), (58, 0), (58, 0xFF000000)] : List (Nat × Nat)), let b := toConfig x.1 x.2
    Configures (told b near) x.1 x.2 b ∧ (told b near).dies.length = 4 ∧ (told b near).clusters.length = 48 := by
  unfold Configures Asks MessageOf MessageAt RecordAt RingsFit
  decide +kernel
theorem witness_HostSteps_8 : ∀ sel ∈ ([0, 8] : List Byte), let b := msg 5 ([0, 0, 0, 0, sel])
    Asks (told b near) 5 b ∧ leAt b 8 4 % 32 = leAt b 8 4 % 256 ∧ leAt b 8 4 / 256 = 0 + 16 * (0 % 6) + 256 * (0 / 6) ∧ leAt b 12 1 = sel.toNat ∧
    leAt b 13 51 = 0 ∧ ∃ u, trainAt (told b near) 0 0 = some u ∧ u.ended = none ∧ (nth none u.paths 0).isSome = true := by
  intro sel h
  rcases (by simpa using h : sel = 0 ∨ sel = 8) with rfl | rfl <;>
    exact ⟨by unfold Asks MessageOf MessageAt RecordAt RingsFit; decide +kernel, by decide, by decide, by decide, by decide, _, rfl, by decide, by decide⟩
/-- A move of the page at 2 GiB to the frame at 4 GiB, where it can move and where it is pinned; and of an absent page. -/
def toMove (va : Nat) : List Byte := msg 6 (leBytes 8 0 ++ leBytes 8 va ++ leBytes 8 0x100000000)
theorem witness_HostSteps_9 : ∀ s ∈ [near, pinned], Moves (told (toMove 0x80000000) s) 0 0x80000000 0x100000000 (toMove 0x80000000) ∧
    0x100000000 % 2 ^ 30 = 0 ∧ 0x100000000 + 2 ^ 30 ≤ 0x9000000000 ∧ s.l1 = [] ∧ s.poison = [] ∧ s.latent = [] ∧
    bitsOf s.migCtl.toNat 7 0 ≠ 0 ∧ (s.clusters.all fun c => c.stash.isEmpty) = true := by
  unfold Moves Asks MessageOf MessageAt RecordAt RingsFit
  decide +kernel
theorem witness_HostSteps_10 : leafOf (told (toMove 0x80000000) near) 0 (BitVec.ofNat 64 0x80000000) = some (0x200010, 0x4000002F, 30) ∧
    leafOf (told (toMove 0x80000000) pinned) 0 (BitVec.ofNat 64 0x80000000) = some (0x200010, 0x4000012F, 30) ∧
    bitsOf 0x4000002F 51 30 * 2 ^ 30 = 0x40000000 ∧ near.thrash = [] := by decide +kernel
theorem witness_HostSteps_11 : Moves (told (toMove 0x100000000) near) 0 0x100000000 0x100000000 (toMove 0x100000000) ∧
    leafOf (told (toMove 0x100000000) near) 0 (BitVec.ofNat 64 0x100000000) = none ∧ canonical (BitVec.ofNat 64 0x100000000) = true ∧
    (match walkAsid (told (toMove 0x100000000) near) 0 (BitVec.ofNat 64 0x100000000) with | .absent 0 _ => true | _ => false) = true := by
  unfold Moves Asks MessageOf MessageAt RecordAt RingsFit
  decide +kernel
/-- A bind of list 4095 with 32 places, an unbind of it, and a bind of list 3, which is not idle. -/
def toBind (id k : Nat) : List Byte := msg 7 (leBytes 2 id ++ leBytes 2 1023 ++ leBytes 4 k ++ leBytes 8 0x9000)
theorem witness_HostSteps_12 : ∀ x ∈ ([(4095, 5), (4095, 0), (3, 24)] : List (Nat × Nat)), let b := toBind x.1 x.2
    Asks (told b exporting) 7 b ∧ leAt b 8 2 = x.1 ∧ leAt b 10 2 = 1023 ∧ leAt b 12 1 = x.2 ∧ leAt b 13 3 = 0 ∧ leAt b 16 8 = 0x9000 ∧
    leAt b 24 40 = 0 ∧ listAt (told b exporting) 4095 = none ∧ listAt (told b exporting) 3 = some ⟨3, 0, 0x9000, 2, 0, 3⟩ ∧
    listIdle (told b exporting) ⟨3, 0, 0x9000, 2, 0, 3⟩ = false := by
  unfold Asks MessageOf MessageAt RecordAt RingsFit
  decide +kernel
/-- A ring of 64 records for the samples of core 287, and for the error log. -/
def toRing (id : Nat) : List Byte := msg 8 (leBytes 4 id ++ leBytes 4 64 ++ leBytes 8 0x9000)
theorem witness_HostSteps_13 : ∀ id ∈ [0x1000 + 287, 0x2000], let b := toRing id
    Asks (told b near) 8 b ∧ leAt b 8 4 = id ∧ leAt b 12 4 = 64 ∧ leAt b 16 8 = 0x9000 ∧ leAt b 24 40 = 0 ∧ (told b near).cores.length = 288 ∧
    (told b near).control.held = [] ∧ (told b near).control.drops < 2 ^ 32 ∧ 64 = 2 ^ 6 := by
  unfold Asks MessageOf MessageAt RecordAt RingsFit
  decide +kernel
theorem witness_HostSteps_14 : ∀ off ∈ [0x141000, 2 ^ 24 - 16384], let b := msg 9 (List.replicate 32 1 ++ leBytes 4 off)
    Asks (told b near) 9 b ∧ leAt b 40 4 = off ∧ leAt b 44 20 = 0 ∧ off % 4096 = 0 ∧ 0x141000 ≤ off ∧ off + 16384 ≤ 2 ^ 24 := by
  unfold Asks MessageOf MessageAt RecordAt RingsFit
  decide +kernel

/-- A message whose TLBI has dropped its translations and whose answer is owed, when the accesses have performed. -/
def owing (ty : Byte) : State :=
  let s := told (msg ty []) near
  { s with control := { s.control with owed := some (0, 0, leBytes 4 0) } }
theorem witness_HostSteps_15 : ∀ ty ∈ ([2, 3, 6] : List Byte), RecordAt (owing ty) (msg ty []) ∧ RingsFit (owing ty) ∧
    leAt (msg ty []) 4 1 = ty.toNat ∧ (owing ty).control.owed = some (0, 0, leBytes 4 0) ∧ migrateBusy (owing ty) = false := by
  unfold RecordAt RingsFit
  decide +kernel
theorem witness_HostSteps_16 : Quiet near ∧ Clean (told (toContext 0x100000) near) (near.control.ctxBase + 256 * 1023) 256 :=
  ⟨⟨by decide +kernel, by decide, by decide +kernel⟩, clean_of rfl rfl rfl⟩
/-- A launch whose roster table stands on the page of peer 5. -/
def afield : State := told (toLaunch 0x8000) (withMem 0x8028 (leBytes 8 0x40000000) packed)
theorem witness_HostSteps_17 : Asks afield 1 (toLaunch 0x8000) ∧ afield.control.waits = false ∧ Sys2Proof.Machine.asked afield.control.got 5 0 = false ∧
    (match readPacket afield ⟨none, walkAsid afield 0, 0, true, afield.control.got⟩ (fun a => ⟨none, walkAsid afield a, a, true, afield.control.got⟩)
      none 0x8000 with | .ask 5 _ => true | _ => false) = true := by
  unfold Asks MessageOf MessageAt RecordAt RingsFit
  decide +kernel
/-- A device that has given as many quotes as its key may sign. -/
def spent : State := { near with signed := 2 ^ 20 }
theorem witness_HostSteps_18 : near.signed < 2 ^ 20 ∧ 2 ^ 20 ≤ spent.signed ∧
    Asks (told (msg 9 (List.replicate 32 1 ++ leBytes 4 0x141000)) spent) 9 (msg 9 (List.replicate 32 1 ++ leBytes 4 0x141000)) := by
  unfold Asks MessageOf MessageAt RecordAt RingsFit
  decide +kernel

/-! ### Frames, registers, traps and the step -/

theorem witness_LaneResultFrame : ∃ c, Ready (.iadd (f3 47 2 3)) full c ∧ destOf (.iadd (f3 47 2 3)) c = some [.ring 31] ∧
    partOk (.iadd (f3 47 2 3)) c := meet (r := r0) (by decide) ⟨by decide, by simp only [partOk, convWidths]⟩
theorem witness_LaneResultFrame_2 : ∃ c, Ready (.sadd ⟨60, 2, 4, 0, .s⟩) full c ∧ destOf (.sadd ⟨60, 2, 4, 0, .s⟩) c = some [.scalar 60] ∧
    ∀ n ≥ 61, Reg.scalar n ∉ [Reg.scalar 60] :=
  meet (r := r0) (by decide) ⟨by decide, fun n hn h => by simp at h; omega⟩
theorem witness_LaneResultFrame_3 : ∃ c, Ready (.fadd ⟨1, 2, 3, 0, ofTy 9⟩) full c ∧ destOf (.fadd ⟨1, 2, 3, 0, ofTy 9⟩) c = some [.fixed 1] ∧
    ∀ x, floatRule (.fadd ⟨1, 2, 3, 0, ofTy 9⟩) c = some x → NoEnabled c fun l => (x.2 l).2 :=
  meet (r := r0) (by decide) ⟨by decide, fun _ _ => noEnabled (by decide)⟩
theorem witness_LaneResultFrame_4 : ∃ c, Ready (.fcmp ⟨63, 2, 3, 7, ofTy 9⟩) full c ∧ destOf (.fcmp ⟨63, 2, 3, 7, ofTy 9⟩) c = some [.pred 63] ∧
    NoEnabled c fun l => (c.fcmpVal l).2 := meet (r := r0) (by decide) ⟨by decide, noEnabled (by decide)⟩

theorem witness_RegisterReadsAndWrites : newLane.v.length = 16 ∧ newLane.ring.length = 104 ∧ (∃ u p, trainAt full 0 0 = some u ∧
    pathAt full r0 = some p ∧ u.scalars.length = 64) := ⟨by decide, by decide, _, _, rfl, rfl, by decide⟩
/-- Lanes of the mask word 63: one that another path owns is not idle, one that none owns is. -/
theorem witness_RegisterReadsAndWrites_2 : ∃ u p, trainAt one 0 0 = some u ∧ pathAt one r0 = some p ∧ r0.handler = false ∧
    (∃ l < 96, p.mask.has l = true ∧ l / 32 ≠ 63 - 61) ∧ IdleFor u r0.entry 95 :=
  ⟨_, _, rfl, rfl, rfl, ⟨0, by decide⟩, by unfold IdleFor; decide⟩
theorem witness_RegisterReadsAndWrites_3 : ∃ u p, trainAt inHandler 0 0 = some u ∧ pathAt inHandler rh = some p ∧ rh.handler = true :=
  ⟨_, _, rfl, rfl, rfl⟩

/-- A path that is to issue an instruction. -/
theorem chosen {i : Instr} {s : State} {r : PathRef} (h : (let c := ctxAt s r i
    (mkCtx s r i).isSome && c.r == r && s.sel == some c.r && c.p.pstate == .active && c.p.frozen == .none && c.p.trapDue.isNone &&
      c.p.stop == .running) = true) : Chosen i s (ctxAt s r i) := by
  simp only [Bool.and_eq_true, beq_iff_eq, Option.isNone_iff_eq_none] at h
  obtain ⟨⟨⟨⟨⟨⟨h1, h2⟩, h3⟩, h4⟩, h5⟩, h6⟩, h7⟩ := h
  obtain ⟨c, hc⟩ := Option.isSome_iff_exists.1 h1
  exact { sel := h3, ctx := by rw [h2]; simp [ctxAt, hc], active := h4, thawed := h5, noTrap := h6, runs := .inl h7 }
/-- A chosen path's context with a property. -/
theorem meetChosen {i : Instr} {s : State} {r : PathRef} {P : Ctx → Prop} (h : Chosen i s (ctxAt s r i)) (hp : P (ctxAt s r i)) :
    ∃ c, Chosen i s c ∧ P c := ⟨_, h, hp⟩
/-- A result that is outstanding, with its window. -/
def outstanding (n : Nat) (dests : List Reg) (s : State) : State :=
  fixP (fun p => { p with pending := [⟨7, 64, .count n, [], dests, [], [], none⟩] }) s
theorem witness_IssueTraps : ∃ c, Chosen (.fadd (f3 1 2 3)) full c ∧ c.p.fetched = some (0, 0, 0) ∧ tyAccepted c.sp c.ty = false :=
  meetChosen (r := r0) (chosen (by decide)) (by decide)
theorem witness_IssueTraps_2 : ∃ c, Chosen (.mov (f3 48 2 0)) full c ∧ tyAccepted c.sp c.ty = true ∧
    fieldCheck c.sp (some c.ty) c.f = none :=
  meetChosen (r := r0) (chosen (by decide)) (by decide)
theorem witness_IssueTraps_3 : ∃ c, Chosen (.iadd ⟨1, 3, 2, 0, ofTy 2⟩) full c ∧ tyAccepted c.sp c.ty = true ∧
    (fieldCheck c.sp (some c.ty) c.f).isSome = true := meetChosen (r := r0) (chosen (by decide)) (by decide)
theorem witness_IssueTraps_4 : ∃ c, Chosen (.rampsetWrite ⟨8, 0, 0, 0, .s⟩) full c ∧ tyAccepted c.sp c.ty = true ∧
    fieldCheck c.sp (some c.ty) c.f = none ∧ isPrivileged (.rampsetWrite ⟨8, 0, 0, 0, .s⟩) = true ∧ c.r.handler = false :=
  meetChosen (r := r0) (chosen (by decide)) (by decide)
theorem witness_IssueTraps_5 : ∃ c, Chosen (.trap ⟨0, 0, 0, 0, .l1 7 0⟩) inHandler c ∧ tyAccepted c.sp c.ty = true ∧
    fieldCheck c.sp (some c.ty) c.f = none ∧ c.r.handler = true ∧ doubleFaults (.trap ⟨0, 0, 0, 0, .l1 7 0⟩) = true ∧ c.t.handler.isSome = true :=
  meetChosen (r := rh) (chosen (by decide)) (by decide)
theorem witness_IssueTraps_6 : ∃ c, Chosen (.iadd (f3 1 2 3)) (outstanding 0 [] full) c ∧ tyAccepted c.sp c.ty = true ∧
    fieldCheck c.sp (some c.ty) c.f = none ∧ ∃ q ∈ c.p.pending, q.win = .count 0 := meetChosen (r := r0) (chosen (by decide)) (by decide)
def checking : State := fixT (fun t => { t with dbgctl := 2 }) (outstanding 1 [.fixed 3] full)
theorem witness_IssueTraps_7 : ∃ c, Chosen (.iadd (f3 1 2 3)) checking c ∧ tyAccepted c.sp c.ty = true ∧ fieldCheck c.sp (some c.ty) c.f = none ∧
    (∀ q ∈ c.p.pending, q.win ≠ .count 0) ∧ c.p.pending.length < 16 ∧ dbgLachk c.t = true ∧
    (∃ q ∈ c.p.pending, ∃ d ∈ q.dests, d ∈ (regUses c).1 ∨ d ∈ (regUses c).2) ∧ ∀ n ≥ 61, Reg.scalar n ∉ (regUses c).2 := by
  refine meetChosen (r := r0) (chosen (by decide)) ⟨by decide, by decide, by decide, by decide, by decide, by decide, fun n _ h => ?_⟩
  rw [show (regUses (ctxAt checking r0 (.iadd (f3 1 2 3)))).2 = [.fixed 1] from by decide] at h
  simp at h

theorem witness_IssueTraps_8 : ∀ s ∈ [full, inHandler, outstanding 0 [] full, checking], s.shoots = [] ∧ (coreAt s 0).wc = [] ∧
    (s = full ∨ s = inHandler → ∃ p, pathAt s (if s = full then r0 else rh) = some p ∧ p.pending = []) := by
  intro s h
  rcases (by simpa using h : s = full ∨ s = inHandler ∨ s = outstanding 0 [] full ∨ s = checking) with rfl | rfl | rfl | rfl
  · exact ⟨by decide, by decide, fun _ => by rw [if_pos rfl]; exact ⟨_, rfl, by decide⟩⟩
  · exact ⟨by decide, by decide, fun _ => by rw [if_neg (by decide)]; exact ⟨_, rfl, by decide⟩⟩
  · exact ⟨by decide, by decide, fun h => by rcases h with h | h <;> exact absurd h (by decide)⟩
  · exact ⟨by decide, by decide, fun h => by rcases h with h | h <;> exact absurd h (by decide)⟩

theorem witness_TrapEntryAndReturn : ∀ s ∈ [paged one, one, outstanding 5 [] (paged one)], ∃ u p, r0.handler = false ∧ trainAt s 0 0 = some u ∧
    pathAt s r0 = some p ∧ u.handler = none ∧ u.ended = none ∧ r0.entry < 8 ∧ ∀ e q, nth none u.paths e = some q → q.trapDue = none := by
  intro s h
  have calmed : ∀ u : Train, (u.paths.all fun o => match o with | some p => p.trapDue.isNone | none => true) = true →
      ∀ e q, nth none u.paths e = some q → q.trapDue = none := fun u hu e q hq => by
    simpa using List.all_eq_true.1 hu _ (nth_mem hq (by simp))
  rcases (by simpa using h : s = paged one ∨ s = one ∨ s = outstanding 5 [] (paged one)) with rfl | rfl | rfl <;>
    exact ⟨_, _, rfl, rfl, rfl, by decide, by decide, by decide, calmed _ (by decide)⟩
theorem witness_TrapEntryAndReturn_2 : ctxTvec (paged one) 0 ≠ 0 ∧ ctxDvec (paged one) 0 ≠ 0 ∧ ctxTvec one 0 = 0 := by decide
/-- A handler whose TRAPCAUSE holds a MODE with RMODE 5, and one with RMODE 6. -/
def returning (cause : Word) : State := fixT (fun t => { t with trapCause := cause }) inHandler
theorem witness_TrapEntryAndReturn_3 : ∀ cause ∈ ([0x0140000E, 0x0180000E] : List Word), ∃ u h p, trainAt (returning cause) 0 0 = some u ∧
    u.handler = some h ∧ nth none u.paths h.entry = some p ∧ u.ended = none ∧ u.trapCause = cause ∧ u.pendHalt = false ∧
    u.stepOwed = false ∧ u.trapPc.toNat % 4 = 0 ∧ canonical u.trapPc = true ∧ Untrapped u := by
  intro cause h
  rcases (by simpa using h : cause = 0x0140000E ∨ cause = 0x0180000E) with rfl | rfl <;>
    exact ⟨_, _, _, rfl, rfl, rfl, by decide, by decide, by decide, by decide, by decide, by decide, untrapped (by decide)⟩
theorem witness_TrapEntryAndReturn_4 : RmodeLegal (0x0140000E / 2 ^ 11) ∧ ¬ RmodeLegal (0x0180000E / 2 ^ 11) := by
  unfold RmodeLegal
  decide
/-- A handler that is to return to an address that is not aligned. -/
theorem witness_TrapEntryAndReturn_5 : ∃ u h p, trainAt (fixT (fun t => { t with trapPc := 2 }) inHandler) 0 0 = some u ∧ u.handler = some h ∧
    nth none u.paths h.entry = some p ∧ u.ended = none ∧ u.trapPc.toNat % 4 ≠ 0 := ⟨_, _, _, rfl, rfl, rfl, by decide, by decide⟩

/-- A path with a result outstanding after sixteen were, until that one is written. -/
def brimming : State := fixP (fun p => { p with full := some 7 }) (outstanding 5 [] full)
theorem witness_IssueTraps_9 : ∃ c, Chosen (.ld .w32 ⟨1, 2, 48, 0, .s⟩) brimming c ∧ opensResult c = true ∧ ∃ q ∈ c.p.pending, c.p.full = some q.id :=
  meetChosen (r := r0) (chosen (by decide)) (by decide)
theorem witness_IssueTraps_10 : ∃ c, Chosen (.ld .w32 ⟨1, 2, 48, 0, .s⟩) (outstanding 5 [] full) c ∧ opensResult c = true ∧
    (∀ q ∈ c.p.pending, q.win ≠ .count 0) ∧
    ¬ (opensResult c = true ∧ (16 ≤ c.p.pending.length ∨ ∃ q ∈ c.p.pending, c.p.full = some q.id)) ∧
    c.p.fetched = some (0, 0, 0) ∧ tyAccepted c.sp c.ty = true ∧ fieldCheck c.sp (some c.ty) c.f = none :=
  meetChosen (r := r0) (chosen (by decide)) (by decide)
/-- A core whose clock relocks, in a program and in a handler. -/
theorem witness_TrapEntryAndReturn_6 : ∀ x ∈ [(paged one, r0), (inHandler, rh)], (coreAt x.1 x.2.core).relock = false ∧
    (coreAt (fixK (fun k => { k with relock := true }) x.1) x.2.core).relock = true ∧
    (pathAt (fixK (fun k => { k with relock := true }) x.1) x.2).isSome = true ∧
    (trainAt (fixK (fun k => { k with relock := true }) x.1) x.2.core x.2.slot).isSome = true := by decide

/-- Whether an answer is a next state. -/
def goesOn (o : Out) : Bool := match o with | .next _ => true | _ => false
theorem next_of {o : Out} (h : goesOn o = true) : ∃ t, o = .next t := by
  unfold goesOn at h
  split at h
  · exact ⟨_, rfl⟩
  · cases h
theorem witness_MemoryStaysCanonical : Memory.wf one.mem ∧ ∃ t, step one = .next t := ⟨by decide, next_of (by decide)⟩
theorem witness_EncodeDecode : wellFormed (.iadd (f3 1 2 3)) = true ∧ decodeWords 0x00020881 3 0 = .ok (.iadd ⟨2, 2, 0, 0, .l1 1 0⟩) 2 := by
  decide
theorem witness_StepRunsDecoded : ∀ w ∈ ([0, 3] : List Word), ∃ p, (seatWords State.reset w 0 0).sel = some r0 ∧
    pathAt (seatWords State.reset w 0 0) r0 = some p ∧ p.fetched = some (w, 0, 0) := by
  intro w h
  rcases (by simpa using h : w = 0 ∨ w = 3) with rfl | rfl <;> exact ⟨_, by decide, rfl, by decide⟩
theorem witness_StepRunsDecoded_2 : (match decodeWords 0 0 0 with | .ok _ _ => true | _ => false) = true ∧
    (match decodeWords 3 0 0 with | .bad _ => true | _ => false) = true := by decide
/-- With no path selected: a queued step that occurs and one that cannot; the round's end, before and after start-up. -/
def queue (l : List Instr) : State := { one with sel := none, agenda := l }
theorem witness_StepRunsDecoded_3 : (queue [.clusterCycle 0 1]).sel = none ∧ goesOn (exec (.clusterCycle 0 1) (queue [])) = true ∧
    (match exec (.bandRenewal 288) (queue []) with | .fault .notEnabled => true | _ => false) = true ∧ (queue []).agenda = [] ∧
    (queue []).boot = .running ∧ ({ queue [] with boot := .off } : State).boot ≠ .running := by decide +kernel
end Sys2Proof.Tests
end

section
/-! SUPPORT. The integer readings and bit patterns of the lane results: the model's own operations against the terms of the
statements. -/
namespace Sys2Proof.Machine

/-! ### Residues modulo 2^w -/

theorem wrapTo_eq (w : Nat) (x : Int) : wrapTo w x = (x % 2 ^ w).toNat := by simp [wrapTo]

/-- The low bits of an integer, as a number, are congruent to it. -/
theorem toNat_emod_modEq (w : Nat) (x : Int) : (((x % 2 ^ w).toNat : Nat) : Int) ≡ x [ZMOD 2 ^ w] := by
  rw [Int.toNat_of_nonneg (Int.emod_nonneg _ (by positivity))]
  exact Int.mod_modEq _ _

theorem wrapTo_modEq (w : Nat) (x : Int) : (wrapTo w x : Int) ≡ x [ZMOD 2 ^ w] := by
  rw [wrapTo_eq]
  exact toNat_emod_modEq w x

theorem wrapTo_lt (w : Nat) (x : Int) : wrapTo w x < 2 ^ w := by
  have h1 := Int.emod_lt_of_pos x (show (0 : Int) < 2 ^ w by positivity)
  have h2 := Int.emod_nonneg x (show (2 : Int) ^ w ≠ 0 by positivity)
  rw [wrapTo_eq]
  zify
  omega

theorem mod_modEq_cast (w n : Nat) : ((n % 2 ^ w : Nat) : Int) ≡ n [ZMOD 2 ^ w] := by
  push_cast
  exact Int.mod_modEq _ _

/-- Numbers congruent modulo 2^w have the same low bits. -/
theorem mod_eq_of_modEq {w n : Nat} {x : Int} (h : (n : Int) ≡ x [ZMOD 2 ^ w]) : n % 2 ^ w = (x % 2 ^ w).toNat := by
  rw [← h]
  norm_cast

/-- A number below 2^w that is congruent to an integer is its residue. -/
theorem eq_toNat_of_modEq {w n : Nat} {x : Int} (hn : n < 2 ^ w) (h : (n : Int) ≡ x [ZMOD 2 ^ w]) : n = (x % 2 ^ w).toNat := by
  rw [← mod_eq_of_modEq h, Nat.mod_eq_of_lt hn]

/-! ### Views (R43, R44) -/

/-- The model's view of the low bits is that of the statements. -/
theorem asView_eq (sg : Bool) (w a : Nat) : asView sg w a = viewNum sg w (a % 2 ^ w) := by
  cases sg with
  | false => simp [asView, viewNum]
  | true =>
    by_cases h : a % 2 ^ w < 2 ^ (w - 1)
    · simp [asView, viewNum, signedOf, h, Nat.not_le.2 h]
    · simp [asView, viewNum, signedOf, h, Nat.le_of_not_lt h]

/-- On a number of `w` bits the model's view is that of the statements. -/
theorem asView_of_lt {w a : Nat} (ha : a < 2 ^ w) (sg : Bool) : asView sg w a = viewNum sg w a := by
  rw [asView_eq, Nat.mod_eq_of_lt ha]

theorem elemOf_lt (w x e : Nat) : elemOf w x e < 2 ^ w := Nat.mod_lt _ (by positivity)

theorem intMin_eq (sg : Bool) (w : Nat) : intMin sg w = viewMin sg w := by simp [intMin, viewMin]
theorem intMax_eq (sg : Bool) (w : Nat) : intMax sg w = viewMax sg w := by simp [intMax, viewMax]

theorem viewMin_le_viewMax (sg : Bool) (w : Nat) : viewMin sg w ≤ viewMax sg w := by
  have h1 : (0 : Int) < 2 ^ (w - 1) := by positivity
  have h2 : (0 : Int) < 2 ^ w := by positivity
  cases sg <;> simp only [viewMin, viewMax, Bool.false_eq_true, if_true, if_false] <;> omega

/-- The model's clamping is that of the statements (R44). -/
theorem clampTo_eq (sg : Bool) (w : Nat) (x : Int) : clampTo sg w x = viewClamp sg w x := by
  have h := viewMin_le_viewMax sg w
  rw [clampTo, intMin_eq, intMax_eq]
  unfold viewClamp
  split
  · omega
  · split <;> omega

/-! ### Sums of powers of two -/

/-- A sum of chosen weights, folded or mapped. -/
theorem foldl_ite_add (p : Nat → Bool) (f : Nat → Nat) (l : List Nat) (z : Nat) :
    l.foldl (fun acc i => if p i then acc + f i else acc) z = z + (l.map fun i => if p i then f i else 0).sum := by
  induction l generalizing z with
  | nil => rfl
  | cons x xs ih =>
    rw [List.foldl_cons, ih, List.map_cons, List.sum_cons]
    split <;> omega

theorem bitSum_eq_foldl (w : Nat) (p : Nat → Bool) :
    bitSum w p = (List.range w).foldl (fun acc i => if p i then acc + 2 ^ i else acc) 0 := by
  rw [foldl_ite_add, Nat.zero_add, bitSum]

theorem bitSum_testBit (w : Nat) (p : Nat → Bool) (j : Nat) : (bitSum w p).testBit j = (decide (j < w) && p j) := by
  rw [bitSum_eq_foldl, (foldl_pow_testBit p w).2]

/-! ### Bit operations as arithmetic -/

/-- Numbers without a common bit add to their union. -/
theorem add_eq_or_of_disjoint {a b : Nat} (h : a &&& b = 0) : a + b = a ||| b := by
  have ha : a < 2 ^ (a + b + 1) := lt_of_le_of_lt (by omega) (Nat.lt_two_pow_self (n := a + b + 1))
  have hb : b < 2 ^ (a + b + 1) := lt_of_le_of_lt (by omega) (Nat.lt_two_pow_self (n := a + b + 1))
  have hs : a + b < 2 ^ (a + b + 1) := lt_of_le_of_lt (by omega) (Nat.lt_two_pow_self (n := a + b + 1))
  have hd : BitVec.ofNat (a + b + 1) a &&& BitVec.ofNat (a + b + 1) b = 0#_ := by
    rw [← BitVec.ofNat_and, h]
  have := congrArg BitVec.toNat (BitVec.add_eq_or_of_and_eq_zero _ _ hd)
  rwa [BitVec.toNat_or, BitVec.toNat_add, BitVec.toNat_ofNat, BitVec.toNat_ofNat, Nat.mod_eq_of_lt ha, Nat.mod_eq_of_lt hb,
    Nat.mod_eq_of_lt hs] at this

/-- The bits of the complement of a number of `w` bits. -/
theorem testBit_complement {w b : Nat} (hb : b < 2 ^ w) (j : Nat) :
    (2 ^ w - 1 - b).testBit j = (decide (j < w) && !b.testBit j) := by
  rw [Nat.sub_sub, Nat.add_comm 1 b, Nat.testBit_two_pow_sub_succ hb]

/-- Taking away the bits shared with `b` leaves those at which `b` has a 0. -/
theorem sub_and_eq {w a b : Nat} (ha : a < 2 ^ w) (hb : b < 2 ^ w) : a - (a &&& b) = a &&& (2 ^ w - 1 - b) := by
  have hn := testBit_complement hb
  have hd : (a &&& b) &&& (a &&& (2 ^ w - 1 - b)) = 0 := by
    refine Nat.eq_of_testBit_eq fun j => ?_
    cases h : b.testBit j <;> simp [hn, h]
  have hu : (a &&& b) ||| (a &&& (2 ^ w - 1 - b)) = a := by
    refine Nat.eq_of_testBit_eq fun j => ?_
    by_cases hj : j < w
    · cases h : b.testBit j <;> simp [hn, h, hj]
    · have : a.testBit j = false := Nat.testBit_lt_two_pow (lt_of_lt_of_le ha (Nat.pow_le_pow_right (by omega) (by omega)))
      simp [this]
  have := add_eq_or_of_disjoint hd
  omega

end Sys2Proof.Machine
end

section
/-! SUPPORT. The values of the integer instructions: the model's operations against the lines of the rules (R98-R103). -/
namespace Sys2Proof.Machine

/-! ### Elements: shifts, counts and products (R98, R99) -/

theorem shlVal_modEq (w a n : Nat) : (shlVal w a n : Int) ≡ (if n < w then a * 2 ^ n else 0) [ZMOD 2 ^ w] := by
  unfold shlVal
  split
  · rw [Nat.shiftLeft_eq]
    push_cast
    exact Int.mod_modEq _ _
  · rfl

theorem shrVal_eq {w a : Nat} (ha : a < 2 ^ w) (n : Nat) : shrVal w a n = if n < w then a / 2 ^ n else 0 := by
  rw [shrVal, Nat.mod_eq_of_lt ha, Nat.shiftRight_eq_div_pow]

theorem shaVal_modEq {w a : Nat} (ha : a < 2 ^ w) (n : Nat) :
    (shaVal w a n : Int) ≡ viewNum true w a / 2 ^ min n w [ZMOD 2 ^ w] := by
  have hv : signedOf w a = viewNum true w a := asView_of_lt ha true
  rw [shaVal, hv, Int.shiftRight_eq_div_pow]
  push_cast
  exact wrapTo_modEq _ _

/-- ROT (R99): the two parts of a rotated element have no common bit. -/
theorem rotVal_eq {w a : Nat} (hw : 0 < w) (ha : a < 2 ^ w) (n : Nat) :
    rotVal w a n = a * 2 ^ (n % w) % 2 ^ w + a / 2 ^ (w - n % w) := by
  have hk := Nat.mod_lt n hw
  simp only [rotVal, Nat.mod_eq_of_lt ha]
  generalize n % w = k at hk
  have hp : 2 ^ w = 2 ^ k * 2 ^ (w - k) := by rw [← pow_add]; congr 1; omega
  have hlow : a / 2 ^ (w - k) < 2 ^ k := by
    rw [Nat.div_lt_iff_lt_mul (by positivity), ← hp]
    exact ha
  have hlow' : a / 2 ^ (w - k) < 2 ^ w := lt_of_lt_of_le hlow (Nat.pow_le_pow_right (by omega) (by omega))
  have hhigh : a * 2 ^ k % 2 ^ w = 2 ^ k * (a % 2 ^ (w - k)) := by rw [hp, Nat.mul_comm a, Nat.mul_mod_mul_left]
  rw [Nat.shiftLeft_eq, Nat.shiftRight_eq_div_pow, Nat.or_mod_two_pow, Nat.mod_eq_of_lt hlow', hhigh,
    Nat.two_pow_add_eq_or_of_lt hlow]

/-- IMULHI (R98): the upper half of the double-width product. -/
theorem wrapTo_div_modEq (w : Nat) (x : Int) : ((wrapTo (2 * w) x / 2 ^ w : Nat) : Int) ≡ x / 2 ^ w [ZMOD 2 ^ w] := by
  have hc : (((x % 2 ^ (2 * w)).toNat : Nat) : Int) = x % 2 ^ (2 * w) := Int.toNat_of_nonneg (Int.emod_nonneg _ (by positivity))
  have hx : x % 2 ^ (2 * w) = x - 2 ^ w * (2 ^ w * (x / 2 ^ (2 * w))) := by
    rw [Int.emod_def, two_mul, pow_add, mul_assoc]
  rw [wrapTo_eq]
  push_cast
  rw [hc, hx, Int.sub_mul_ediv_left _ _ (by positivity)]
  simp [Int.ModEq]

theorem popcount_eq (w x : Nat) : popcount w x = (List.range w).countP fun j => x.testBit j := by
  rw [popcount, List.countP_eq_length_filter]

/-- CLZ (R98): the zeros above the highest 1 bit. -/
theorem sub_bitLen_cast {w a : Nat} (ha : a < 2 ^ w) :
    ((w - bitLen a : Nat) : Int) = if a = 0 then (w : Int) else w - 1 - Nat.log2 a := by
  by_cases h : a = 0
  · simp [bitLen, h]
  · have := (Nat.log2_lt h).2 ha
    simp only [bitLen, beq_iff_eq, if_neg h]
    omega

/-- BREV (R98): the sum taken from the other end. -/
theorem reverseBits_eq (w x : Nat) : reverseBits w x = bitSum w fun j => x.testBit (w - 1 - j) := by
  have hr : (List.range w).reverse = (List.range w).map fun j => w - 1 - j := by
    simpa [List.range_eq_range'] using List.reverse_range' (s := 0) (n := w)
  rw [reverseBits, foldl_ite_add, Nat.zero_add, ← List.sum_reverse, ← List.map_reverse, hr, List.map_map, bitSum]
  refine congrArg List.sum (List.map_congr_left fun j hj => ?_)
  have : w - 1 - (w - 1 - j) = j := by have := List.mem_range.1 hj; omega
  simp [this]

/-- IABS (R98): a negative number is negated. -/
theorem ite_neg_eq_max (x : Int) : (if x < 0 then -x else x) = max x (-x) := by
  split <;> omega

/-- Whether field X holds the value 1. -/
theorem toNat_beq_one (x : BitVec 4) : (x.toNat == 1) = decide (x = 1) := by
  revert x; decide

/-! ### Whole-register values (R100, R101, R103) -/

/-- BFE (R100). -/
theorem bfeVal_eq {w a : Nat} (ha : a < 2 ^ w) (sg : Bool) (b : Nat) :
    bfeVal sg w a b =
      let pos := b % 256
      let len := min (b / 256 % 256) w
      if len = 0 then 0 else (viewNum sg len (viewNum sg w a / 2 ^ pos % 2 ^ len).toNat % 2 ^ w).toNat := by
  simp only [bfeVal, beq_iff_eq]
  generalize min (b / 256 % 256) w = len
  split
  · rfl
  · rw [asView_of_lt (wrapTo_lt _ _), asView_of_lt ha, wrapTo_eq, wrapTo_eq, Int.shiftRight_eq_div_pow]
    push_cast
    rfl

/-- The bits of BFI's field. -/
theorem fieldMask_testBit (w pos len j : Nat) :
    (((2 ^ len - 1) <<< pos) % 2 ^ w).testBit j = (decide (j < w) && decide (pos ≤ j ∧ j < pos + len)) := by
  rw [Nat.testBit_mod_two_pow, Nat.testBit_shiftLeft, Nat.testBit_two_pow_sub_one]
  by_cases h : pos ≤ j
  · simp [h, show j - pos < len ↔ j < pos + len by omega]
  · simp [h]

/-- BFI (R100): the field's bits from `a`, the others from the base. -/
theorem bfiVal_eq (w a b base : Nat) :
    bfiVal w a b base =
      let pos := b % 256
      let len := min (b / 256 % 256) w
      bitSum w fun j => if pos ≤ j ∧ j < pos + len then a.testBit (j - pos) else base.testBit j := by
  simp only [bfiVal]
  generalize b % 256 = pos
  generalize min (b / 256 % 256) w = len
  have hf := fieldMask_testBit w pos len
  have hlt : ((2 ^ len - 1) <<< pos) % 2 ^ w < 2 ^ w := Nat.mod_lt _ (by positivity)
  generalize ((2 ^ len - 1) <<< pos) % 2 ^ w = field at hf hlt
  have hn := testBit_complement hlt
  rw [sub_and_eq (Nat.mod_lt _ (by positivity)) hlt, add_eq_or_of_disjoint]
  · refine Nat.eq_of_testBit_eq fun j => ?_
    rw [bitSum_testBit]
    by_cases hj : j < w
    · by_cases hp : pos ≤ j ∧ j < pos + len
      · simp [hn, hf, hj, hp]
      · simp [hn, hf, hj, hp]
    · simp [hn, hf, hj]
  · refine Nat.eq_of_testBit_eq fun j => ?_
    cases h : field.testBit j <;> simp [hn, h]

/-- LEA (R101). -/
theorem leaVal_eq (x : BitVec 4) (a : Nat) {b : Nat} (hb : b < 2 ^ 32) :
    leaVal x.toNat a b =
      let ext := if x.getLsbD 3 then (b : Int) else viewNum true 32 b
      ((a + ext * 2 ^ (x.toNat % 8)) % 2 ^ 64).toNat := by
  have hext : (((if x.getLsbD 3 then b % 2 ^ 32 else (sext64 32 b).toNat : Nat) : Nat) : Int) ≡
      (if x.getLsbD 3 then (b : Int) else viewNum true 32 b) [ZMOD 2 ^ 64] := by
    split
    · rw [Nat.mod_eq_of_lt hb]
    · have hv : signedOf 32 b = viewNum true 32 b := asView_of_lt hb true
      rw [sext64, hv, BitVec.toNat_ofInt]
      exact toNat_emod_modEq 64 _
  refine eq_toNat_of_modEq (Nat.mod_lt _ (by decide)) ?_
  refine (mod_modEq_cast 64 _).trans ?_
  rw [Nat.cast_add, Nat.cast_mul, Nat.cast_pow]
  exact (Int.ModEq.refl _).add (hext.mul_right _)

/-- A field of bits as a quotient and a remainder. -/
theorem bitsOf_add (x lo n : Nat) : bitsOf x (lo + n) lo = x / 2 ^ lo % 2 ^ (n + 1) := by
  rw [bitsOf, Nat.shiftRight_eq_div_pow]
  congr 2
  omega

/-- BYSEL (R103): a field of the selector below 8 names a byte of the pool, one from 8 on its sign or zero. -/
theorem byselVal_eq (x : BitVec 4) (a b selector : Nat) :
    byselVal (x.toNat == 1) a b selector =
      let pool := a % 2 ^ 32 + b % 2 ^ 32 * 2 ^ 32
      packElems 8 fun j =>
        let field := selector / 16 ^ j % 16
        let named := pool / 256 ^ (field % 8) % 256
        if field < 8 then named else if x = 1 ∨ named < 128 then 0 else 255 := by
  refine congrArg (packElems 8) (funext fun j => ?_)
  have h16 : (16 : Nat) ^ j = 2 ^ (4 * j) := by rw [pow_mul]; rfl
  have h256 (k : Nat) : (256 : Nat) ^ k = 2 ^ (8 * k) := by rw [pow_mul]; rfl
  simp only [toNat_beq_one, bitsOf_add, ← h16, ← h256, Nat.reduceAdd, Nat.reducePow]
  generalize selector / 16 ^ j % 16 = field
  generalize (a % 4294967296 + b % 4294967296 * 4294967296) / 256 ^ (field % 8) % 256 = named
  by_cases hf : field < 8
  · simp [hf]
  · by_cases hn : named < 128
    · simp [hf, hn, Nat.le_of_not_lt hf]
    · simp [hf, hn, Nat.le_of_not_lt hf, Nat.le_of_not_lt hn]

/-- IDOT4 (R103). -/
theorem idot4Val_eq (x : BitVec 4) (sat : Bool) (a b addend : Nat) :
    idot4Val x.toNat sat a b addend =
      let sa := x.getLsbD 0
      let sb := x.getLsbD 1
      let one (e : Nat) : Int := viewNum sa 8 (elemOf 8 a e) * viewNum sb 8 (elemOf 8 b e)
      let y := viewNum (sa || sb) 32 (addend % 2 ^ 32) + one 0 + one 1 + one 2 + one 3
      ((if sat then viewClamp (sa || sb) 32 y else y) % 2 ^ 32).toNat := by
  have hv (sg : Bool) (r e : Nat) : asView sg 8 (elemOf 8 r e) = viewNum sg 8 (elemOf 8 r e) :=
    asView_of_lt (elemOf_lt _ _ _) sg
  simp only [idot4Val, hv, asView_eq, clampTo_eq, wrapTo_eq, List.range_succ, List.range_zero,
    List.foldl_append, List.foldl_cons, List.foldl_nil, List.nil_append]
  rfl

/-! ### Cross-lane values (R120, R122) -/

/-- The source lane of an LXCH (R120). -/
theorem lxchLane_eq (x : BitVec 4) (l b : Nat) : lxchLane x.toNat l b = lxchRule x.toNat l b := by
  have hg : nth 96 [96, 32, 16, 8] (x.toNat / 4) =
      if x.toNat / 4 = 0 then 96 else if x.toNat / 4 = 1 then 32 else if x.toNat / 4 = 2 then 16 else 8 := by
    revert x; decide
  simp only [lxchLane, lxchRule, hg]
  generalize x.toNat % 4 = m
  split
  · rfl
  · rfl
  · rfl
  · rename_i h0 h1 h2
    simp only [if_neg h0, if_neg h1, if_neg h2, Bool.and_eq_true, decide_eq_true_eq]

/-- The active lanes with the value of a lane (R122). -/
theorem matching_eq (c : Ctx) (l : Nat) :
    c.matching l = laneIds.filter fun k =>
      c.act.has k && (c.v k (c.lane k) c.f.a c.wide == c.v l (c.lane l) c.f.a c.wide) := by
  simp only [Ctx.matching, LaneSet.toList, List.filter_filter]
  exact congrArg (List.filter · laneIds) (funext fun k => Bool.and_comm _ _)

/-- The value of an LXCH lane: that of its source lane where the condition holds and the source is active, else its own
(R120). -/
theorem lxch_value (c : Ctx) (x : BitVec 4) (l b : Nat) (v : Nat → Nat) :
    v (match lxchLane x.toNat l b with | some j => if c.act.has j then j else l | none => l) =
      match lxchRule x.toNat l b with
      | some j => if c.act.has j = true then v j else v l
      | none => v l := by
  rw [lxchLane_eq]
  cases lxchRule x.toNat l b with
  | none => rfl
  | some j => exact apply_ite v _ _ _

/-- Field X of MATCH chooses between three results (R122). -/
theorem match_value (x : BitVec 4) (rank count first : Nat) :
    (match x.toNat with | 0 => rank | 1 => count | _ => first) =
      if x = 0 then rank else if x = 1 then count else first := by
  split
  · rename_i h; simp [BitVec.eq_of_toNat_eq (y := 0#4) h]
  · rename_i h; simp [BitVec.eq_of_toNat_eq (y := 1#4) h]
  · rename_i h0 h1
    rw [if_neg (fun h => h0 (by rw [h]; rfl)), if_neg (fun h => h1 (by rw [h]; rfl))]

end Sys2Proof.Machine
end

section
/-! SUPPORT. What a ready instruction whose effect is a write of the active lanes does (R93), and the bounds of its
sources (R31, R77). -/
namespace Sys2Proof.Machine

/-! ### Source registers -/

theorem laneReg_lt (ln : Lane) (r : Reg) : (laneReg ln r).toNat < 2 ^ 32 := (laneReg ln r).isLt

/-- A vector source of one of the 96 lanes fits its width (R31, R32). -/
theorem rdV_lt (t : Train) (depth l : Nat) (hl : l < 96) (ln : Lane) (code : Nat) (wide : Bool) :
    rdV t depth l ln code wide < 2 ^ (if wide then 64 else 32) := by
  have hw : 2 ^ 32 ≤ 2 ^ (if wide then 64 else 32) := Nat.pow_le_pow_right (by omega) (by cases wide <;> decide)
  unfold rdV
  split
  · rename_i a _
    have ha := laneReg_lt ln a
    cases wide with
    | false => exact ha
    | true =>
      simp only [if_true]
      split
      · rename_i b _
        have hb := laneReg_lt ln b
        simp only [if_true] at hw ⊢
        omega
      · omega
  · refine lt_of_lt_of_le ?_ hw
    split
    · omega
    · omega
    · have : bitsOf t.trainId.toNat 4 0 < 32 := Nat.mod_lt _ (by decide)
      omega
    · omega

/-- A 32-bit source B fits its width, whether an immediate or a register (R77). -/
theorem vb_lt (c : Ctx) {l : Nat} (hl : l < 96) (ln : Lane) : c.vb l ln .i32 false < 2 ^ 32 := by
  unfold Ctx.vb
  split
  · rename_i x hx
    unfold expandImm at hx
    split at hx <;> cases hx
    · exact wrapTo_lt 32 _
    · exact BitVec.isLt _
  · exact rdV_lt _ _ _ hl _ _ _

/-! ### Writes of a lane register (R93) -/

/-- Registers whose elements have the same low bits are equal (R43). -/
theorem packElems_congr {w : Nat} {g g' : Nat → Nat} (h : ∀ e, g e % 2 ^ w = g' e % 2 ^ w) : packElems w g = packElems w g' := by
  simp only [packElems, h]

/-- A member of a set is one of the 96 lanes. -/
theorem lt_of_has {m : LaneSet} {l : Nat} (h : m.has l = true) : l < 96 := BitVec.lt_of_getLsbD h

/-- A write of the active lanes depends on what it gives those lanes alone. -/
theorem Ctx.writeD_congr (c : Ctx) (s : State) (wide : Bool) {g g' : Nat → Lane → Nat}
    (h : ∀ l < 96, ∀ ln, g l ln = g' l ln) : c.writeD s wide g = c.writeD s wide g' := by
  have hm (ls : List Lane) : mapLanes ls c.act (fun l ln => wrV c.depth ln c.f.d.toNat wide (g l ln)) =
      mapLanes ls c.act (fun l ln => wrV c.depth ln c.f.d.toNat wide (g' l ln)) := by
    refine congrArg (List.mapIdx · ls) (funext₂ fun l ln => ?_)
    by_cases ha : c.act.has l = true
    · simp only [if_pos ha, h l (lt_of_has ha)]
    · simp only [if_neg ha]
  simp only [Ctx.writeD, Ctx.onLanes, hm]

/-- A ready instruction whose effect is a write of the active lanes makes that write after its charge. -/
theorem issue_writeD {i : Instr} {s : State} {c : Ctx} (hr : Ready i s c) {wide : Ctx → Bool}
    {g : Ctx → Nat → Lane → Nat} {g' : Nat → Lane → Nat} (hg : ∀ l < 96, ∀ ln, g c l ln = g' l ln) :
    issue i noEntry (fun c s => c.writeD s (wide c) (g c)) s = .next (c.writeD (charged i s c) (wide c) g') := by
  rw [issue_next hr rfl, Ctx.writeD_congr _ _ _ hg]

theorem tyBits_viewOf_pos (t : ETy) : 0 < tyBits (viewOf t) := by cases t <;> decide
theorem tyIs64_viewOf (t : ETy) : tyIs64 (viewOf t) = tyIs64 t := by cases t <;> rfl

/-- What an operation on elements gives is congruent to what a rule gives, for elements of their width (R98). -/
def ElementAgrees (op : Bool → Nat → Nat → Nat → Nat → Nat) (rule : Bool → Nat → Nat → Nat → Nat → Int) : Prop :=
  ∀ (sg : Bool) (w a b x : Nat), 0 < w → a < 2 ^ w → b < 2 ^ w → (op sg w a b x : Int) ≡ rule sg w a b x [ZMOD 2 ^ w]

/-- An operation that gives the rule's own number agrees with it. -/
theorem elementAgrees_of_eq {op : Bool → Nat → Nat → Nat → Nat → Nat} {rule : Bool → Nat → Nat → Nat → Nat → Int}
    (h : ∀ (sg : Bool) (w a b x : Nat), 0 < w → a < 2 ^ w → b < 2 ^ w → (op sg w a b x : Int) = rule sg w a b x) :
    ElementAgrees op rule :=
  fun sg w a b x hw ha hb => h sg w a b x hw ha hb ▸ Int.ModEq.refl _

/-- A ready element-wise instruction gives each active lane the elements of a rule that its operation agrees with. -/
theorem issue_elementwise {i : Instr} {s : State} {c : Ctx} (hr : Ready i s c)
    {op : Ctx → Bool → Nat → Nat → Nat → Nat → Nat} {rule : Bool → Nat → Nat → Nat → Nat → Int}
    (h : ElementAgrees (op c) rule) :
    issue i noEntry (fun c s => c.elementwise s (op c)) s =
      let v := viewOf c.ty
      let w := tyBits v
      .next (c.writeD (charged i s c) (w == 64) fun l ln => packElems w fun e =>
        (rule (tySigned v) w (elemOf w (c.v l ln c.f.a (w == 64)) e) (elemOf w (c.vb l ln v (w == 64)) e)
          (elemOf w (c.vc l ln (w == 64)) e) % 2 ^ w).toNat) :=
  issue_writeD hr fun _ _ _ => packElems_congr fun _ =>
    (mod_eq_of_modEq (h _ _ _ _ _ (tyBits_viewOf_pos _) (elemOf_lt _ _ _) (elemOf_lt _ _ _))).trans
      (mod_eq_of_modEq (toNat_emod_modEq _ _)).symm

end Sys2Proof.Machine
end

section
/-! The element-wise, whole-register and cross-lane results (R98-R103, R105, R120, R122, R124). -/
namespace Sys2Proof.Machine

/-- Each instruction of the table has an element-wise operation that agrees with its line (R98, R99, R102). -/
theorem elementRule_agrees {i : Instr} {c : Ctx} {rule : Bool → Nat → Nat → Nat → Nat → Int} (h : elementRule i c = some rule) :
    ∃ op : Ctx → Bool → Nat → Nat → Nat → Nat → Nat,
      (∀ s, exec i s = issue i noEntry (fun c s => c.elementwise s (op c)) s) ∧ ElementAgrees (op c) rule := by
  unfold elementRule at h
  split at h <;> cases h
  case h_1 => -- IADD
    exact ⟨_, fun _ => rfl, fun _ w _ _ _ _ _ _ => wrapTo_modEq w _⟩
  case h_2 => -- ISUB
    exact ⟨_, fun _ => rfl, fun _ w _ _ _ _ _ _ => wrapTo_modEq w _⟩
  case h_3 => -- IMUL
    exact ⟨_, fun _ => rfl, fun _ w a b _ _ _ _ => mod_modEq_cast w (a * b)⟩
  case h_4 => -- IMULHI
    refine ⟨_, fun _ => rfl, fun sg w a b _ _ ha hb => ?_⟩
    rw [asView_of_lt ha, asView_of_lt hb]
    exact wrapTo_div_modEq w _
  case h_5 => -- IMAD
    exact ⟨_, fun _ => rfl, fun _ w a b x _ _ _ => mod_modEq_cast w (a * b + x)⟩
  case h_6 => -- IMIN
    refine ⟨_, fun _ => rfl, elementAgrees_of_eq fun sg w a b _ _ ha hb => ?_⟩
    rw [asView_of_lt ha, asView_of_lt hb, Nat.cast_ite]
  case h_7 => -- IMAX
    refine ⟨_, fun _ => rfl, elementAgrees_of_eq fun sg w a b _ _ ha hb => ?_⟩
    rw [asView_of_lt ha, asView_of_lt hb, Nat.cast_ite]
  case h_8 => -- IABS
    refine ⟨_, fun _ => rfl, fun sg w a _ _ _ ha _ => (wrapTo_modEq w _).trans ?_⟩
    simp only [asView_of_lt ha, clampTo_eq, toNat_beq_one, decide_eq_true_eq, ite_neg_eq_max]
    rfl
  case h_9 => -- AND
    exact ⟨_, fun _ => rfl, elementAgrees_of_eq fun _ _ _ _ _ _ _ _ => rfl⟩
  case h_10 => -- OR
    exact ⟨_, fun _ => rfl, elementAgrees_of_eq fun _ _ _ _ _ _ _ _ => rfl⟩
  case h_11 => -- XOR
    exact ⟨_, fun _ => rfl, elementAgrees_of_eq fun _ _ _ _ _ _ _ _ => rfl⟩
  case h_12 => -- ANDN
    exact ⟨_, fun _ => rfl, elementAgrees_of_eq fun _ _ _ _ _ _ ha hb => congrArg _ (sub_and_eq ha hb)⟩
  case h_13 => -- SHL
    exact ⟨_, fun _ => rfl, fun _ w a b _ _ _ _ => shlVal_modEq w a b⟩
  case h_14 => -- SHR
    refine ⟨_, fun _ => rfl, elementAgrees_of_eq fun _ w a b _ _ ha _ => ?_⟩
    rw [shrVal_eq ha, Nat.cast_ite]
    rfl
  case h_15 => -- SHA
    exact ⟨_, fun _ => rfl, fun _ _ _ b _ _ ha _ => shaVal_modEq ha b⟩
  case h_16 => -- ROT
    exact ⟨_, fun _ => rfl, elementAgrees_of_eq fun _ _ _ b _ hw ha _ => congrArg _ (rotVal_eq hw ha b)⟩
  case h_17 => -- POPC
    exact ⟨_, fun _ => rfl, elementAgrees_of_eq fun _ w a _ _ _ _ _ => congrArg _ (popcount_eq w a)⟩
  case h_18 => -- CLZ
    exact ⟨_, fun _ => rfl, elementAgrees_of_eq fun _ _ _ _ _ _ ha _ => sub_bitLen_cast ha⟩
  case h_19 => -- BREV
    exact ⟨_, fun _ => rfl, elementAgrees_of_eq fun _ w a _ _ _ _ _ => congrArg _ (reverseBits_eq w a)⟩
  case h_20 => -- IADDS
    refine ⟨_, fun _ => rfl, fun sg w a b _ _ ha hb => (wrapTo_modEq w _).trans ?_⟩
    simp only [asView_of_lt ha, asView_of_lt hb, clampTo_eq, toNat_beq_one, decide_eq_true_eq]
    rfl

/-- Settles O1: each instruction's operation agrees with its line of the table. -/
theorem integerElementResults : Obligations.IntegerElementResults := by
  intro i s c rule hrule hr
  obtain ⟨op, hexec, hop⟩ := elementRule_agrees hrule
  rw [hexec]
  exact issue_elementwise hr hop

/-- Each instruction of the rule writes its value to the active lanes (R98, R100, R101, R103, R105, R124). -/
theorem registerRule_agrees {i : Instr} {c : Ctx} {x : Bool × (Nat → Lane → Nat)} (h : registerRule i c = some x) :
    ∃ (wide : Ctx → Bool) (g : Ctx → Nat → Lane → Nat),
      (∀ s, exec i s = issue i noEntry (fun c s => c.writeD s (wide c) (g c)) s) ∧
      wide c = x.1 ∧ ∀ l < 96, ∀ ln, g c l ln = x.2 l ln := by
  unfold registerRule at h
  split at h <;> cases h
  case h_1 => -- MOV
    exact ⟨Ctx.wide, _, fun _ => rfl, (tyIs64_viewOf _).symm, fun _ _ _ => by rw [tyIs64_viewOf]; rfl⟩
  case h_2 => -- MOVI
    exact ⟨Ctx.wide, _, fun _ => rfl, (tyIs64_viewOf _).symm, fun _ _ _ => by rw [tyIs64_viewOf]; rfl⟩
  case h_3 => -- BFE
    exact ⟨fun c => tyIs64 (viewOf c.ty), _, fun _ => rfl, rfl, fun l hl ln => bfeVal_eq (rdV_lt _ _ _ hl _ _ _) _ _⟩
  case h_4 => -- BFI
    exact ⟨fun c => tyIs64 (viewOf c.ty), _, fun _ => rfl, rfl, fun _ _ _ => bfiVal_eq _ _ _ _⟩
  case h_5 => -- SEL
    exact ⟨fun c => tyIs64 (viewOf c.ty), _, fun _ => rfl, rfl, fun _ _ _ => rfl⟩
  case h_6 => -- LEA
    exact ⟨fun _ => true, _, fun _ => rfl, rfl, fun _ hl ln => leaVal_eq _ _ (vb_lt c hl ln)⟩
  case h_7 => -- BYSEL
    exact ⟨fun _ => false, _, fun _ => rfl, rfl, fun _ _ _ => byselVal_eq _ _ _ _⟩
  case h_8 => -- IDOT4
    exact ⟨fun _ => false, _, fun _ => rfl, rfl, fun _ _ _ => idot4Val_eq _ _ _ _ _⟩
  case h_9 => -- S2V
    exact ⟨Ctx.wide, _, fun _ => rfl, rfl, fun _ _ _ => rfl⟩
  case h_10 => -- P2V
    exact ⟨fun _ => false, _, fun _ => rfl, rfl, fun _ _ _ => (bitSum_eq_foldl _ _).symm⟩

/-- Settles O2: each instruction's value is that of the rule, in every lane that may be active. -/
theorem registerResults : Obligations.RegisterResults := by
  intro i s c x hx hr
  obtain ⟨wide, g, hexec, hwide, hg⟩ := registerRule_agrees hx
  rw [hexec, issue_writeD hr hg, hwide]

/-- Settles O5: the source lane and the matching lanes are those of the rules. -/
theorem crossLaneResults : Obligations.CrossLaneResults := by
  refine ⟨fun f s c hr => ?_, fun f s c hr => ?_⟩
  · exact issue_writeD hr (wide := Ctx.wide) fun l _ ln => lxch_value c c.f.x l _ fun k => c.v k (c.lane k) c.f.a c.wide
  · refine issue_writeD hr (wide := Ctx.wide) fun l _ ln => ?_
    rw [← matching_eq]
    exact match_value _ _ _ _

end Sys2Proof.Machine
end
